-- ==== Sys2Proof/Word.lean ====
section
/-! DEFINITION. The word types of the Thivex instruction set and of the TS880's memories, and the one container
the state is made of: a sparse table, plain data in one canonical form. -/

namespace Sys2Proof

/-- One byte of memory (R6: byte 0 of a value holds bits 7 to 0). -/
abbrev Byte := BitVec 8

/-- A 32-bit register value or instruction word (R119). -/
abbrev Word := BitVec 32

/-- A 64-bit value: a uniform pair, a control register, a virtual address before it is checked (R75). -/
abbrev DWord := BitVec 64

/-- A 48-bit clause address as PC tables hold it (R235). -/
abbrev Pc := BitVec 48

/-- A mask over the 32 lanes of a warp: bit l stands for lane l (R12). -/
abbrev Lanes := BitVec 32

/-- A table of values by number. Its canonical form (`Sparse.wf` in Sys2Proof/Machine/Sparse.lean): keys
strictly rising, and no entry equal to what an unlisted key reads as, so that equal tables are equal data. -/
abbrev Sparse (α : Type) := List (Nat × α)

end Sys2Proof
end

