-- ==== Sys2Proof/Config.lean ====
section
/-! DEFINITION. What an implementation fixes and the spec leaves open. None of these constants has a body: no proof can
see a value of one, so a claim holds whatever the value is. -/

namespace Sys2Proof

/-- The free values: what an unspecified value (R1, R2) turns out to be. The first argument is `State.fresh`, which
every step advances, the second tells the values of one step apart (DESIGN CHOICE, log entry 2). -/
opaque Config.freeWord : Nat → Nat → BitVec 64

/-- The enabled cores of each die as the part was made (R14), before the check that at least 60 are enabled. -/
opaque Config.enabled : Nat → BitVec 64

/-- REV: the silicon revision, fixed per part (Table 15.2). -/
opaque Config.rev : BitVec 8

/-- What the special function with opcode `op` of class F makes of `x` under FSI and FSO, before it is held to its
bounds (R228, R229) (DESIGN CHOICE, log entry 10). -/
opaque Config.specialFn : (op : Nat) → (fsi fso : Bool) → (x : Word) → Word

/-- Which set of a cache level a line falls into, before it is reduced to the number of its sets (R56): the spec gives the
number of ways and the capacity of a level, and no index. -/
opaque Config.cacheSet : (level line : Nat) → Nat

/-- The namespace's logical block size is 4 KiB, not 512 bytes (R200): a property of the drive
(DEDUCED, log entry 39). -/
opaque Config.bigBlocks : (drive nsid : Nat) → Bool

/-- Bifurcation mode of the storage port in the flash configuration, reduced to the three modes of Table 15.6 (R407). -/
opaque Config.driveMode : Nat

/-- Drives of a bifurcation mode (Table 15.6). -/
def driveCount (mode : Nat) : Nat :=
  match mode % 3 with
  | 0 => 1
  | 1 => 2
  | _ => 4

/-- The drive number is present in the mode in use; drive 0 is in each of them. -/
def Config.driveThere (drive : Nat) : Bool := drive == 0 || decide (drive < driveCount Config.driveMode)

/-- How many of the bits below `n` are set. -/
def countBits {w : Nat} (b : BitVec w) : Nat → Nat
  | 0 => 0
  | n + 1 => countBits b n + (if b.getLsbD n then 1 else 0)

/-- ENMASK0 and ENMASK1 (Table 15.2): at least 60 cores of each die are enabled (R14). -/
def Config.enmask (die : Nat) : BitVec 64 :=
  if 60 ≤ countBits (Config.enabled die) 64 then Config.enabled die else BitVec.allOnes 64

end Sys2Proof
end

