-- ==== Sys2Proof/Syntax.lean ====
section
/-! DEFINITION. The syntax of the machine's steps: one constructor of `Instr` per row of spec/opcode_table.json.
The instructions carry their fields as the encoding tables name them (Tables 5.4 to 5.11, 6.1, 7.1 to 7.3, 8.2 to
8.4, 9.3, 10.5, 10.6, 11.3, 13.8, 14.5), with the prefix word and the literal word that belong to them; the events
(the table's rows without bits) carry which agent moves and what the outside world supplies. -/

namespace Sys2Proof

/-- The class a clause header names (R108, Table 5.1), in the order of its codes. -/
inductive Cls where
  | s | v | f | l | x | m | c | y
  deriving DecidableEq, Repr, Inhabited

/-- The role of a warp (R118, Table 5.3); a control core's conductor has the fourth. -/
inductive Role where
  | copy | matrix | vector | control
  deriving DecidableEq, Repr, Inhabited

/-- Number of a vector or uniform register (R134). -/
abbrev Reg := BitVec 6

/-- Lane guard (R120): E, sense S, predicate P. -/
structure LGuard where
  e : Bool
  s : Bool
  p : BitVec 4
  deriving DecidableEq, Repr, Inhabited

/-- Uniform guard (R121): E, sense S, uniform predicate k. -/
structure UGuard where
  e : Bool
  s : Bool
  k : BitVec 3
  deriving DecidableEq, Repr, Inhabited

/-- The V/F prefix word (R129, Table 5.9). -/
structure VPfx where
  c   : Reg
  rnd : BitVec 3
  zp  : Bool
  wme : Bool
  wmp : BitVec 4
  deriving DecidableEq, Repr, Inhabited

/-- The L prefix word (R132, Table 5.10). -/
structure LPfx where
  scope  : BitVec 2
  gd     : Bool
  order  : BitVec 2
  policy : BitVec 2
  disp   : BitVec 17
  deriving DecidableEq, Repr, Inhabited

/-! Operand records, one per shape of the encoding tables. Class S (Tables 5.4, 5.5): -/

structure SRR where (d a b : Reg) (g : UGuard)
  deriving DecidableEq, Repr, Inhabited
structure SR1 where (d a : Reg) (g : UGuard)
  deriving DecidableEq, Repr, Inhabited
structure SRI where (d a : Reg) (imm : BitVec 6) (g : UGuard)
  deriving DecidableEq, Repr, Inhabited
structure SRL where (d : Reg) (g : UGuard) (lit : Word)
  deriving DecidableEq, Repr, Inhabited
structure SCS where (cond t : BitVec 3) (a b : Reg) (g : UGuard)
  deriving DecidableEq, Repr, Inhabited
/-- SELW: the guard field is the selector, E = 1 (R122). -/
structure SSel where (d a b : Reg) (s : Bool) (k : BitVec 3)
  deriving DecidableEq, Repr, Inhabited
structure SCV where (d a : Reg) (code : BitVec 6) (g : UGuard)
  deriving DecidableEq, Repr, Inhabited

/-! Classes V and F (Tables 5.4, 5.5), with the prefix where there is one: -/

structure VRR where (x : Option VPfx) (d a b : Reg) (g : LGuard)
  deriving DecidableEq, Repr, Inhabited
structure VR1 where (x : Option VPfx) (d a : Reg) (g : LGuard)
  deriving DecidableEq, Repr, Inhabited
structure VRI where (x : Option VPfx) (d a : Reg) (imm : BitVec 6) (g : LGuard)
  deriving DecidableEq, Repr, Inhabited
structure VRL where (x : Option VPfx) (d : Reg) (g : LGuard) (lit : Word)
  deriving DecidableEq, Repr, Inhabited
structure VRW where (x : Option VPfx) (d w : Reg) (g : LGuard)
  deriving DecidableEq, Repr, Inhabited
structure VAW where (x : Option VPfx) (d a w : Reg) (g : LGuard)
  deriving DecidableEq, Repr, Inhabited
structure VCP where (x : Option VPfx) (t : BitVec 4) (m : BitVec 2) (a b : Reg) (g : LGuard)
  deriving DecidableEq, Repr, Inhabited
/-- SEL: the guard field is the selector, E = 1 (R122). -/
structure VSel where (x : Option VPfx) (d a b : Reg) (s : Bool) (q : BitVec 4)
  deriving DecidableEq, Repr, Inhabited
structure VD where (x : Option VPfx) (d : Reg) (g : LGuard)
  deriving DecidableEq, Repr, Inhabited
structure VA where (x : Option VPfx) (a : Reg) (g : LGuard)
  deriving DecidableEq, Repr, Inhabited
structure VSr where (x : Option VPfx) (d : Reg) (code : BitVec 6) (g : LGuard)
  deriving DecidableEq, Repr, Inhabited
structure VCV where (x : Option VPfx) (d a : Reg) (code : BitVec 6) (g : LGuard)
  deriving DecidableEq, Repr, Inhabited

/-! Class L (Tables 5.7, 6.1): -/

structure LMem where (x : Option LPfx) (d a b : Reg) (g : LGuard)
  deriving DecidableEq, Repr, Inhabited
structure LTile where (x : Option LPfx) (d a : Reg) (g : LGuard)
  deriving DecidableEq, Repr, Inhabited
structure LAcc where (x : Option LPfx) (d a : Reg) (bank : BitVec 3) (g : LGuard)
  deriving DecidableEq, Repr, Inhabited
/-- FENCE: the guard field is ignored (R169), so it is kept as it stands. -/
structure LFence where (x : Option LPfx) (g : BitVec 6)
  deriving DecidableEq, Repr, Inhabited
structure LLine where (x : Option LPfx) (a b : Reg) (g : LGuard)
  deriving DecidableEq, Repr, Inhabited

/-! Class X (Table 9.3): -/

structure XG where (g : LGuard)
  deriving DecidableEq, Repr, Inhabited
structure XRI where (d a : Reg) (imm : BitVec 6) (g : LGuard)
  deriving DecidableEq, Repr, Inhabited
structure XR1 where (d a : Reg) (g : LGuard)
  deriving DecidableEq, Repr, Inhabited
structure XTy where (d a : Reg) (ty : BitVec 2) (g : LGuard)
  deriving DecidableEq, Repr, Inhabited
structure XQd where (d a : Reg) (axis : Bool) (ty : BitVec 2) (g : LGuard)
  deriving DecidableEq, Repr, Inhabited
structure XVote where (t : BitVec 4) (m : BitVec 2) (src : BitVec 4) (g : LGuard)
  deriving DecidableEq, Repr, Inhabited
structure XBal where (d : Reg) (src : BitVec 4) (g : LGuard)
  deriving DecidableEq, Repr, Inhabited
structure XScan where (d a : Reg) (excl : Bool) (ty : BitVec 2) (g : LGuard)
  deriving DecidableEq, Repr, Inhabited
structure XPart where (size : BitVec 6)
  deriving DecidableEq, Repr, Inhabited
structure XPlop where (op : BitVec 2) (t : BitVec 4) (ia : Bool) (pa : BitVec 4) (ib : Bool) (pb : BitVec 4) (g : LGuard)
  deriving DecidableEq, Repr, Inhabited
structure XBr where (off : BitVec 18) (g : LGuard)
  deriving DecidableEq, Repr, Inhabited
structure XA where (a : Reg) (g : LGuard)
  deriving DecidableEq, Repr, Inhabited
structure XD where (d : Reg) (g : LGuard)
  deriving DecidableEq, Repr, Inhabited

/-! Class M (Tables 10.5, 10.6): -/

/-- MMA: Ta, Tb, the shape, and the literal's fields (bits [10:0] of the literal are zero). -/
structure MMma where
  (ta tb : BitVec 8) (shape : BitVec 2) (g : UGuard)
  (ab : BitVec 3) (z : Bool) (grp : BitVec 2) (dc : BitVec 3) (lat : BitVec 2) (re : Bool) (rg : BitVec 3) (wo : BitVec 6)
  deriving DecidableEq, Repr, Inhabited
/-- MBOUND: as MMA, with wd in literal bits [10:5]. -/
structure MBnd where
  (ta tb : BitVec 8) (shape : BitVec 2) (g : UGuard)
  (ab : BitVec 3) (z : Bool) (grp : BitVec 2) (dc : BitVec 3) (lat : BitVec 2) (re : Bool) (rg : BitVec 3) (wo : BitVec 6)
  (wd : Reg)
  deriving DecidableEq, Repr, Inhabited
structure MZ where (bank : BitVec 3) (g : UGuard)
  deriving DecidableEq, Repr, Inhabited
structure MLat where (tp tl : BitVec 8) (g : UGuard)
  deriving DecidableEq, Repr, Inhabited
structure MStat where (bank : BitVec 3) (d : Reg) (g : UGuard)
  deriving DecidableEq, Repr, Inhabited

/-! Class C (Tables 7.1 to 7.3): -/

structure CCpy where (tag : BitVec 8) (g : UGuard) (wp : Reg) (eq re : Bool) (rg : BitVec 3)
  deriving DecidableEq, Repr, Inhabited
structure CCpym where (tag gp : BitVec 8) (g : UGuard) (wp : Reg) (eq re : Bool) (rg : BitVec 3)
  deriving DecidableEq, Repr, Inhabited
structure CTile where
  (src dst : BitVec 8) (g : UGuard) (wo : Reg) (eq re : Bool) (rg : BitVec 3) (rowsm1 : BitVec 6) (chm1 : BitVec 5)
  deriving DecidableEq, Repr, Inhabited
structure CP where (p : Reg) (g : UGuard)
  deriving DecidableEq, Repr, Inhabited
structure CApp where (l i : Reg) (g : UGuard)
  deriving DecidableEq, Repr, Inhabited
structure CDrn where (d n : Reg) (g : UGuard)
  deriving DecidableEq, Repr, Inhabited
structure CTf where (t : BitVec 8) (p : Reg) (g : UGuard)
  deriving DecidableEq, Repr, Inhabited

/-! Class Y (Tables 13.8, 14.5): -/

/-- One 8-bit operand: a phaser number (and QUIESCE's, Table 7.1). -/
structure YX where (x : BitVec 8) (g : UGuard)
  deriving DecidableEq, Repr, Inhabited
structure YPg where (x : BitVec 8) (d : Reg) (g : UGuard)
  deriving DecidableEq, Repr, Inhabited
structure YRg where (r : BitVec 3) (g : UGuard)
  deriving DecidableEq, Repr, Inhabited
structure YLn where (a d : Reg) (g : UGuard)
  deriving DecidableEq, Repr, Inhabited
structure YG where (g : UGuard)
  deriving DecidableEq, Repr, Inhabited
structure YD where (d : Reg) (g : UGuard)
  deriving DecidableEq, Repr, Inhabited
structure YA where (a : Reg) (g : UGuard)
  deriving DecidableEq, Repr, Inhabited
structure YCr where (d : Reg) (csr : BitVec 6) (g : UGuard)
  deriving DecidableEq, Repr, Inhabited
structure YCw where (a : Reg) (csr : BitVec 6) (g : UGuard)
  deriving DecidableEq, Repr, Inhabited
structure YN where (n : BitVec 6) (g : UGuard)
  deriving DecidableEq, Repr, Inhabited

/-! What the outside world supplies to an event: -/

/-- Where an uncorrectable error was found (R389): a read of a context's master, a read of the host, a drive or a
peer, or state of no single context. -/
inductive ErrorSource where
  | context (cid : Nat)
  | hostRead
  | driveRead (drive : Nat)
  | peerRead (port : Nat)
  | shared
  deriving DecidableEq, Repr, Inhabited

/-- An access from outside the cores (R331, R400, R410): a read of `n` bytes, a write, or an atomic of Table 15.8a
named by its class L opcode (0x16 to 0x22). -/
inductive HostAccess where
  | read (n : Nat)
  | write (data : List Byte)
  | atomic (op : BitVec 8) (x y : DWord)
  deriving DecidableEq, Repr, Inhabited

/-- Which register space a REGISTER_WRITE addresses (R4): BAR0 (Table 15.1, written by the host), a die's control
space (written by firmware), the management registers (Table 15.10), or a BAR0 register that firmware sets (RBEN, Table
15.2). -/
inductive RegTarget where
  | bar0
  | firmware
  | control (die : Nat)
  | management
  deriving DecidableEq, Repr, Inhabited

/-- One step of the machine's table: the instructions of classes S, V, F, L, X, M, C and Y, then the events. -/
inductive Instr where
  -- class S (Table 5.14)
  | movw (o : SR1)
  | liw (o : SRL)
  | addw (o : SRR)
  | addwi (o : SRI)
  | subw (o : SRR)
  | mulw (o : SRR)
  | mulhwI (o : SRR)
  | mulhwN (o : SRR)
  | shlw (o : SRR)
  | shrw (o : SRR)
  | sarw (o : SRR)
  | shlwi (o : SRI)
  | shrwi (o : SRI)
  | sarwi (o : SRI)
  | andw (o : SRR)
  | orw (o : SRR)
  | xorw (o : SRR)
  | notw (o : SR1)
  | minwI (o : SRR)
  | maxwI (o : SRR)
  | minwN (o : SRR)
  | maxwN (o : SRR)
  | cmpwI (o : SCS)
  | cmpwN (o : SCS)
  | selw (o : SSel)
  | add64w (o : SRR)
  | sub64w (o : SRR)
  | faddw (o : SRR)
  | fsubw (o : SRR)
  | fmulw (o : SRR)
  | ffmaw (o : SRR)
  | fdivw (o : SRR)
  | fcmpw (o : SCS)
  | cvtw (o : SCV)
  | v2w (o : SRR)
  | bcntw (o : SR1)
  | clzw (o : SR1)
  -- class V (Table 5.15)
  | mov (o : VR1)
  | li (o : VRL)
  | w2v (o : VRW)
  | iadd (o : VRR)
  | iaddi (o : VRI)
  | isub (o : VRR)
  | imul (o : VRR)
  | imulhI (o : VRR)
  | imulhN (o : VRR)
  | imad (o : VRR)
  | iabs (o : VR1)
  | ineg (o : VR1)
  | iminI (o : VRR)
  | imaxI (o : VRR)
  | iminN (o : VRR)
  | imaxN (o : VRR)
  | shl (o : VRR)
  | shr (o : VRR)
  | sar (o : VRR)
  | shli (o : VRI)
  | shri (o : VRI)
  | sari (o : VRI)
  | vand (o : VRR)
  | vor (o : VRR)
  | vxor (o : VRR)
  | vnot (o : VR1)
  | popc (o : VR1)
  | clz (o : VR1)
  | brev (o : VR1)
  | bfe (o : VRR)
  | bfi (o : VRR)
  | isetpEq (o : VCP)
  | isetpNe (o : VCP)
  | isetpLt (o : VCP)
  | isetpLe (o : VCP)
  | isetpGt (o : VCP)
  | isetpGe (o : VCP)
  | isetpLtN (o : VCP)
  | isetpLeN (o : VCP)
  | isetpGtN (o : VCP)
  | isetpGeN (o : VCP)
  | sel (o : VSel)
  | iadd64 (o : VRR)
  | isub64 (o : VRR)
  | imulwI (o : VRR)
  | imulwN (o : VRR)
  | pmov (o : VD)
  | vmovp (o : VA)
  | sreg (o : VSr)
  -- class F (Table 5.16)
  | fadd (o : VRR)
  | fsub (o : VRR)
  | fmul (o : VRR)
  | ffma (o : VRR)
  | fmin (o : VRR)
  | fmax (o : VRR)
  | fabs (o : VR1)
  | fneg (o : VR1)
  | fsetpEq (o : VCP)
  | fsetpNe (o : VCP)
  | fsetpLt (o : VCP)
  | fsetpLe (o : VCP)
  | fsetpGt (o : VCP)
  | fsetpGe (o : VCP)
  | fsetpNan (o : VCP)
  | fclass (o : VR1)
  | hadd2 (o : VRR)
  | hmul2 (o : VRR)
  | hfma2 (o : VRR)
  | badd2 (o : VRR)
  | bmul2 (o : VRR)
  | bfma2 (o : VRR)
  | rcp (o : VR1)
  | rsq (o : VR1)
  | sqrt (o : VR1)
  | ex2 (o : VR1)
  | lg2 (o : VR1)
  | sin (o : VR1)
  | cos (o : VR1)
  | tanh (o : VR1)
  | fdiv (o : VRR)
  | cvt (o : VCV)
  | cvts (o : VAW)
  | cvtxB0 (o : VAW)
  | cvtxB1 (o : VAW)
  | cvtxB2 (o : VAW)
  | cvtxB3 (o : VAW)
  | qadd (o : VRR)
  | qsub (o : VRR)
  | qmul (o : VRR)
  | qdiv (o : VRR)
  | qcvt (o : VR1)
  | qfrom (o : VRR)
  | qnum (o : VR1)
  | qden (o : VR1)
  | qmed (o : VRR)
  | qrnd (o : VRR)
  | qsetpEq (o : VCP)
  | qsetpNe (o : VCP)
  | qsetpLt (o : VCP)
  | qsetpLe (o : VCP)
  | qsetpGt (o : VCP)
  | qsetpGe (o : VCP)
  | qrec (o : VR1)
  | qclass (o : VR1)
  -- class L (Table 5.17)
  | ldN8 (o : LMem)
  | ldI8 (o : LMem)
  | ldN16 (o : LMem)
  | ldI16 (o : LMem)
  | ld32 (o : LMem)
  | ld64 (o : LMem)
  | ld128 (o : LMem)
  | st8 (o : LMem)
  | st16 (o : LMem)
  | st32 (o : LMem)
  | st64 (o : LMem)
  | st128 (o : LMem)
  | ldt32 (o : LTile)
  | ldt64 (o : LTile)
  | ldt128 (o : LTile)
  | stt32 (o : LTile)
  | stt64 (o : LTile)
  | stt128 (o : LTile)
  | lda (o : LAcc)
  | sta (o : LAcc)
  | ldc (o : LTile)
  | atomAddN32 (o : LMem)
  | atomAddN64 (o : LMem)
  | atomMinI32 (o : LMem)
  | atomMaxI32 (o : LMem)
  | atomMinN32 (o : LMem)
  | atomMaxN32 (o : LMem)
  | atomAnd (o : LMem)
  | atomOr (o : LMem)
  | atomXor (o : LMem)
  | atomExch (o : LMem)
  | atomCas (o : LMem)
  | atomFaddF32 (o : LMem)
  | atomExch64 (o : LMem)
  | redAddN32 (o : LMem)
  | redAddN64 (o : LMem)
  | redMinI32 (o : LMem)
  | redMaxI32 (o : LMem)
  | redMinN32 (o : LMem)
  | redMaxN32 (o : LMem)
  | redAnd (o : LMem)
  | redOr (o : LMem)
  | redXor (o : LMem)
  | redFaddF32 (o : LMem)
  | atomtAddN32 (o : LTile)
  | atomtMinI32 (o : LTile)
  | atomtMaxI32 (o : LTile)
  | atomtExch (o : LTile)
  | atomtCas (o : LTile)
  | fence (o : LFence)
  | cinv (o : LLine)
  | pref (o : LLine)
  -- class X (Table 5.18)
  | nop (o : XG)
  | xch (o : XRI)
  | qbc (o : XRI)
  | qsum (o : XTy)
  | qmin (o : XTy)
  | qmax (o : XTy)
  | qdiff (o : XQd)
  | voteAny (o : XVote)
  | voteAll (o : XVote)
  | ballot (o : XBal)
  | matchLanes (o : XR1)
  | redtAdd (o : XTy)
  | redtMin (o : XTy)
  | redtMax (o : XTy)
  | scantAdd (o : XScan)
  | part (o : XPart)
  | plop (o : XPlop)
  | bra (o : XBr)
  | brx (o : XA)
  | call (o : XBr)
  | ret (o : XA)
  | exit (o : XG)
  | yield (o : XG)
  | active (o : XD)
  -- class M (Table 5.19)
  | mma (o : MMma)
  | mbound (o : MBnd)
  | mzero (o : MZ)
  | mzeroX4 (o : MZ)
  | mlatK (o : MLat)
  | mlatV (o : MLat)
  | mstat (o : MStat)
  -- class C (Table 5.20)
  | cpy (o : CCpy)
  | cpym (o : CCpym)
  | enc (o : CTile)
  | dect (o : CTile)
  | sread (o : CP)
  | swrite (o : CP)
  | swriteFua (o : CP)
  | append (o : CApp)
  | drain (o : CDrn)
  | quiesce (o : YX)
  | tfset (o : CTf)
  | tfsetOvcur (o : CTf)
  | tfget (o : CTf)
  -- class Y (Table 5.21)
  | phregSo (o : YX)
  | phregWo (o : YX)
  | phregSw (o : YX)
  | phdrop (o : YX)
  | phsig (o : YX)
  | phwait (o : YX)
  | phsw (o : YX)
  | phget (o : YPg)
  | racqP (o : YRg)
  | racqC (o : YRg)
  | rrelP (o : YRg)
  | rrelC (o : YRg)
  | launch (o : YLn)
  | succhint (o : YG)
  | predwait (o : YG)
  | time (o : YD)
  | twait (o : YA)
  | csrr (o : YCr)
  | csrw (o : YCw)
  | plvl (o : YA)
  | trap (o : YN)
  | rte (o : YG)
  | bkpt (o : YN)
  | evwait (o : YD)
  | evpop (o : YD)
  -- events
  /-- SELECT_RUN: issue slot `slot` of core `core` picks its oldest Ready warp (R343). -/
  | selectRun (core slot : Nat)
  /-- CLAUSE_FETCH: the first clause of warp `wid`'s head run is fetched (R107). -/
  | clauseFetch (wid : Nat)
  /-- REGISTER_CACHE_FILL: a register line missing on `core` is filled from its image (R73). -/
  | registerCacheFill (core wid reg : Nat)
  /-- BBC_PARK: the backward-branch counter of the run on that slot has reached 256 (R239). -/
  | bbcPark (core slot : Nat)
  /-- SETA_FLAG_CLEAR: every operation of the clause that set `flag` as SETA has read its sources (R111). -/
  | setaFlagClear (wid flag : Nat)
  /-- LONG_LATENCY_RESULT: a long-latency S or F operation writes its destination (R113). -/
  | longLatencyResult (wid op : Nat)
  /-- LOAD_RESPONSE: the responses of a load's lanes arrive (R152). -/
  | loadResponse (wid op : Nat)
  /-- STORE_PERFORMED: a store or RED has been performed for every lane (R316). -/
  | storePerformed (wid op : Nat)
  /-- ATOMIC_PERFORMED: the combined request of the location that `lane` addresses is performed (R164). -/
  | atomicPerformed (wid op lane : Nat)
  /-- DEFERRED_DENIAL: a denial response for an ST or RED arrives (R149). -/
  | deferredDenial (wid op : Nat)
  /-- FENCE_COMPLETE: the older accesses of a release FENCE have completed at its scope (R169). -/
  | fenceComplete (wid op : Nat)
  /-- PAGE_WALK: a translation miss of `core` walks the page tables of context `cid` (R76). -/
  | pageWalk (core cid : Nat) (va : DWord)
  /-- L1_FILL: the fill of a line arrives at `core`'s L1 (R57). -/
  | l1Fill (core line : Nat)
  /-- HOME_L2_WRITE: an outbound write of `core` reaches its home L2 (R62). -/
  | homeL2Write (core write : Nat)
  /-- REMOTE_READ: a read of `die` that missed the RDC reaches the other die's home L2 (R61). -/
  | remoteRead (die line : Nat)
  /-- RDC_FILL: the home L2's data response arrives at the RDC of `die` (R61). -/
  | rdcFill (die line : Nat)
  /-- RDC_INVALIDATION: the home L2's invalidation reaches the RDC of `die` (R62). -/
  | rdcInvalidation (die line : Nat)
  /-- L2_EVICTION: the L2 of `die` evicts a line (R62). -/
  | l2Eviction (die line : Nat)
  /-- GRAFT_FENCE: the fence of a .dev release completes at the Graft switch (R314). -/
  | graftFence (wid op : Nat)
  /-- ENGINE_COMMAND_START: an engine command begins its accesses (R177). -/
  | engineCommandStart (cmd : Nat)
  /-- ENGINE_COMMAND_COMPLETE: an engine command completes (R179). -/
  | engineCommandComplete (cmd : Nat)
  /-- CONVERSION_LIMIT_CROSSING: a counting addition of `wid` has crossed a limit (R42). -/
  | conversionLimitCrossing (wid : Nat)
  /-- ENGINE_FAULT: a faulting engine command stops (R180). -/
  | engineFault (cmd : Nat)
  /-- EVENT_APPEND: the oldest waiting event record of the context is written (R355). -/
  | eventAppend (cid : Nat)
  /-- MULTICAST_DELIVERY: a CPYM delivers to the gang block of rank `rank` (R191). -/
  | multicastDelivery (cmd rank : Nat)
  /-- CPYM_GANG_SIGNAL: a completing CPYM signals its gang phaser (R192). -/
  | cpymGangSignal (cmd : Nat)
  /-- MMA_START: a queued matrix command starts (R279). -/
  | mmaStart (cmd : Nat)
  /-- PROJECTION_RELOAD: a displaced projection is reloaded before a latent MMA (R274). -/
  | projectionReload (cmd : Nat)
  /-- MMA_COMPLETE: an MMA completes (R281). -/
  | mmaComplete (cmd : Nat)
  /-- MATRIX_FAULT: a class M command faults (R282). -/
  | matrixFault (cmd : Nat)
  /-- MLAT_LOAD_COMPLETE: an MLAT's projection is in the stage (R287). -/
  | mlatLoadComplete (cmd : Nat)
  /-- STORAGE_COMPLETION: the drive posts status `sf`, having read `data` (R201). -/
  | storageCompletion (cmd : Nat) (sf : BitVec 15) (data : List Byte)
  /-- APPEND_GROUP: the next lane group of a waiting APPEND fits its list (R203). -/
  | appendGroup (cmd : Nat)
  /-- TERMINATION_DETECTOR_SIGNAL: the armed detector finds the context quiescent (R206). -/
  | terminationDetectorSignal (cid : Nat)
  /-- SLEW_ADMISSION: the next 100 ns window admits clusters of warps a grid barrier released (R369). -/
  | slewAdmission (cid grid : Nat)
  /-- TWAIT_DEADLINE: global time reaches a TWAIT's deadline (R372). -/
  | twaitDeadline (wid : Nat)
  /-- GRID_START_TIME: global time reaches a held grid's START (R373). -/
  | gridStartTime (cid grid : Nat)
  /-- BLOCK_PLACEMENT: the distributor places a gang on the span that starts at `core` (R362). -/
  | blockPlacement (cid grid gang core : Nat)
  /-- BLOCK_MIGRATION: the distributor moves a migratable block to `core` (R363). -/
  | blockMigration (blk core : Nat)
  /-- QUANTUM_SLICE_END: a context's slice ends while another has grids waiting (R364). -/
  | quantumSliceEnd (cid : Nat)
  /-- QUANTUM_ROTATION: a grid's spinning block is rotated out (R364). -/
  | quantumRotation (cid grid : Nat)
  /-- WARP_END: a warp with no live lane ends (R340). -/
  | warpEnd (wid : Nat)
  /-- BLOCK_END: a block whose warps have ended ends (R340). -/
  | blockEnd (blk : Nat)
  /-- GRID_COMPLETION: a grid whose blocks have ended completes (R340). -/
  | gridCompletion (cid grid : Nat)
  /-- JOB_END: a job whose conductor and grids are done ends (R337). -/
  | jobEnd (cid : Nat)
  /-- HANG_WATCHDOG_EXPIRY: a grid's hang timer reaches HANGLIM (R390). -/
  | hangWatchdogExpiry (cid grid : Nat)
  /-- SAVE_LIMIT_EXPIRY: a stop walk and save exceed SAVELIM (R391). -/
  | saveLimitExpiry (cid : Nat)
  /-- STOP_WALK: the stop walk of a context takes its next step (R392). -/
  | stopWalk (cid : Nat)
  /-- SAVE: a stopped block is saved (R394). -/
  | save (blk : Nat)
  /-- RESTORE: a saved block is restored on `core` (R396). -/
  | restore (blk core : Nat)
  /-- UNCORRECTABLE_ERROR: an uncorrectable error is found on a read (R389). -/
  | uncorrectableError (source : ErrorSource)
  /-- CORRECTABLE_ERROR: a soft error on `die` is corrected and counted (R406). -/
  | correctableError (die : Nat)
  /-- JOBENT: the host writes `value`, `bytes` wide, to JOBENT of a context (R401). -/
  | jobent (cid bytes : Nat) (value : DWord)
  /-- STOPCTL_STOP: the host writes a STOPCTL value with STOP set (R402). -/
  | stopctlStop (cid : Nat) (value : DWord)
  /-- STOPCTL_RESUME: the host writes a STOPCTL value with STOP clear (R402). -/
  | stopctlResume (cid : Nat) (value : DWord)
  /-- CAPTURE_CLEAR: a write to word 0 of a denial-capture entry (R405). -/
  | captureClear (die target : Nat) (value : DWord)
  /-- XINVCTL_GO: a write to XINVCTL (R81). -/
  | xinvctlGo (die : Nat) (value : DWord)
  /-- INVALIDATION_COMPLETE: the invalidation in progress on `die` finishes (R82). -/
  | invalidationComplete (die : Nat)
  /-- REGISTER_WRITE: an 8-byte write to a register with no row of its own (R4). -/
  | registerWrite (target : RegTarget) (off : Nat) (value : DWord)
  /-- BAR2_ACCESS: a host access at offset `off` of BAR2 (R400). -/
  | bar2Access (off : Nat) (acc : HostAccess)
  /-- DRIVE_DMA: a drive's DMA outside the port's transfer buffers (R408). -/
  | driveDma (drive pa : Nat) (write : Bool)
  /-- SCALE_UP_REQUEST: a UALink request arrives from a peer (R412). -/
  | scaleUpRequest (port pa : Nat) (acc : HostAccess)
  /-- LINK_DOWN: a scale-up link goes down; the writes of `performed` had been performed (R412). -/
  | linkDown (port : Nat) (performed : List Nat)
  /-- DRIVE_REMOVAL: a drive is removed or its link fails (R408). -/
  | driveRemoval (drive : Nat)
  /-- FLIT_REPLAY: a Graft flit sent by `die` is replayed (R409). -/
  | flitReplay (die : Nat)
  /-- GRAFT_LOSS: Graft is lost and cannot retrain (R409). -/
  | graftLoss
  /-- UEVT_CLEAR: a management write to UEVT (R419). -/
  | uevtClear (value : DWord)
  /-- MODULE_RESET: a management write to register 0x48 (R419). -/
  | moduleReset (value : DWord)
  /-- PC_SAMPLE_TICK: the sample tick counter of `core` expires (R417). -/
  | pcSampleTick (core : Nat) (power : BitVec 16)
  /-- PERF_LEVEL_CHANGE: the resolved level of a cluster takes effect (R370). -/
  | perfLevelChange (cluster : Nat)
  /-- POWER_LIMIT_EXCEEDED: the power estimate exceeds the limit (R415). -/
  | powerLimitExceeded (milliwatts : Nat)
  /-- THERMAL_LEVEL_FORCE: a die reaches 105 degrees (R415). -/
  | thermalLevelForce (die : Nat)
  /-- THERMAL_SHUTDOWN: a die reaches 110 degrees (R415). -/
  | thermalShutdown (die : Nat)
  /-- TIMEBASE_CORRECTION: the timebase is corrected by `delta` ns (R413). -/
  | timebaseCorrection (delta : Int)
  /-- BRING_UP: the next bring-up step ends (R420). -/
  | bringUp (hbmOk graftOk : Bool) (links : BitVec 36) (drives : BitVec 4)
  /-- CONDUCTOR_RUN: the control core of `die` takes a run of context `cid`'s conductor (R354). -/
  | conductorRun (die cid : Nat)
  /-- RESIZABLE_BAR_WRITE: the host sets the size of BAR2 (R399). -/
  | resizableBarWrite (log2GiB : Nat)
  /-- EFFECTIVE_LEVEL_RESTORE: firmware restores lowered levels (R415). -/
  | effectiveLevelRestore (milliwatts : Nat)
  /-- I3C_DYNAMIC_ADDRESS: the management port takes a dynamic address (R419). -/
  | i3cDynamicAddress (addr : BitVec 7)
  /-- MBOUND_RESULT: MBOUND's bound is written (R285). -/
  | mboundResult (wid op : Nat)
  deriving DecidableEq, Repr, Inhabited

end Sys2Proof
end

