-- ==== Sys2Proof/WellFormed.lean ====
section
/-! DEFINITION. Which instructions are legal as words (the part of check 6 of Table 5.22 that a word decides by
itself): reserved values, register pairs and groups, immediate ranges, prefix fields. What depends on the warp that
issues the word (its REGS count, its block's rings, a control core's subset) is in Machine/Clause.lean. -/

namespace Sys2Proof

/-- An even register, the name of a pair (R134). -/
def Reg.even (r : Reg) : Bool := r.toNat % 2 == 0
/-- A multiple of four, the name of a 128-bit group (R134). -/
def Reg.quad (r : Reg) : Bool := r.toNat % 4 == 0

/-- With E = 0 the guard's other bits are zero (R120). -/
def LGuard.ok (g : LGuard) : Bool := g.e || (!g.s && g.p == 0)

/-- RND 101 to 111 is illegal (R30); ZP needs WME (R129). -/
def VPfx.ok (p : VPfx) : Bool := p.rnd.toNat ≤ 4 && (p.wme || !p.zp)

def vpfxOk : Option VPfx → Bool
  | none => true
  | some p => p.ok

/-- GD must be zero unless SCOPE = 01 (R132). -/
def LPfx.gdOk (p : LPfx) : Bool := p.scope == 1 || !p.gd

/-- What the L prefix fields are when there is no prefix (R132): scope .dev, order .rlx, policy normal. -/
def LPfx.default : LPfx := ⟨2, false, 0, 0, 0⟩
/-- For LDT, STT, ATOMT, LDA, STA and LDC a missing prefix means all fields zero (R133). -/
def LPfx.zero : LPfx := ⟨0, false, 0, 0, 0⟩

def LMem.px (o : LMem) : LPfx := o.x.getD LPfx.default
def LTile.px (o : LTile) : LPfx := o.x.getD LPfx.zero
def LAcc.px (o : LAcc) : LPfx := o.x.getD LPfx.zero
def LFence.px (o : LFence) : LPfx := o.x.getD LPfx.default
def LLine.px (o : LLine) : LPfx := o.x.getD LPfx.default

/-! Table 5.11, one line per group of instructions: -/

def LPfx.loadOk (p : LPfx) : Bool := p.gdOk && (p.order == 0 || p.order == 1)
def LPfx.storeOk (p : LPfx) : Bool := p.gdOk && (p.order == 0 || p.order == 2)
def LPfx.atomOk (p : LPfx) : Bool := p.gdOk && (p.policy == 0 || p.policy == 3)
def LPfx.ownOk (p : LPfx) : Bool := p.scope == 0 && !p.gd && p.order == 0 && p.policy == 0
def LPfx.fenceOk (p : LPfx) : Bool := p.gdOk && p.order != 0 && p.policy == 0 && p.disp == 0
def LPfx.cinvOk (p : LPfx) : Bool := p.gdOk && p.order == 0 && p.policy == 0 && p.disp == 0
def LPfx.prefOk (p : LPfx) : Bool := p.gdOk && p.order == 0

/-- A global form: the base pair is even (R125); `n` is the number of data registers. -/
def LMem.ok (o : LMem) (n : Nat) (px : LPfx → Bool) : Bool :=
  o.g.ok && o.b.even && o.d.toNat % n == 0 && px o.px

def LTile.ok (o : LTile) (n : Nat) : Bool := o.g.ok && o.d.toNat % n == 0 && o.px.ownOk

/-- Banks 6 and 7 are illegal (R145). -/
def LAcc.ok (o : LAcc) : Bool := o.g.ok && o.bank.toNat ≤ 5 && o.px.ownOk

def SCS.ok (o : SCS) : Bool := o.cond.toNat ≤ 5

def VRR.ok (o : VRR) : Bool := vpfxOk o.x && o.g.ok
def VRR.okPairs (o : VRR) : Bool := o.ok && o.d.even && o.a.even && o.b.even
def VRR.okPairD (o : VRR) : Bool := o.ok && o.d.even
def VR1.ok (o : VR1) : Bool := vpfxOk o.x && o.g.ok
def VRI.ok (o : VRI) : Bool := vpfxOk o.x && o.g.ok
/-- Immediate shift counts from 32 to 63 are illegal (R212). -/
def VRI.okShift (o : VRI) : Bool := o.ok && o.imm.toNat < 32
def SRI.okShift (o : SRI) : Bool := o.imm.toNat < 32
/-- CP combine code 11 is illegal (Table 5.5). -/
def VCP.ok (o : VCP) : Bool := vpfxOk o.x && o.g.ok && o.m.toNat ≤ 2
def SRR.okPairs (o : SRR) : Bool := o.d.even && o.a.even && o.b.even
def XTy.ok (o : XTy) : Bool := o.g.ok && o.ty.toNat ≤ 2
def XVote.ok (o : XVote) : Bool := o.g.ok && o.m.toNat ≤ 2

/-- Legal sizes of a partition tile (R244). -/
def partSizeOk (n : Nat) : Bool := n == 2 || n == 4 || n == 8 || n == 16 || n == 32

/-- The MMA literal (R283): AB, the fused shapes, DC, LAT, WO. -/
def MMma.ok (o : MMma) : Bool :=
  o.ab.toNat ≤ 5 && (o.shape == 0 || o.ab.toNat ≤ 2) && o.dc.toNat ≤ 4 && o.lat.toNat ≤ 2 && o.wo.toNat ≤ 61
/-- MBOUND uses neither AB nor RE nor RG (R283). -/
def MBnd.ok (o : MBnd) : Bool := o.dc.toNat ≤ 4 && o.lat.toNat ≤ 2 && o.wo.toNat ≤ 61

/-- CSRW to a CSR marked RO is illegal (R135, Table 5.12). -/
def csrWritable (n : Nat) : Bool := n == 0 || n == 1 || n == 2 || n == 8 || n == 10

/-- The instruction is legal as a word (check 6 of Table 5.22); events are no words. -/
def WellFormed : Instr → Bool
  | .movw _ | .liw _ | .addw _ | .addwi _ | .subw _ | .mulw _ | .mulhwI _ | .mulhwN _ | .shlw _ | .shrw _ | .sarw _ => true
  | .shlwi o | .shrwi o | .sarwi o => o.okShift
  | .andw _ | .orw _ | .xorw _ | .notw _ | .minwI _ | .maxwI _ | .minwN _ | .maxwN _ => true
  | .cmpwI o | .cmpwN o | .fcmpw o => o.ok
  | .selw _ => true
  | .add64w o | .sub64w o => o.okPairs
  | .faddw _ | .fsubw _ | .fmulw _ | .ffmaw _ | .fdivw _ => true
  | .cvtw o => o.code.toNat ≤ 0x13
  | .v2w _ | .bcntw _ | .clzw _ => true
  | .mov o | .iabs o | .ineg o | .vnot o | .popc o | .clz o | .brev o => o.ok
  | .li o => vpfxOk o.x && o.g.ok
  | .w2v o => vpfxOk o.x && o.g.ok
  | .iadd o | .isub o | .imul o | .imulhI o | .imulhN o | .imad o | .iminI o | .imaxI o | .iminN o | .imaxN o
  | .shl o | .shr o | .sar o | .vand o | .vor o | .vxor o | .bfe o | .bfi o => o.ok
  | .iaddi o => o.ok
  | .shli o | .shri o | .sari o => o.okShift
  | .isetpEq o | .isetpNe o | .isetpLt o | .isetpLe o | .isetpGt o | .isetpGe o
  | .isetpLtN o | .isetpLeN o | .isetpGtN o | .isetpGeN o => o.ok
  | .sel o => vpfxOk o.x
  | .iadd64 o | .isub64 o => o.okPairs
  | .imulwI o | .imulwN o => o.okPairD
  | .pmov o => vpfxOk o.x && o.g.ok
  | .vmovp o => vpfxOk o.x && o.g.ok
  | .sreg o => vpfxOk o.x && o.g.ok && o.code.toNat ≤ 0x12
  | .fadd o | .fsub o | .fmul o | .ffma o | .fmin o | .fmax o | .hadd2 o | .hmul2 o | .hfma2 o | .badd2 o | .bmul2 o
  | .bfma2 o | .fdiv o | .qadd o | .qsub o | .qmul o | .qdiv o | .qfrom o | .qmed o | .qrnd o => o.ok
  | .fabs o | .fneg o | .fclass o | .rcp o | .rsq o | .sqrt o | .ex2 o | .lg2 o | .sin o | .cos o | .tanh o
  | .qcvt o | .qnum o | .qden o | .qrec o | .qclass o => o.ok
  | .fsetpEq o | .fsetpNe o | .fsetpLt o | .fsetpLe o | .fsetpGt o | .fsetpGe o | .fsetpNan o
  | .qsetpEq o | .qsetpNe o | .qsetpLt o | .qsetpLe o | .qsetpGt o | .qsetpGe o => o.ok
  | .cvt o => vpfxOk o.x && o.g.ok && o.code.toNat ≤ 0x13
  | .cvts o | .cvtxB0 o | .cvtxB1 o | .cvtxB2 o | .cvtxB3 o => vpfxOk o.x && o.g.ok
  | .ldN8 o | .ldI8 o | .ldN16 o | .ldI16 o | .ld32 o => o.ok 1 LPfx.loadOk
  | .ld64 o => o.ok 2 LPfx.loadOk
  | .ld128 o => o.ok 4 LPfx.loadOk
  | .st8 o | .st16 o | .st32 o => o.ok 1 LPfx.storeOk
  | .st64 o => o.ok 2 LPfx.storeOk
  | .st128 o => o.ok 4 LPfx.storeOk
  | .ldt32 o | .stt32 o | .ldc o => o.ok 1
  | .ldt64 o | .stt64 o => o.ok 2
  | .ldt128 o | .stt128 o => o.ok 4
  | .lda o | .sta o => o.ok
  | .atomAddN32 o | .atomMinI32 o | .atomMaxI32 o | .atomMinN32 o | .atomMaxN32 o | .atomAnd o | .atomOr o | .atomXor o
  | .atomExch o | .atomFaddF32 o => o.ok 1 LPfx.atomOk
  | .atomAddN64 o | .atomCas o | .atomExch64 o => o.ok 2 LPfx.atomOk
  | .redAddN32 o | .redMinI32 o | .redMaxI32 o | .redMinN32 o | .redMaxN32 o | .redAnd o | .redOr o | .redXor o
  | .redFaddF32 o => o.ok 1 LPfx.atomOk
  | .redAddN64 o => o.ok 2 LPfx.atomOk
  | .atomtAddN32 o | .atomtMinI32 o | .atomtMaxI32 o | .atomtExch o => o.ok 1
  | .atomtCas o => o.ok 2
  | .fence o => o.px.fenceOk
  | .cinv o => o.g.ok && o.b.even && o.px.cinvOk
  | .pref o => o.g.ok && o.b.even && o.px.prefOk
  | .nop o | .exit o | .yield o => o.g.ok
  | .xch o => o.g.ok && o.imm.toNat < 32
  | .qbc o => o.g.ok && o.imm.toNat ≤ 3
  | .qsum o | .qmin o | .qmax o | .redtAdd o | .redtMin o | .redtMax o => o.ok
  | .qdiff o => o.g.ok && o.ty.toNat ≤ 2
  | .voteAny o | .voteAll o => o.ok
  | .ballot o => o.g.ok
  | .matchLanes o => o.g.ok
  | .scantAdd o => o.g.ok && o.ty.toNat ≤ 2
  | .part o => partSizeOk o.size.toNat
  | .plop o => o.g.ok && o.op.toNat ≤ 2
  | .bra o | .call o => o.g.ok
  | .brx o => o.g.ok && o.a.even
  | .ret o => o.g.ok
  | .active o => o.g.ok
  | .mma o => o.ok
  | .mbound o => o.ok
  | .mzeroX4 o => o.bank.toNat ≤ 2
  | .mzero _ | .mlatK _ | .mlatV _ => true
  | .mstat o => o.d.even
  | .cpy o => o.wp.even
  | .cpym o => o.wp.even && ((48 ≤ o.gp.toNat && o.gp.toNat ≤ 63) || o.gp.toNat == 255)
  | .enc o | .dect o => o.wo.quad
  | .sread o | .swrite o | .swriteFua o => o.p.even
  | .append _ | .drain _ => true
  | .quiesce o => o.x.toNat ≤ 63
  | .tfset o | .tfsetOvcur o | .tfget o => o.p.even
  | .phregSo o | .phregWo o | .phregSw o | .phdrop o => o.x.toNat ≤ 0x3F
  | .phsig o | .phwait o | .phsw o => o.x.toNat ≤ 0x43
  | .phget o => o.x.toNat ≤ 0x43
  | .racqP _ | .racqC _ | .rrelP _ | .rrelC _ => true
  | .launch o => o.a.even && o.d.even
  | .succhint _ | .predwait _ => true
  | .time o => o.d.even
  | .twait o => o.a.even
  | .csrr o => o.csr.toNat ≤ 0x0A
  | .csrw o => csrWritable o.csr.toNat
  | .plvl _ | .trap _ | .rte _ | .bkpt _ | .evwait _ => true
  | .evpop o => o.d.quad
  | .selectRun .. | .clauseFetch .. | .registerCacheFill .. | .bbcPark .. | .setaFlagClear .. | .longLatencyResult ..
  | .loadResponse .. | .storePerformed .. | .atomicPerformed .. | .deferredDenial .. | .fenceComplete .. | .pageWalk ..
  | .l1Fill .. | .homeL2Write .. | .remoteRead .. | .rdcFill .. | .rdcInvalidation .. | .l2Eviction .. | .graftFence ..
  | .engineCommandStart .. | .engineCommandComplete .. | .conversionLimitCrossing .. | .engineFault .. | .eventAppend ..
  | .multicastDelivery .. | .cpymGangSignal .. | .mmaStart .. | .projectionReload .. | .mmaComplete .. | .matrixFault ..
  | .mlatLoadComplete .. | .storageCompletion .. | .appendGroup .. | .terminationDetectorSignal .. | .slewAdmission ..
  | .twaitDeadline .. | .gridStartTime .. | .blockPlacement .. | .blockMigration .. | .quantumSliceEnd ..
  | .quantumRotation .. | .warpEnd .. | .blockEnd .. | .gridCompletion .. | .jobEnd .. | .hangWatchdogExpiry ..
  | .saveLimitExpiry .. | .stopWalk .. | .save .. | .restore .. | .uncorrectableError .. | .correctableError ..
  | .jobent .. | .stopctlStop .. | .stopctlResume .. | .captureClear .. | .xinvctlGo .. | .invalidationComplete ..
  | .registerWrite .. | .bar2Access .. | .driveDma .. | .scaleUpRequest .. | .linkDown .. | .driveRemoval ..
  | .flitReplay .. | .graftLoss | .uevtClear .. | .moduleReset .. | .pcSampleTick .. | .perfLevelChange ..
  | .powerLimitExceeded .. | .thermalLevelForce .. | .thermalShutdown .. | .timebaseCorrection .. | .bringUp ..
  | .conductorRun .. | .resizableBarWrite .. | .effectiveLevelRestore .. | .i3cDynamicAddress .. | .mboundResult .. => true

end Sys2Proof
end

