-- ==== Sys2Proof/Decode.lean ====
section
/-! DEFINITION. The words of the instructions (R119 to R137): fields, the decoder, total on any words and on any
bytes and rejecting by name, and after it the encoder. A word decodes in the opcode map of its clause's class (R108),
so every function here takes the class; what depends on the issuing warp is in Machine/Clause.lean. -/

namespace Sys2Proof

/-! ## Fields of a word -/

/-- Opcode [31:24] (R119). -/
def fOp (w : Word) : BitVec 8 := w.extractLsb' 24 8
/-- d [23:18] (Table 5.4). -/
def fD (w : Word) : BitVec 6 := w.extractLsb' 18 6
/-- a [17:12]. -/
def fA (w : Word) : BitVec 6 := w.extractLsb' 12 6
/-- b [11:6]. -/
def fB (w : Word) : BitVec 6 := w.extractLsb' 6 6
/-- Guard [5:0]. -/
def fG (w : Word) : BitVec 6 := w.extractLsb' 0 6
/-- X [23:16] (Table 5.8). -/
def fX (w : Word) : BitVec 8 := w.extractLsb' 16 8
/-- Y [15:8]. -/
def fY (w : Word) : BitVec 8 := w.extractLsb' 8 8
/-- Mode [7:6]. -/
def fM (w : Word) : BitVec 2 := w.extractLsb' 6 2
/-- OFF [23:6] (Table 5.6). -/
def fOff (w : Word) : BitVec 18 := w.extractLsb' 6 18

/-- Forms RR, RI, RW, RL, CV, CP, CS, MEM and YR. -/
def packRR (op : BitVec 8) (d a b g : BitVec 6) : Word := op ++ (d ++ (a ++ (b ++ g)))
/-- Form ENG. -/
def packENG (op x y : BitVec 8) (m : BitVec 2) (g : BitVec 6) : Word := op ++ (x ++ (y ++ (m ++ g)))
/-- Form BR. -/
def packBR (op : BitVec 8) (off : BitVec 18) (g : BitVec 6) : Word := op ++ (off ++ g)
/-- The MMA literal (Table 10.6), its last eleven bits as a register field and five zeros. -/
def packMma (ab : BitVec 3) (z : Bool) (grp : BitVec 2) (dc : BitVec 3) (lat : BitVec 2) (re : Bool) (rg : BitVec 3)
    (wo wd : BitVec 6) (r : BitVec 5) : Word :=
  ab ++ (BitVec.ofBool z ++ (grp ++ (dc ++ (lat ++ (BitVec.ofBool re ++ (rg ++ (wo ++ (wd ++ r))))))))
/-- The literals of class C (Tables 7.2, 7.3). -/
def packC (wp : BitVec 6) (eq re : Bool) (rg : BitVec 3) (rows : BitVec 6) (ch : BitVec 5) (r : BitVec 10) : Word :=
  wp ++ (BitVec.ofBool eq ++ (BitVec.ofBool re ++ (rg ++ (rows ++ (ch ++ r)))))

/-! ## Guards and prefixes -/

def LGuard.bits (g : LGuard) : BitVec 6 := BitVec.ofBool g.e ++ BitVec.ofBool g.s ++ g.p
/-- The lane guard (R120). -/
def LGuard.ofBits (b : BitVec 6) : LGuard := ⟨b.getLsbD 5, b.getLsbD 4, b.extractLsb' 0 4⟩
def UGuard.bits (g : UGuard) : BitVec 6 := BitVec.ofBool g.e ++ BitVec.ofBool g.s ++ 0#1 ++ g.k
/-- The uniform guard (R121). -/
def UGuard.ofBits (b : BitVec 6) : UGuard := ⟨b.getLsbD 5, b.getLsbD 4, b.extractLsb' 0 3⟩
/-- Bit 3 of a uniform guard is zero (R121). -/
def UGuard.clean (b : BitVec 6) : Bool := b.extractLsb' 3 1 == 0

/-- The V/F prefix word (Table 5.9). -/
def VPfx.word (p : VPfx) : Word :=
  255#8 ++ (p.c ++ (p.rnd ++ (BitVec.ofBool p.zp ++ (BitVec.ofBool p.wme ++ (p.wmp ++ 0#9)))))
def VPfx.ofWord (w : Word) : VPfx where
  c := w.extractLsb' 18 6; rnd := w.extractLsb' 15 3; zp := w.getLsbD 14; wme := w.getLsbD 13; wmp := w.extractLsb' 9 4
/-- Bits [8:0] are reserved (Table 5.9). -/
def VPfx.clean (w : Word) : Bool := w.extractLsb' 0 9 == 0
def vpfxWords : Option VPfx → List Word
  | none => []
  | some p => [p.word]

/-- The L prefix word (Table 5.10). -/
def LPfx.word (p : LPfx) : Word :=
  255#8 ++ (p.scope ++ (BitVec.ofBool p.gd ++ (p.order ++ (p.policy ++ p.disp))))
def LPfx.ofWord (w : Word) : LPfx where
  scope := w.extractLsb' 22 2; gd := w.getLsbD 21; order := w.extractLsb' 19 2; policy := w.extractLsb' 17 2
  disp := w.extractLsb' 0 17
def lpfxWords : Option LPfx → List Word
  | none => []
  | some p => [p.word]

/-! ## Records: for each operand record its word under an opcode (`word`), its fields in a word (`ofWord`), and
whether the word's reserved bits are zero (`clean`, R119, R127) -/

/-! Class S (Tables 5.4, 5.5): -/

def SRR.word (op : BitVec 8) (o : SRR) : Word := packRR op o.d o.a o.b o.g.bits
def SRR.ofWord (w : Word) : SRR where
  d := fD w; a := fA w; b := fB w; g := UGuard.ofBits (fG w)
def SRR.clean (w : Word) : Bool := UGuard.clean (fG w)

def SR1.word (op : BitVec 8) (o : SR1) : Word := packRR op o.d o.a 0#6 o.g.bits
def SR1.ofWord (w : Word) : SR1 where
  d := fD w; a := fA w; g := UGuard.ofBits (fG w)
def SR1.clean (w : Word) : Bool := fB w == 0 && UGuard.clean (fG w)

def SRI.word (op : BitVec 8) (o : SRI) : Word := packRR op o.d o.a o.imm o.g.bits
def SRI.ofWord (w : Word) : SRI where
  d := fD w; a := fA w; imm := fB w; g := UGuard.ofBits (fG w)
def SRI.clean (w : Word) : Bool := UGuard.clean (fG w)

def SRL.word (op : BitVec 8) (o : SRL) : Word := packRR op o.d 0#6 0#6 o.g.bits
def SRL.ofWord (w : Word) (l : Word) : SRL where
  d := fD w; g := UGuard.ofBits (fG w); lit := l
def SRL.clean (w : Word) : Bool := fA w == 0 && fB w == 0 && UGuard.clean (fG w)

def SCS.word (op : BitVec 8) (o : SCS) : Word := packRR op (o.cond ++ o.t) o.a o.b o.g.bits
def SCS.ofWord (w : Word) : SCS where
  cond := (fD w).extractLsb' 3 3; t := (fD w).extractLsb' 0 3; a := fA w; b := fB w; g := UGuard.ofBits (fG w)
def SCS.clean (w : Word) : Bool := UGuard.clean (fG w)

def SSel.word (op : BitVec 8) (o : SSel) : Word := packRR op o.d o.a o.b (1#1 ++ BitVec.ofBool o.s ++ 0#1 ++ o.k)
def SSel.ofWord (w : Word) : SSel where
  d := fD w; a := fA w; b := fB w; s := (fG w).getLsbD 4; k := (fG w).extractLsb' 0 3
def SSel.clean (w : Word) : Bool := (fG w).getLsbD 5 && (fG w).extractLsb' 3 1 == 0

def SCV.word (op : BitVec 8) (o : SCV) : Word := packRR op o.d o.a o.code o.g.bits
def SCV.ofWord (w : Word) : SCV where
  d := fD w; a := fA w; code := fB w; g := UGuard.ofBits (fG w)
def SCV.clean (w : Word) : Bool := UGuard.clean (fG w)

/-! Classes V and F (Tables 5.4, 5.5): -/

def VRR.word (op : BitVec 8) (o : VRR) : Word := packRR op o.d o.a o.b o.g.bits
def VRR.ofWord (x : Option VPfx) (w : Word) : VRR where
  x := x; d := fD w; a := fA w; b := fB w; g := LGuard.ofBits (fG w)
def VRR.clean (_w : Word) : Bool := true

def VR1.word (op : BitVec 8) (o : VR1) : Word := packRR op o.d o.a 0#6 o.g.bits
def VR1.ofWord (x : Option VPfx) (w : Word) : VR1 where
  x := x; d := fD w; a := fA w; g := LGuard.ofBits (fG w)
def VR1.clean (w : Word) : Bool := fB w == 0

def VRI.word (op : BitVec 8) (o : VRI) : Word := packRR op o.d o.a o.imm o.g.bits
def VRI.ofWord (x : Option VPfx) (w : Word) : VRI where
  x := x; d := fD w; a := fA w; imm := fB w; g := LGuard.ofBits (fG w)
def VRI.clean (_w : Word) : Bool := true

def VRL.word (op : BitVec 8) (o : VRL) : Word := packRR op o.d 0#6 0#6 o.g.bits
def VRL.ofWord (x : Option VPfx) (w : Word) (l : Word) : VRL where
  x := x; d := fD w; g := LGuard.ofBits (fG w); lit := l
def VRL.clean (w : Word) : Bool := fA w == 0 && fB w == 0

def VRW.word (op : BitVec 8) (o : VRW) : Word := packRR op o.d 0#6 o.w o.g.bits
def VRW.ofWord (x : Option VPfx) (w : Word) : VRW where
  x := x; d := fD w; w := fB w; g := LGuard.ofBits (fG w)
def VRW.clean (w : Word) : Bool := fA w == 0

def VAW.word (op : BitVec 8) (o : VAW) : Word := packRR op o.d o.a o.w o.g.bits
def VAW.ofWord (x : Option VPfx) (w : Word) : VAW where
  x := x; d := fD w; a := fA w; w := fB w; g := LGuard.ofBits (fG w)
def VAW.clean (_w : Word) : Bool := true

def VCP.word (op : BitVec 8) (o : VCP) : Word := packRR op (o.t ++ o.m) o.a o.b o.g.bits
def VCP.ofWord (x : Option VPfx) (w : Word) : VCP where
  x := x; t := (fD w).extractLsb' 2 4; m := (fD w).extractLsb' 0 2; a := fA w; b := fB w; g := LGuard.ofBits (fG w)
def VCP.clean (_w : Word) : Bool := true

def VSel.word (op : BitVec 8) (o : VSel) : Word := packRR op o.d o.a o.b (1#1 ++ BitVec.ofBool o.s ++ o.q)
def VSel.ofWord (x : Option VPfx) (w : Word) : VSel where
  x := x; d := fD w; a := fA w; b := fB w; s := (fG w).getLsbD 4; q := (fG w).extractLsb' 0 4
def VSel.clean (w : Word) : Bool := (fG w).getLsbD 5

def VD.word (op : BitVec 8) (o : VD) : Word := packRR op o.d 0#6 0#6 o.g.bits
def VD.ofWord (x : Option VPfx) (w : Word) : VD where
  x := x; d := fD w; g := LGuard.ofBits (fG w)
def VD.clean (w : Word) : Bool := fA w == 0 && fB w == 0

def VA.word (op : BitVec 8) (o : VA) : Word := packRR op 0#6 o.a 0#6 o.g.bits
def VA.ofWord (x : Option VPfx) (w : Word) : VA where
  x := x; a := fA w; g := LGuard.ofBits (fG w)
def VA.clean (w : Word) : Bool := fD w == 0 && fB w == 0

def VSr.word (op : BitVec 8) (o : VSr) : Word := packRR op o.d 0#6 o.code o.g.bits
def VSr.ofWord (x : Option VPfx) (w : Word) : VSr where
  x := x; d := fD w; code := fB w; g := LGuard.ofBits (fG w)
def VSr.clean (w : Word) : Bool := fA w == 0

def VCV.word (op : BitVec 8) (o : VCV) : Word := packRR op o.d o.a o.code o.g.bits
def VCV.ofWord (x : Option VPfx) (w : Word) : VCV where
  x := x; d := fD w; a := fA w; code := fB w; g := LGuard.ofBits (fG w)
def VCV.clean (_w : Word) : Bool := true

/-! Class L (Table 5.7): -/

def LMem.word (op : BitVec 8) (o : LMem) : Word := packRR op o.d o.a o.b o.g.bits
def LMem.ofWord (x : Option LPfx) (w : Word) : LMem where
  x := x; d := fD w; a := fA w; b := fB w; g := LGuard.ofBits (fG w)
def LMem.clean (_w : Word) : Bool := true

def LTile.word (op : BitVec 8) (o : LTile) : Word := packRR op o.d o.a 0#6 o.g.bits
def LTile.ofWord (x : Option LPfx) (w : Word) : LTile where
  x := x; d := fD w; a := fA w; g := LGuard.ofBits (fG w)
def LTile.clean (w : Word) : Bool := fB w == 0

def LAcc.word (op : BitVec 8) (o : LAcc) : Word := packRR op o.d o.a (0#3 ++ o.bank) o.g.bits
def LAcc.ofWord (x : Option LPfx) (w : Word) : LAcc where
  x := x; d := fD w; a := fA w; bank := (fB w).extractLsb' 0 3; g := LGuard.ofBits (fG w)
def LAcc.clean (w : Word) : Bool := (fB w).extractLsb' 3 3 == 0

def LFence.word (op : BitVec 8) (o : LFence) : Word := packRR op 0#6 0#6 0#6 o.g
def LFence.ofWord (x : Option LPfx) (w : Word) : LFence where
  x := x; g := fG w
def LFence.clean (w : Word) : Bool := fD w == 0 && fA w == 0 && fB w == 0

def LLine.word (op : BitVec 8) (o : LLine) : Word := packRR op 0#6 o.a o.b o.g.bits
def LLine.ofWord (x : Option LPfx) (w : Word) : LLine where
  x := x; a := fA w; b := fB w; g := LGuard.ofBits (fG w)
def LLine.clean (w : Word) : Bool := fD w == 0

/-! Class X (Table 9.3): -/

def XG.word (op : BitVec 8) (o : XG) : Word := packRR op 0#6 0#6 0#6 o.g.bits
def XG.ofWord (w : Word) : XG where
  g := LGuard.ofBits (fG w)
def XG.clean (w : Word) : Bool := fD w == 0 && fA w == 0 && fB w == 0

def XRI.word (op : BitVec 8) (o : XRI) : Word := packRR op o.d o.a o.imm o.g.bits
def XRI.ofWord (w : Word) : XRI where
  d := fD w; a := fA w; imm := fB w; g := LGuard.ofBits (fG w)
def XRI.clean (_w : Word) : Bool := true

def XR1.word (op : BitVec 8) (o : XR1) : Word := packRR op o.d o.a 0#6 o.g.bits
def XR1.ofWord (w : Word) : XR1 where
  d := fD w; a := fA w; g := LGuard.ofBits (fG w)
def XR1.clean (w : Word) : Bool := fB w == 0

def XTy.word (op : BitVec 8) (o : XTy) : Word := packRR op o.d o.a (0#4 ++ o.ty) o.g.bits
def XTy.ofWord (w : Word) : XTy where
  d := fD w; a := fA w; ty := (fB w).extractLsb' 0 2; g := LGuard.ofBits (fG w)
def XTy.clean (w : Word) : Bool := (fB w).extractLsb' 2 4 == 0

def XQd.word (op : BitVec 8) (o : XQd) : Word := packRR op o.d o.a (0#3 ++ BitVec.ofBool o.axis ++ o.ty) o.g.bits
def XQd.ofWord (w : Word) : XQd where
  d := fD w; a := fA w; axis := (fB w).getLsbD 2; ty := (fB w).extractLsb' 0 2; g := LGuard.ofBits (fG w)
def XQd.clean (w : Word) : Bool := (fB w).extractLsb' 3 3 == 0

def XVote.word (op : BitVec 8) (o : XVote) : Word := packRR op (o.t ++ o.m) (0#2 ++ o.src) 0#6 o.g.bits
def XVote.ofWord (w : Word) : XVote where
  t := (fD w).extractLsb' 2 4; m := (fD w).extractLsb' 0 2; src := (fA w).extractLsb' 0 4; g := LGuard.ofBits (fG w)
def XVote.clean (w : Word) : Bool := (fA w).extractLsb' 4 2 == 0 && fB w == 0

def XBal.word (op : BitVec 8) (o : XBal) : Word := packRR op o.d (0#2 ++ o.src) 0#6 o.g.bits
def XBal.ofWord (w : Word) : XBal where
  d := fD w; src := (fA w).extractLsb' 0 4; g := LGuard.ofBits (fG w)
def XBal.clean (w : Word) : Bool := (fA w).extractLsb' 4 2 == 0 && fB w == 0

def XScan.word (op : BitVec 8) (o : XScan) : Word := packRR op o.d o.a (0#2 ++ BitVec.ofBool o.excl ++ 0#1 ++ o.ty) o.g.bits
def XScan.ofWord (w : Word) : XScan where
  d := fD w; a := fA w; excl := (fB w).getLsbD 3; ty := (fB w).extractLsb' 0 2; g := LGuard.ofBits (fG w)
def XScan.clean (w : Word) : Bool := (fB w).extractLsb' 4 2 == 0 && (fB w).extractLsb' 2 1 == 0

def XPart.word (op : BitVec 8) (o : XPart) : Word := packRR op 0#6 0#6 o.size 0#6
def XPart.ofWord (w : Word) : XPart where
  size := fB w
def XPart.clean (w : Word) : Bool := fD w == 0 && fA w == 0 && fG w == 0

def XPlop.word (op : BitVec 8) (o : XPlop) : Word := packRR op (o.op ++ o.t) (BitVec.ofBool o.ia ++ 0#1 ++ o.pa) (BitVec.ofBool o.ib ++ 0#1 ++ o.pb) o.g.bits
def XPlop.ofWord (w : Word) : XPlop where
  op := (fD w).extractLsb' 4 2; t := (fD w).extractLsb' 0 4; ia := (fA w).getLsbD 5; pa := (fA w).extractLsb' 0 4; ib := (fB w).getLsbD 5; pb := (fB w).extractLsb' 0 4; g := LGuard.ofBits (fG w)
def XPlop.clean (w : Word) : Bool := (fA w).extractLsb' 4 1 == 0 && (fB w).extractLsb' 4 1 == 0

def XBr.word (op : BitVec 8) (o : XBr) : Word := packBR op o.off o.g.bits
def XBr.ofWord (w : Word) : XBr where
  off := fOff w; g := LGuard.ofBits (fG w)
def XBr.clean (_w : Word) : Bool := true

def XA.word (op : BitVec 8) (o : XA) : Word := packRR op 0#6 o.a 0#6 o.g.bits
def XA.ofWord (w : Word) : XA where
  a := fA w; g := LGuard.ofBits (fG w)
def XA.clean (w : Word) : Bool := fD w == 0 && fB w == 0

def XD.word (op : BitVec 8) (o : XD) : Word := packRR op o.d 0#6 0#6 o.g.bits
def XD.ofWord (w : Word) : XD where
  d := fD w; g := LGuard.ofBits (fG w)
def XD.clean (w : Word) : Bool := fA w == 0 && fB w == 0

/-! Class M (Tables 10.5, 10.6): -/

def MMma.word (op : BitVec 8) (o : MMma) : Word := packENG op o.ta o.tb o.shape o.g.bits
def MMma.litWord (o : MMma) : Word := packMma o.ab o.z o.grp o.dc o.lat o.re o.rg o.wo 0#6 0#5
def MMma.ofWord (w l : Word) : MMma where
  ta := fX w; tb := fY w; shape := fM w; g := UGuard.ofBits (fG w)
  ab := l.extractLsb' 29 3; z := l.getLsbD 28; grp := l.extractLsb' 26 2; dc := l.extractLsb' 23 3
  lat := l.extractLsb' 21 2; re := l.getLsbD 20; rg := l.extractLsb' 17 3; wo := l.extractLsb' 11 6
def MMma.clean (w l : Word) : Bool := UGuard.clean (fG w) && l.extractLsb' 5 6 == 0 && l.extractLsb' 0 5 == 0
def MBnd.word (op : BitVec 8) (o : MBnd) : Word := packENG op o.ta o.tb o.shape o.g.bits
def MBnd.litWord (o : MBnd) : Word := packMma o.ab o.z o.grp o.dc o.lat o.re o.rg o.wo o.wd 0#5
def MBnd.ofWord (w l : Word) : MBnd where
  ta := fX w; tb := fY w; shape := fM w; g := UGuard.ofBits (fG w)
  ab := l.extractLsb' 29 3; z := l.getLsbD 28; grp := l.extractLsb' 26 2; dc := l.extractLsb' 23 3
  lat := l.extractLsb' 21 2; re := l.getLsbD 20; rg := l.extractLsb' 17 3; wo := l.extractLsb' 11 6
  wd := l.extractLsb' 5 6
def MBnd.clean (w l : Word) : Bool := UGuard.clean (fG w) && l.extractLsb' 0 5 == 0

def MZ.word (op : BitVec 8) (m : BitVec 2) (o : MZ) : Word := packENG op (0#5 ++ o.bank) 0#8 m o.g.bits
def MZ.ofWord (w : Word) : MZ where
  bank := (fX w).extractLsb' 0 3; g := UGuard.ofBits (fG w)
def MZ.clean (w : Word) : Bool := (fX w).extractLsb' 3 5 == 0 && fY w == 0 && UGuard.clean (fG w)

def MLat.word (op : BitVec 8) (m : BitVec 2) (o : MLat) : Word := packENG op o.tp o.tl m o.g.bits
def MLat.ofWord (w : Word) : MLat where
  tp := fX w; tl := fY w; g := UGuard.ofBits (fG w)
def MLat.clean (w : Word) : Bool := UGuard.clean (fG w)

def MStat.word (op : BitVec 8) (o : MStat) : Word := packENG op (0#5 ++ o.bank) (0#2 ++ o.d) 0#2 o.g.bits
def MStat.ofWord (w : Word) : MStat where
  bank := (fX w).extractLsb' 0 3; d := (fY w).extractLsb' 0 6; g := UGuard.ofBits (fG w)
def MStat.clean (w : Word) : Bool := (fX w).extractLsb' 3 5 == 0 && (fY w).extractLsb' 6 2 == 0 && fM w == 0 && UGuard.clean (fG w)

/-! Class C (Tables 7.1 to 7.3): -/

def CCpy.word (op : BitVec 8) (o : CCpy) : Word := packENG op o.tag 0#8 0#2 o.g.bits
def CCpy.litWord (o : CCpy) : Word := packC o.wp o.eq o.re o.rg 0#6 0#5 0#10
def CCpy.ofWord (w l : Word) : CCpy where
  tag := fX w; g := UGuard.ofBits (fG w)
  wp := l.extractLsb' 26 6; eq := l.getLsbD 25; re := l.getLsbD 24; rg := l.extractLsb' 21 3
def CCpy.clean (w l : Word) : Bool :=
  fY w == 0 && fM w == 0 && UGuard.clean (fG w) && l.extractLsb' 15 6 == 0 && l.extractLsb' 10 5 == 0 && l.extractLsb' 0 10 == 0
def CCpym.word (op : BitVec 8) (o : CCpym) : Word := packENG op o.tag o.gp 0#2 o.g.bits
def CCpym.litWord (o : CCpym) : Word := packC o.wp o.eq o.re o.rg 0#6 0#5 0#10
def CCpym.ofWord (w l : Word) : CCpym where
  tag := fX w; gp := fY w; g := UGuard.ofBits (fG w)
  wp := l.extractLsb' 26 6; eq := l.getLsbD 25; re := l.getLsbD 24; rg := l.extractLsb' 21 3
def CCpym.clean (w l : Word) : Bool :=
  fM w == 0 && UGuard.clean (fG w) && l.extractLsb' 15 6 == 0 && l.extractLsb' 10 5 == 0 && l.extractLsb' 0 10 == 0
def CTile.word (op : BitVec 8) (o : CTile) : Word := packENG op o.src o.dst 0#2 o.g.bits
def CTile.litWord (o : CTile) : Word := packC o.wo o.eq o.re o.rg o.rowsm1 o.chm1 0#10
def CTile.ofWord (w l : Word) : CTile where
  src := fX w; dst := fY w; g := UGuard.ofBits (fG w)
  wo := l.extractLsb' 26 6; eq := l.getLsbD 25; re := l.getLsbD 24; rg := l.extractLsb' 21 3
  rowsm1 := l.extractLsb' 15 6; chm1 := l.extractLsb' 10 5
def CTile.clean (w l : Word) : Bool := fM w == 0 && UGuard.clean (fG w) && l.extractLsb' 0 10 == 0

def CP.word (op : BitVec 8) (m : BitVec 2) (o : CP) : Word := packENG op (0#2 ++ o.p) 0#8 m o.g.bits
def CP.ofWord (w : Word) : CP where
  p := (fX w).extractLsb' 0 6; g := UGuard.ofBits (fG w)
def CP.clean (w : Word) : Bool := (fX w).extractLsb' 6 2 == 0 && fY w == 0 && UGuard.clean (fG w)

def CApp.word (op : BitVec 8) (o : CApp) : Word := packENG op (0#2 ++ o.l) (0#2 ++ o.i) 0#2 o.g.bits
def CApp.ofWord (w : Word) : CApp where
  l := (fX w).extractLsb' 0 6; i := (fY w).extractLsb' 0 6; g := UGuard.ofBits (fG w)
def CApp.clean (w : Word) : Bool := (fX w).extractLsb' 6 2 == 0 && (fY w).extractLsb' 6 2 == 0 && fM w == 0 && UGuard.clean (fG w)

def CDrn.word (op : BitVec 8) (o : CDrn) : Word := packENG op (0#2 ++ o.d) (0#2 ++ o.n) 0#2 o.g.bits
def CDrn.ofWord (w : Word) : CDrn where
  d := (fX w).extractLsb' 0 6; n := (fY w).extractLsb' 0 6; g := UGuard.ofBits (fG w)
def CDrn.clean (w : Word) : Bool := (fX w).extractLsb' 6 2 == 0 && (fY w).extractLsb' 6 2 == 0 && fM w == 0 && UGuard.clean (fG w)

def CTf.word (op : BitVec 8) (m : BitVec 2) (o : CTf) : Word := packENG op o.t (0#2 ++ o.p) m o.g.bits
def CTf.ofWord (w : Word) : CTf where
  t := fX w; p := (fY w).extractLsb' 0 6; g := UGuard.ofBits (fG w)
def CTf.clean (w : Word) : Bool := (fY w).extractLsb' 6 2 == 0 && UGuard.clean (fG w)

/-! Class Y (Tables 13.8, 14.5): -/

def YX.word (op : BitVec 8) (m : BitVec 2) (o : YX) : Word := packENG op o.x 0#8 m o.g.bits
def YX.ofWord (w : Word) : YX where
  x := fX w; g := UGuard.ofBits (fG w)
def YX.clean (w : Word) : Bool := fY w == 0 && UGuard.clean (fG w)

def YPg.word (op : BitVec 8) (o : YPg) : Word := packENG op o.x (0#2 ++ o.d) 0#2 o.g.bits
def YPg.ofWord (w : Word) : YPg where
  x := fX w; d := (fY w).extractLsb' 0 6; g := UGuard.ofBits (fG w)
def YPg.clean (w : Word) : Bool := (fY w).extractLsb' 6 2 == 0 && fM w == 0 && UGuard.clean (fG w)

def YRg.word (op : BitVec 8) (m : BitVec 2) (o : YRg) : Word := packENG op (0#5 ++ o.r) 0#8 m o.g.bits
def YRg.ofWord (w : Word) : YRg where
  r := (fX w).extractLsb' 0 3; g := UGuard.ofBits (fG w)
def YRg.clean (w : Word) : Bool := (fX w).extractLsb' 3 5 == 0 && fY w == 0 && UGuard.clean (fG w)

def YLn.word (op : BitVec 8) (o : YLn) : Word := packENG op (0#2 ++ o.a) (0#2 ++ o.d) 0#2 o.g.bits
def YLn.ofWord (w : Word) : YLn where
  a := (fX w).extractLsb' 0 6; d := (fY w).extractLsb' 0 6; g := UGuard.ofBits (fG w)
def YLn.clean (w : Word) : Bool := (fX w).extractLsb' 6 2 == 0 && (fY w).extractLsb' 6 2 == 0 && fM w == 0 && UGuard.clean (fG w)

/-- TWAIT names its pair in X (form ENG), PLVL its register in a (form YR, R370). -/
def YA.word (op : BitVec 8) (o : YA) : Word := packENG op (0#2 ++ o.a) 0#8 0#2 o.g.bits
def YA.ofWord (w : Word) : YA where
  a := (fX w).extractLsb' 0 6; g := UGuard.ofBits (fG w)
def YA.clean (w : Word) : Bool := (fX w).extractLsb' 6 2 == 0 && fY w == 0 && fM w == 0 && UGuard.clean (fG w)

def YA.wordR (op : BitVec 8) (o : YA) : Word := packRR op 0#6 o.a 0#6 o.g.bits
def YA.ofWordR (w : Word) : YA where
  a := fA w; g := UGuard.ofBits (fG w)
def YA.cleanR (w : Word) : Bool := fD w == 0 && fB w == 0 && UGuard.clean (fG w)

/-- TIME names its pair in d (form YR), EVWAIT and EVPOP theirs in Y (form ENG). -/
def YD.word (op : BitVec 8) (o : YD) : Word := packRR op o.d 0#6 0#6 o.g.bits
def YD.ofWord (w : Word) : YD where
  d := fD w; g := UGuard.ofBits (fG w)
def YD.clean (w : Word) : Bool := fA w == 0 && fB w == 0 && UGuard.clean (fG w)

def YD.wordY (op : BitVec 8) (o : YD) : Word := packENG op 0#8 (0#2 ++ o.d) 0#2 o.g.bits
def YD.ofWordY (w : Word) : YD where
  d := (fY w).extractLsb' 0 6; g := UGuard.ofBits (fG w)
def YD.cleanY (w : Word) : Bool := fX w == 0 && (fY w).extractLsb' 6 2 == 0 && fM w == 0 && UGuard.clean (fG w)

def YG.word (op : BitVec 8) (o : YG) : Word := packRR op 0#6 0#6 0#6 o.g.bits
def YG.ofWord (w : Word) : YG where
  g := UGuard.ofBits (fG w)
def YG.clean (w : Word) : Bool := fD w == 0 && fA w == 0 && fB w == 0 && UGuard.clean (fG w)

def YCr.word (op : BitVec 8) (o : YCr) : Word := packRR op o.d 0#6 o.csr o.g.bits
def YCr.ofWord (w : Word) : YCr where
  d := fD w; csr := fB w; g := UGuard.ofBits (fG w)
def YCr.clean (w : Word) : Bool := fA w == 0 && UGuard.clean (fG w)

def YCw.word (op : BitVec 8) (o : YCw) : Word := packRR op 0#6 o.a o.csr o.g.bits
def YCw.ofWord (w : Word) : YCw where
  a := fA w; csr := fB w; g := UGuard.ofBits (fG w)
def YCw.clean (w : Word) : Bool := fD w == 0 && UGuard.clean (fG w)

def YN.word (op : BitVec 8) (o : YN) : Word := packRR op 0#6 0#6 o.n o.g.bits
def YN.ofWord (w : Word) : YN where
  n := fB w; g := UGuard.ofBits (fG w)
def YN.clean (w : Word) : Bool := fD w == 0 && fA w == 0 && UGuard.clean (fG w)

/-! ## The decoder -/

/-- Why words are no instruction (Table 5.22, checks 4 and 6). -/
inductive DecodeError where
  /-- There is no word at all. -/
  | noWord
  /-- A prefix is the last word (R128). -/
  | prefixLast
  /-- A prefix is followed by another prefix (R128). -/
  | prefixPrefix
  /-- An instruction that takes a literal is the last word (R127). -/
  | literalMissing
  /-- Opcode 0x00 (R119). -/
  | opcodeZero
  /-- An opcode the class does not assign (R137). -/
  | unassigned
  /-- A reserved bit or an unused register field is not zero (R119, R127). -/
  | reserved
  /-- A code or value that the instruction's entry calls illegal. -/
  | illegalValue
  deriving DecidableEq, Repr

/-- Reserved bits first, then the values: either makes the instruction illegal (check 6). -/
def legal (clean : Bool) (i : Instr) : Except DecodeError Instr :=
  if !clean then .error .reserved else if WellFormed i then .ok i else .error .illegalValue

def withLit (lit : Option Word) (k : Word → Except DecodeError Instr) : Except DecodeError Instr :=
  match lit with
  | none => .error .literalMissing
  | some l => k l

/-- The opcode map of class S (R137, Table 5.14). -/
def decodeS (lit : Option Word) (w : Word) : Except DecodeError Instr :=
  match (fOp w).toNat with
  | 0 => .error .opcodeZero
  | 0x01 => legal (SR1.clean w) (.movw (.ofWord w))
  | 0x02 => withLit lit fun l => legal (SRL.clean w) (.liw (.ofWord w l))
  | 0x03 => legal (SRR.clean w) (.addw (.ofWord w))
  | 0x04 => legal (SRI.clean w) (.addwi (.ofWord w))
  | 0x05 => legal (SRR.clean w) (.subw (.ofWord w))
  | 0x06 => legal (SRR.clean w) (.mulw (.ofWord w))
  | 0x07 => legal (SRR.clean w) (.mulhwI (.ofWord w))
  | 0x08 => legal (SRR.clean w) (.mulhwN (.ofWord w))
  | 0x09 => legal (SRR.clean w) (.shlw (.ofWord w))
  | 0x0a => legal (SRR.clean w) (.shrw (.ofWord w))
  | 0x0b => legal (SRR.clean w) (.sarw (.ofWord w))
  | 0x0c => legal (SRI.clean w) (.shlwi (.ofWord w))
  | 0x0d => legal (SRI.clean w) (.shrwi (.ofWord w))
  | 0x0e => legal (SRI.clean w) (.sarwi (.ofWord w))
  | 0x0f => legal (SRR.clean w) (.andw (.ofWord w))
  | 0x10 => legal (SRR.clean w) (.orw (.ofWord w))
  | 0x11 => legal (SRR.clean w) (.xorw (.ofWord w))
  | 0x12 => legal (SR1.clean w) (.notw (.ofWord w))
  | 0x13 => legal (SRR.clean w) (.minwI (.ofWord w))
  | 0x14 => legal (SRR.clean w) (.maxwI (.ofWord w))
  | 0x15 => legal (SRR.clean w) (.minwN (.ofWord w))
  | 0x16 => legal (SRR.clean w) (.maxwN (.ofWord w))
  | 0x17 => legal (SCS.clean w) (.cmpwI (.ofWord w))
  | 0x18 => legal (SCS.clean w) (.cmpwN (.ofWord w))
  | 0x19 => legal (SSel.clean w) (.selw (.ofWord w))
  | 0x1a => legal (SRR.clean w) (.add64w (.ofWord w))
  | 0x1b => legal (SRR.clean w) (.sub64w (.ofWord w))
  | 0x1c => legal (SRR.clean w) (.faddw (.ofWord w))
  | 0x1d => legal (SRR.clean w) (.fsubw (.ofWord w))
  | 0x1e => legal (SRR.clean w) (.fmulw (.ofWord w))
  | 0x1f => legal (SRR.clean w) (.ffmaw (.ofWord w))
  | 0x20 => legal (SRR.clean w) (.fdivw (.ofWord w))
  | 0x21 => legal (SCS.clean w) (.fcmpw (.ofWord w))
  | 0x22 => legal (SCV.clean w) (.cvtw (.ofWord w))
  | 0x23 => legal (SRR.clean w) (.v2w (.ofWord w))
  | 0x24 => legal (SR1.clean w) (.bcntw (.ofWord w))
  | 0x25 => legal (SR1.clean w) (.clzw (.ofWord w))
  | _ => .error .unassigned

/-- The opcode map of class V (R137, Table 5.15). -/
def decodeV (x : Option VPfx) (lit : Option Word) (w : Word) : Except DecodeError Instr :=
  match (fOp w).toNat with
  | 0 => .error .opcodeZero
  | 0x01 => legal (VR1.clean w) (.mov (.ofWord x w))
  | 0x02 => withLit lit fun l => legal (VRL.clean w) (.li (.ofWord x w l))
  | 0x03 => legal (VRW.clean w) (.w2v (.ofWord x w))
  | 0x04 => legal (VRR.clean w) (.iadd (.ofWord x w))
  | 0x05 => legal (VRI.clean w) (.iaddi (.ofWord x w))
  | 0x06 => legal (VRR.clean w) (.isub (.ofWord x w))
  | 0x07 => legal (VRR.clean w) (.imul (.ofWord x w))
  | 0x08 => legal (VRR.clean w) (.imulhI (.ofWord x w))
  | 0x09 => legal (VRR.clean w) (.imulhN (.ofWord x w))
  | 0x0a => legal (VRR.clean w) (.imad (.ofWord x w))
  | 0x0b => legal (VR1.clean w) (.iabs (.ofWord x w))
  | 0x0c => legal (VR1.clean w) (.ineg (.ofWord x w))
  | 0x0d => legal (VRR.clean w) (.iminI (.ofWord x w))
  | 0x0e => legal (VRR.clean w) (.imaxI (.ofWord x w))
  | 0x0f => legal (VRR.clean w) (.iminN (.ofWord x w))
  | 0x10 => legal (VRR.clean w) (.imaxN (.ofWord x w))
  | 0x11 => legal (VRR.clean w) (.shl (.ofWord x w))
  | 0x12 => legal (VRR.clean w) (.shr (.ofWord x w))
  | 0x13 => legal (VRR.clean w) (.sar (.ofWord x w))
  | 0x14 => legal (VRI.clean w) (.shli (.ofWord x w))
  | 0x15 => legal (VRI.clean w) (.shri (.ofWord x w))
  | 0x16 => legal (VRI.clean w) (.sari (.ofWord x w))
  | 0x17 => legal (VRR.clean w) (.vand (.ofWord x w))
  | 0x18 => legal (VRR.clean w) (.vor (.ofWord x w))
  | 0x19 => legal (VRR.clean w) (.vxor (.ofWord x w))
  | 0x1a => legal (VR1.clean w) (.vnot (.ofWord x w))
  | 0x1b => legal (VR1.clean w) (.popc (.ofWord x w))
  | 0x1c => legal (VR1.clean w) (.clz (.ofWord x w))
  | 0x1d => legal (VR1.clean w) (.brev (.ofWord x w))
  | 0x1e => legal (VRR.clean w) (.bfe (.ofWord x w))
  | 0x1f => legal (VRR.clean w) (.bfi (.ofWord x w))
  | 0x20 => legal (VCP.clean w) (.isetpEq (.ofWord x w))
  | 0x21 => legal (VCP.clean w) (.isetpNe (.ofWord x w))
  | 0x22 => legal (VCP.clean w) (.isetpLt (.ofWord x w))
  | 0x23 => legal (VCP.clean w) (.isetpLe (.ofWord x w))
  | 0x24 => legal (VCP.clean w) (.isetpGt (.ofWord x w))
  | 0x25 => legal (VCP.clean w) (.isetpGe (.ofWord x w))
  | 0x26 => legal (VCP.clean w) (.isetpLtN (.ofWord x w))
  | 0x27 => legal (VCP.clean w) (.isetpLeN (.ofWord x w))
  | 0x28 => legal (VCP.clean w) (.isetpGtN (.ofWord x w))
  | 0x29 => legal (VCP.clean w) (.isetpGeN (.ofWord x w))
  | 0x2a => legal (VSel.clean w) (.sel (.ofWord x w))
  | 0x2b => legal (VRR.clean w) (.iadd64 (.ofWord x w))
  | 0x2c => legal (VRR.clean w) (.isub64 (.ofWord x w))
  | 0x2d => legal (VRR.clean w) (.imulwI (.ofWord x w))
  | 0x2e => legal (VRR.clean w) (.imulwN (.ofWord x w))
  | 0x2f => legal (VD.clean w) (.pmov (.ofWord x w))
  | 0x30 => legal (VA.clean w) (.vmovp (.ofWord x w))
  | 0x31 => legal (VSr.clean w) (.sreg (.ofWord x w))
  | _ => .error .unassigned

/-- The opcode map of class F (R137, Table 5.16). -/
def decodeF (x : Option VPfx) (w : Word) : Except DecodeError Instr :=
  match (fOp w).toNat with
  | 0 => .error .opcodeZero
  | 0x01 => legal (VRR.clean w) (.fadd (.ofWord x w))
  | 0x02 => legal (VRR.clean w) (.fsub (.ofWord x w))
  | 0x03 => legal (VRR.clean w) (.fmul (.ofWord x w))
  | 0x04 => legal (VRR.clean w) (.ffma (.ofWord x w))
  | 0x05 => legal (VRR.clean w) (.fmin (.ofWord x w))
  | 0x06 => legal (VRR.clean w) (.fmax (.ofWord x w))
  | 0x07 => legal (VR1.clean w) (.fabs (.ofWord x w))
  | 0x08 => legal (VR1.clean w) (.fneg (.ofWord x w))
  | 0x09 => legal (VCP.clean w) (.fsetpEq (.ofWord x w))
  | 0x0a => legal (VCP.clean w) (.fsetpNe (.ofWord x w))
  | 0x0b => legal (VCP.clean w) (.fsetpLt (.ofWord x w))
  | 0x0c => legal (VCP.clean w) (.fsetpLe (.ofWord x w))
  | 0x0d => legal (VCP.clean w) (.fsetpGt (.ofWord x w))
  | 0x0e => legal (VCP.clean w) (.fsetpGe (.ofWord x w))
  | 0x0f => legal (VCP.clean w) (.fsetpNan (.ofWord x w))
  | 0x10 => legal (VR1.clean w) (.fclass (.ofWord x w))
  | 0x11 => legal (VRR.clean w) (.hadd2 (.ofWord x w))
  | 0x12 => legal (VRR.clean w) (.hmul2 (.ofWord x w))
  | 0x13 => legal (VRR.clean w) (.hfma2 (.ofWord x w))
  | 0x14 => legal (VRR.clean w) (.badd2 (.ofWord x w))
  | 0x15 => legal (VRR.clean w) (.bmul2 (.ofWord x w))
  | 0x16 => legal (VRR.clean w) (.bfma2 (.ofWord x w))
  | 0x17 => legal (VR1.clean w) (.rcp (.ofWord x w))
  | 0x18 => legal (VR1.clean w) (.rsq (.ofWord x w))
  | 0x19 => legal (VR1.clean w) (.sqrt (.ofWord x w))
  | 0x1a => legal (VR1.clean w) (.ex2 (.ofWord x w))
  | 0x1b => legal (VR1.clean w) (.lg2 (.ofWord x w))
  | 0x1c => legal (VR1.clean w) (.sin (.ofWord x w))
  | 0x1d => legal (VR1.clean w) (.cos (.ofWord x w))
  | 0x1e => legal (VR1.clean w) (.tanh (.ofWord x w))
  | 0x1f => legal (VRR.clean w) (.fdiv (.ofWord x w))
  | 0x20 => legal (VCV.clean w) (.cvt (.ofWord x w))
  | 0x21 => legal (VAW.clean w) (.cvts (.ofWord x w))
  | 0x22 => legal (VAW.clean w) (.cvtxB0 (.ofWord x w))
  | 0x23 => legal (VAW.clean w) (.cvtxB1 (.ofWord x w))
  | 0x24 => legal (VAW.clean w) (.cvtxB2 (.ofWord x w))
  | 0x25 => legal (VAW.clean w) (.cvtxB3 (.ofWord x w))
  | 0x26 => legal (VRR.clean w) (.qadd (.ofWord x w))
  | 0x27 => legal (VRR.clean w) (.qsub (.ofWord x w))
  | 0x28 => legal (VRR.clean w) (.qmul (.ofWord x w))
  | 0x29 => legal (VRR.clean w) (.qdiv (.ofWord x w))
  | 0x2a => legal (VR1.clean w) (.qcvt (.ofWord x w))
  | 0x2b => legal (VRR.clean w) (.qfrom (.ofWord x w))
  | 0x2c => legal (VR1.clean w) (.qnum (.ofWord x w))
  | 0x2d => legal (VR1.clean w) (.qden (.ofWord x w))
  | 0x2e => legal (VRR.clean w) (.qmed (.ofWord x w))
  | 0x2f => legal (VRR.clean w) (.qrnd (.ofWord x w))
  | 0x30 => legal (VCP.clean w) (.qsetpEq (.ofWord x w))
  | 0x31 => legal (VCP.clean w) (.qsetpNe (.ofWord x w))
  | 0x32 => legal (VCP.clean w) (.qsetpLt (.ofWord x w))
  | 0x33 => legal (VCP.clean w) (.qsetpLe (.ofWord x w))
  | 0x34 => legal (VCP.clean w) (.qsetpGt (.ofWord x w))
  | 0x35 => legal (VCP.clean w) (.qsetpGe (.ofWord x w))
  | 0x36 => legal (VR1.clean w) (.qrec (.ofWord x w))
  | 0x37 => legal (VR1.clean w) (.qclass (.ofWord x w))
  | _ => .error .unassigned

/-- The opcode map of class L (R137, Table 5.17). -/
def decodeL (x : Option LPfx) (w : Word) : Except DecodeError Instr :=
  match (fOp w).toNat with
  | 0 => .error .opcodeZero
  | 0x01 => legal (LMem.clean w) (.ldN8 (.ofWord x w))
  | 0x02 => legal (LMem.clean w) (.ldI8 (.ofWord x w))
  | 0x03 => legal (LMem.clean w) (.ldN16 (.ofWord x w))
  | 0x04 => legal (LMem.clean w) (.ldI16 (.ofWord x w))
  | 0x05 => legal (LMem.clean w) (.ld32 (.ofWord x w))
  | 0x06 => legal (LMem.clean w) (.ld64 (.ofWord x w))
  | 0x07 => legal (LMem.clean w) (.ld128 (.ofWord x w))
  | 0x08 => legal (LMem.clean w) (.st8 (.ofWord x w))
  | 0x09 => legal (LMem.clean w) (.st16 (.ofWord x w))
  | 0x0a => legal (LMem.clean w) (.st32 (.ofWord x w))
  | 0x0b => legal (LMem.clean w) (.st64 (.ofWord x w))
  | 0x0c => legal (LMem.clean w) (.st128 (.ofWord x w))
  | 0x0d => legal (LTile.clean w) (.ldt32 (.ofWord x w))
  | 0x0e => legal (LTile.clean w) (.ldt64 (.ofWord x w))
  | 0x0f => legal (LTile.clean w) (.ldt128 (.ofWord x w))
  | 0x10 => legal (LTile.clean w) (.stt32 (.ofWord x w))
  | 0x11 => legal (LTile.clean w) (.stt64 (.ofWord x w))
  | 0x12 => legal (LTile.clean w) (.stt128 (.ofWord x w))
  | 0x13 => legal (LAcc.clean w) (.lda (.ofWord x w))
  | 0x14 => legal (LAcc.clean w) (.sta (.ofWord x w))
  | 0x15 => legal (LTile.clean w) (.ldc (.ofWord x w))
  | 0x16 => legal (LMem.clean w) (.atomAddN32 (.ofWord x w))
  | 0x17 => legal (LMem.clean w) (.atomAddN64 (.ofWord x w))
  | 0x18 => legal (LMem.clean w) (.atomMinI32 (.ofWord x w))
  | 0x19 => legal (LMem.clean w) (.atomMaxI32 (.ofWord x w))
  | 0x1a => legal (LMem.clean w) (.atomMinN32 (.ofWord x w))
  | 0x1b => legal (LMem.clean w) (.atomMaxN32 (.ofWord x w))
  | 0x1c => legal (LMem.clean w) (.atomAnd (.ofWord x w))
  | 0x1d => legal (LMem.clean w) (.atomOr (.ofWord x w))
  | 0x1e => legal (LMem.clean w) (.atomXor (.ofWord x w))
  | 0x1f => legal (LMem.clean w) (.atomExch (.ofWord x w))
  | 0x20 => legal (LMem.clean w) (.atomCas (.ofWord x w))
  | 0x21 => legal (LMem.clean w) (.atomFaddF32 (.ofWord x w))
  | 0x22 => legal (LMem.clean w) (.atomExch64 (.ofWord x w))
  | 0x23 => legal (LMem.clean w) (.redAddN32 (.ofWord x w))
  | 0x24 => legal (LMem.clean w) (.redAddN64 (.ofWord x w))
  | 0x25 => legal (LMem.clean w) (.redMinI32 (.ofWord x w))
  | 0x26 => legal (LMem.clean w) (.redMaxI32 (.ofWord x w))
  | 0x27 => legal (LMem.clean w) (.redMinN32 (.ofWord x w))
  | 0x28 => legal (LMem.clean w) (.redMaxN32 (.ofWord x w))
  | 0x29 => legal (LMem.clean w) (.redAnd (.ofWord x w))
  | 0x2a => legal (LMem.clean w) (.redOr (.ofWord x w))
  | 0x2b => legal (LMem.clean w) (.redXor (.ofWord x w))
  | 0x2c => legal (LMem.clean w) (.redFaddF32 (.ofWord x w))
  | 0x30 => legal (LTile.clean w) (.atomtAddN32 (.ofWord x w))
  | 0x31 => legal (LTile.clean w) (.atomtMinI32 (.ofWord x w))
  | 0x32 => legal (LTile.clean w) (.atomtMaxI32 (.ofWord x w))
  | 0x33 => legal (LTile.clean w) (.atomtExch (.ofWord x w))
  | 0x34 => legal (LTile.clean w) (.atomtCas (.ofWord x w))
  | 0x35 => legal (LFence.clean w) (.fence (.ofWord x w))
  | 0x36 => legal (LLine.clean w) (.cinv (.ofWord x w))
  | 0x37 => legal (LLine.clean w) (.pref (.ofWord x w))
  | _ => .error .unassigned

/-- The opcode map of class X (R137, Table 5.18). -/
def decodeX (w : Word) : Except DecodeError Instr :=
  match (fOp w).toNat with
  | 0 => .error .opcodeZero
  | 0x01 => legal (XG.clean w) (.nop (.ofWord w))
  | 0x02 => legal (XRI.clean w) (.xch (.ofWord w))
  | 0x03 => legal (XRI.clean w) (.qbc (.ofWord w))
  | 0x04 => legal (XTy.clean w) (.qsum (.ofWord w))
  | 0x05 => legal (XTy.clean w) (.qmin (.ofWord w))
  | 0x06 => legal (XTy.clean w) (.qmax (.ofWord w))
  | 0x07 => legal (XQd.clean w) (.qdiff (.ofWord w))
  | 0x08 => legal (XVote.clean w) (.voteAny (.ofWord w))
  | 0x09 => legal (XVote.clean w) (.voteAll (.ofWord w))
  | 0x0a => legal (XBal.clean w) (.ballot (.ofWord w))
  | 0x0b => legal (XR1.clean w) (.matchLanes (.ofWord w))
  | 0x0c => legal (XTy.clean w) (.redtAdd (.ofWord w))
  | 0x0d => legal (XTy.clean w) (.redtMin (.ofWord w))
  | 0x0e => legal (XTy.clean w) (.redtMax (.ofWord w))
  | 0x0f => legal (XScan.clean w) (.scantAdd (.ofWord w))
  | 0x10 => legal (XPart.clean w) (.part (.ofWord w))
  | 0x11 => legal (XPlop.clean w) (.plop (.ofWord w))
  | 0x12 => legal (XBr.clean w) (.bra (.ofWord w))
  | 0x13 => legal (XA.clean w) (.brx (.ofWord w))
  | 0x14 => legal (XBr.clean w) (.call (.ofWord w))
  | 0x15 => legal (XA.clean w) (.ret (.ofWord w))
  | 0x16 => legal (XG.clean w) (.exit (.ofWord w))
  | 0x17 => legal (XG.clean w) (.yield (.ofWord w))
  | 0x18 => legal (XD.clean w) (.active (.ofWord w))
  | _ => .error .unassigned

/-- The opcode map of class M (R137, Table 5.19). -/
def decodeM (lit : Option Word) (w : Word) : Except DecodeError Instr :=
  match (fOp w).toNat with
  | 0 => .error .opcodeZero
  | 0x01 => withLit lit fun l => legal (MMma.clean w l) (.mma (.ofWord w l))
  | 0x02 => withLit lit fun l => legal (MBnd.clean w l) (.mbound (.ofWord w l))
  | 0x03 =>
    match (fM w).toNat with
    | 0 => legal (MZ.clean w) (.mzero (.ofWord w))
    | 1 => legal (MZ.clean w) (.mzeroX4 (.ofWord w))
    | _ => .error .illegalValue
  | 0x04 =>
    match (fM w).toNat with
    | 0 => legal (MLat.clean w) (.mlatK (.ofWord w))
    | 1 => legal (MLat.clean w) (.mlatV (.ofWord w))
    | _ => .error .illegalValue
  | 0x05 => legal (MStat.clean w) (.mstat (.ofWord w))
  | _ => .error .unassigned

/-- The opcode map of class C (R137, Table 5.20). -/
def decodeC (lit : Option Word) (w : Word) : Except DecodeError Instr :=
  match (fOp w).toNat with
  | 0 => .error .opcodeZero
  | 0x01 => withLit lit fun l => legal (CCpy.clean w l) (.cpy (.ofWord w l))
  | 0x02 => withLit lit fun l => legal (CCpym.clean w l) (.cpym (.ofWord w l))
  | 0x03 => withLit lit fun l => legal (CTile.clean w l) (.enc (.ofWord w l))
  | 0x04 => withLit lit fun l => legal (CTile.clean w l) (.dect (.ofWord w l))
  | 0x06 =>
    match (fM w).toNat with
    | 0 => legal (CP.clean w) (.sread (.ofWord w))
    | _ => .error .illegalValue
  | 0x07 =>
    match (fM w).toNat with
    | 0 => legal (CP.clean w) (.swrite (.ofWord w))
    | 1 => legal (CP.clean w) (.swriteFua (.ofWord w))
    | _ => .error .illegalValue
  | 0x08 => legal (CApp.clean w) (.append (.ofWord w))
  | 0x09 => legal (CDrn.clean w) (.drain (.ofWord w))
  | 0x0a =>
    match (fM w).toNat with
    | 0 => legal (YX.clean w) (.quiesce (.ofWord w))
    | _ => .error .illegalValue
  | 0x0b =>
    match (fM w).toNat with
    | 0 => legal (CTf.clean w) (.tfset (.ofWord w))
    | 1 => legal (CTf.clean w) (.tfsetOvcur (.ofWord w))
    | _ => .error .illegalValue
  | 0x0c =>
    match (fM w).toNat with
    | 0 => legal (CTf.clean w) (.tfget (.ofWord w))
    | _ => .error .illegalValue
  | _ => .error .unassigned

/-- The opcode map of class Y (R137, Table 5.21). -/
noncomputable def decodeY (w : Word) : Except DecodeError Instr :=
  match (fOp w).toNat with
  | 0 => .error .opcodeZero
  | 0x01 =>
    match (fM w).toNat with
    | 0 => legal (YX.clean w) (.phregSo (.ofWord w))
    | 1 => legal (YX.clean w) (.phregWo (.ofWord w))
    | 2 => legal (YX.clean w) (.phregSw (.ofWord w))
    | _ => .error .illegalValue
  | 0x02 =>
    match (fM w).toNat with
    | 0 => legal (YX.clean w) (.phdrop (.ofWord w))
    | _ => .error .illegalValue
  | 0x03 =>
    match (fM w).toNat with
    | 0 => legal (YX.clean w) (.phsig (.ofWord w))
    | _ => .error .illegalValue
  | 0x04 =>
    match (fM w).toNat with
    | 0 => legal (YX.clean w) (.phwait (.ofWord w))
    | _ => .error .illegalValue
  | 0x05 =>
    match (fM w).toNat with
    | 0 => legal (YX.clean w) (.phsw (.ofWord w))
    | _ => .error .illegalValue
  | 0x06 => legal (YPg.clean w) (.phget (.ofWord w))
  | 0x07 =>
    match (fM w).toNat with
    | 0 => legal (YRg.clean w) (.racqP (.ofWord w))
    | 1 => legal (YRg.clean w) (.racqC (.ofWord w))
    | _ => .error .illegalValue
  | 0x08 =>
    match (fM w).toNat with
    | 0 => legal (YRg.clean w) (.rrelP (.ofWord w))
    | 1 => legal (YRg.clean w) (.rrelC (.ofWord w))
    | _ => .error .illegalValue
  | 0x09 => legal (YLn.clean w) (.launch (.ofWord w))
  | 0x0a => legal (YG.clean w) (.succhint (.ofWord w))
  | 0x0b => legal (YG.clean w) (.predwait (.ofWord w))
  | 0x0c => legal (YD.clean w) (.time (.ofWord w))
  | 0x0d => legal (YA.clean w) (.twait (.ofWord w))
  | 0x0e => legal (YCr.clean w) (.csrr (.ofWord w))
  | 0x0f => legal (YCw.clean w) (.csrw (.ofWord w))
  | 0x10 => legal (YA.cleanR w) (.plvl (.ofWordR w))
  | 0x11 => legal (YN.clean w) (.trap (.ofWord w))
  | 0x12 => legal (YG.clean w) (.rte (.ofWord w))
  | 0x13 => legal (YN.clean w) (.bkpt (.ofWord w))
  | 0x14 => legal (YD.cleanY w) (.evwait (.ofWordY w))
  | 0x15 => legal (YD.cleanY w) (.evpop (.ofWordY w))
  | _ => .error .unassigned

/-- Opcode 0xFF is a prefix in classes V, F and L (R128). -/
def isPrefix (cls : Cls) (w : Word) : Bool :=
  (cls == .v || cls == .f || cls == .l) && fOp w == 255

/-- The opcodes marked +L: LIW, LI, MMA, MBOUND, CPY, CPYM, ENC and DECT (R127). -/
def takesLiteral (cls : Cls) (w : Word) : Bool :=
  match cls with
  | .s | .v => fOp w == 2
  | .m => fOp w == 1 || fOp w == 2
  | .c => fOp w == 1 || fOp w == 2 || fOp w == 3 || fOp w == 4
  | _ => false

/-- One instruction word in its class, with the prefix word before it and the word after it, if any. -/
noncomputable def decodeTarget (cls : Cls) (p : Option Word) (w : Word) (lit : Option Word) : Except DecodeError Instr :=
  match cls with
  | .s => decodeS lit w
  | .v =>
    if (p.map VPfx.clean).getD true then decodeV (p.map VPfx.ofWord) lit w else .error .reserved
  | .f =>
    if (p.map VPfx.clean).getD true then decodeF (p.map VPfx.ofWord) w else .error .reserved
  | .l => decodeL (p.map LPfx.ofWord) w
  | .x => decodeX w
  | .m => decodeM lit w
  | .c => decodeC lit w
  | .y => decodeY w

/-- The words a target and its literal take. -/
def targetLen (cls : Cls) (w : Word) : Nat := if takesLiteral cls w then 2 else 1

/-- The instruction at the front of `ws`, and how many words it takes (R127, R128). -/
noncomputable def decodeWords (cls : Cls) (ws : List Word) : Except DecodeError (Instr × Nat) :=
  match ws with
  | [] => .error .noWord
  | w :: rest =>
    if isPrefix cls w then
      match rest with
      | [] => .error .prefixLast
      | t :: rest' =>
        if isPrefix cls t then .error .prefixPrefix
        else (decodeTarget cls (some w) t rest'.head?).map fun i => (i, targetLen cls t + 1)
    else (decodeTarget cls none w rest.head?).map fun i => (i, targetLen cls w)

/-- The word in four bytes, least significant first (R6). -/
def wordOfBytes (a b c d : Byte) : Word := d ++ (c ++ (b ++ a))

/-- The words of a byte string; bytes after the last whole word are no word. -/
def wordsOfBytes : List Byte → List Word
  | a :: b :: c :: d :: rest => wordOfBytes a b c d :: wordsOfBytes rest
  | _ => []

/-- The decoder on bytes as they lie in memory. -/
noncomputable def decodeBytes (cls : Cls) (bs : List Byte) : Except DecodeError (Instr × Nat) := decodeWords cls (wordsOfBytes bs)

/-! ## The encoder -/

/-- The class whose clauses an instruction stands in; an event stands in none. -/
def Instr.cls : Instr → Option Cls
  | .movw _ | .liw _ | .addw _ | .addwi _ | .subw _ | .mulw _ | .mulhwI _ | .mulhwN _ | .shlw _
  | .shrw _ | .sarw _ | .shlwi _ | .shrwi _ | .sarwi _ | .andw _ | .orw _ | .xorw _ | .notw _
  | .minwI _ | .maxwI _ | .minwN _ | .maxwN _ | .cmpwI _ | .cmpwN _ | .selw _ | .add64w _ | .sub64w _
  | .faddw _ | .fsubw _ | .fmulw _ | .ffmaw _ | .fdivw _ | .fcmpw _ | .cvtw _ | .v2w _ | .bcntw _
  | .clzw _ => some .s
  | .mov _ | .li _ | .w2v _ | .iadd _ | .iaddi _ | .isub _ | .imul _ | .imulhI _ | .imulhN _
  | .imad _ | .iabs _ | .ineg _ | .iminI _ | .imaxI _ | .iminN _ | .imaxN _ | .shl _ | .shr _
  | .sar _ | .shli _ | .shri _ | .sari _ | .vand _ | .vor _ | .vxor _ | .vnot _ | .popc _
  | .clz _ | .brev _ | .bfe _ | .bfi _ | .isetpEq _ | .isetpNe _ | .isetpLt _ | .isetpLe _ | .isetpGt _
  | .isetpGe _ | .isetpLtN _ | .isetpLeN _ | .isetpGtN _ | .isetpGeN _ | .sel _ | .iadd64 _ | .isub64 _ | .imulwI _
  | .imulwN _ | .pmov _ | .vmovp _ | .sreg _ => some .v
  | .fadd _ | .fsub _ | .fmul _ | .ffma _ | .fmin _ | .fmax _ | .fabs _ | .fneg _ | .fsetpEq _
  | .fsetpNe _ | .fsetpLt _ | .fsetpLe _ | .fsetpGt _ | .fsetpGe _ | .fsetpNan _ | .fclass _ | .hadd2 _ | .hmul2 _
  | .hfma2 _ | .badd2 _ | .bmul2 _ | .bfma2 _ | .rcp _ | .rsq _ | .sqrt _ | .ex2 _ | .lg2 _
  | .sin _ | .cos _ | .tanh _ | .fdiv _ | .cvt _ | .cvts _ | .cvtxB0 _ | .cvtxB1 _ | .cvtxB2 _
  | .cvtxB3 _ | .qadd _ | .qsub _ | .qmul _ | .qdiv _ | .qcvt _ | .qfrom _ | .qnum _ | .qden _
  | .qmed _ | .qrnd _ | .qsetpEq _ | .qsetpNe _ | .qsetpLt _ | .qsetpLe _ | .qsetpGt _ | .qsetpGe _ | .qrec _
  | .qclass _ => some .f
  | .ldN8 _ | .ldI8 _ | .ldN16 _ | .ldI16 _ | .ld32 _ | .ld64 _ | .ld128 _ | .st8 _ | .st16 _
  | .st32 _ | .st64 _ | .st128 _ | .ldt32 _ | .ldt64 _ | .ldt128 _ | .stt32 _ | .stt64 _ | .stt128 _
  | .lda _ | .sta _ | .ldc _ | .atomAddN32 _ | .atomAddN64 _ | .atomMinI32 _ | .atomMaxI32 _ | .atomMinN32 _ | .atomMaxN32 _
  | .atomAnd _ | .atomOr _ | .atomXor _ | .atomExch _ | .atomCas _ | .atomFaddF32 _ | .atomExch64 _ | .redAddN32 _ | .redAddN64 _
  | .redMinI32 _ | .redMaxI32 _ | .redMinN32 _ | .redMaxN32 _ | .redAnd _ | .redOr _ | .redXor _ | .redFaddF32 _ | .atomtAddN32 _
  | .atomtMinI32 _ | .atomtMaxI32 _ | .atomtExch _ | .atomtCas _ | .fence _ | .cinv _ | .pref _ => some .l
  | .nop _ | .xch _ | .qbc _ | .qsum _ | .qmin _ | .qmax _ | .qdiff _ | .voteAny _ | .voteAll _
  | .ballot _ | .matchLanes _ | .redtAdd _ | .redtMin _ | .redtMax _ | .scantAdd _ | .part _ | .plop _ | .bra _
  | .brx _ | .call _ | .ret _ | .exit _ | .yield _ | .active _ => some .x
  | .mma _ | .mbound _ | .mzero _ | .mzeroX4 _ | .mlatK _ | .mlatV _ | .mstat _ => some .m
  | .cpy _ | .cpym _ | .enc _ | .dect _ | .sread _ | .swrite _ | .swriteFua _ | .append _ | .drain _
  | .quiesce _ | .tfset _ | .tfsetOvcur _ | .tfget _ => some .c
  | .phregSo _ | .phregWo _ | .phregSw _ | .phdrop _ | .phsig _ | .phwait _ | .phsw _ | .phget _ | .racqP _
  | .racqC _ | .rrelP _ | .rrelC _ | .launch _ | .succhint _ | .predwait _ | .time _ | .twait _ | .csrr _
  | .csrw _ | .plvl _ | .trap _ | .rte _ | .bkpt _ | .evwait _ | .evpop _ => some .y
  | .selectRun .. | .clauseFetch .. | .registerCacheFill .. | .bbcPark .. | .setaFlagClear .. | .longLatencyResult .. | .loadResponse ..
  | .storePerformed .. | .atomicPerformed .. | .deferredDenial .. | .fenceComplete .. | .pageWalk .. | .l1Fill .. | .homeL2Write ..
  | .remoteRead .. | .rdcFill .. | .rdcInvalidation .. | .l2Eviction .. | .graftFence .. | .engineCommandStart .. | .engineCommandComplete ..
  | .conversionLimitCrossing .. | .engineFault .. | .eventAppend .. | .multicastDelivery .. | .cpymGangSignal .. | .mmaStart .. | .projectionReload ..
  | .mmaComplete .. | .matrixFault .. | .mlatLoadComplete .. | .storageCompletion .. | .appendGroup .. | .terminationDetectorSignal .. | .slewAdmission ..
  | .twaitDeadline .. | .gridStartTime .. | .blockPlacement .. | .blockMigration .. | .quantumSliceEnd .. | .quantumRotation .. | .warpEnd ..
  | .blockEnd .. | .gridCompletion .. | .jobEnd .. | .hangWatchdogExpiry .. | .saveLimitExpiry .. | .stopWalk .. | .save ..
  | .restore .. | .uncorrectableError .. | .correctableError .. | .jobent .. | .stopctlStop .. | .stopctlResume .. | .captureClear ..
  | .xinvctlGo .. | .invalidationComplete .. | .registerWrite .. | .bar2Access .. | .driveDma .. | .scaleUpRequest .. | .linkDown ..
  | .driveRemoval .. | .flitReplay .. | .graftLoss .. | .uevtClear .. | .moduleReset .. | .pcSampleTick .. | .perfLevelChange ..
  | .powerLimitExceeded .. | .thermalLevelForce .. | .thermalShutdown .. | .timebaseCorrection .. | .bringUp .. | .conductorRun .. | .resizableBarWrite ..
  | .effectiveLevelRestore .. | .i3cDynamicAddress .. | .mboundResult .. => none

/-- The words of an instruction, prefix first, literal last (R119, R127, R128); an event has none. -/
def encode : Instr → List Word
  | .movw o => [o.word 0x01]
  | .liw o => [o.word 0x02, o.lit]
  | .addw o => [o.word 0x03]
  | .addwi o => [o.word 0x04]
  | .subw o => [o.word 0x05]
  | .mulw o => [o.word 0x06]
  | .mulhwI o => [o.word 0x07]
  | .mulhwN o => [o.word 0x08]
  | .shlw o => [o.word 0x09]
  | .shrw o => [o.word 0x0a]
  | .sarw o => [o.word 0x0b]
  | .shlwi o => [o.word 0x0c]
  | .shrwi o => [o.word 0x0d]
  | .sarwi o => [o.word 0x0e]
  | .andw o => [o.word 0x0f]
  | .orw o => [o.word 0x10]
  | .xorw o => [o.word 0x11]
  | .notw o => [o.word 0x12]
  | .minwI o => [o.word 0x13]
  | .maxwI o => [o.word 0x14]
  | .minwN o => [o.word 0x15]
  | .maxwN o => [o.word 0x16]
  | .cmpwI o => [o.word 0x17]
  | .cmpwN o => [o.word 0x18]
  | .selw o => [o.word 0x19]
  | .add64w o => [o.word 0x1a]
  | .sub64w o => [o.word 0x1b]
  | .faddw o => [o.word 0x1c]
  | .fsubw o => [o.word 0x1d]
  | .fmulw o => [o.word 0x1e]
  | .ffmaw o => [o.word 0x1f]
  | .fdivw o => [o.word 0x20]
  | .fcmpw o => [o.word 0x21]
  | .cvtw o => [o.word 0x22]
  | .v2w o => [o.word 0x23]
  | .bcntw o => [o.word 0x24]
  | .clzw o => [o.word 0x25]
  | .mov o => vpfxWords o.x ++ [o.word 0x01]
  | .li o => vpfxWords o.x ++ [o.word 0x02, o.lit]
  | .w2v o => vpfxWords o.x ++ [o.word 0x03]
  | .iadd o => vpfxWords o.x ++ [o.word 0x04]
  | .iaddi o => vpfxWords o.x ++ [o.word 0x05]
  | .isub o => vpfxWords o.x ++ [o.word 0x06]
  | .imul o => vpfxWords o.x ++ [o.word 0x07]
  | .imulhI o => vpfxWords o.x ++ [o.word 0x08]
  | .imulhN o => vpfxWords o.x ++ [o.word 0x09]
  | .imad o => vpfxWords o.x ++ [o.word 0x0a]
  | .iabs o => vpfxWords o.x ++ [o.word 0x0b]
  | .ineg o => vpfxWords o.x ++ [o.word 0x0c]
  | .iminI o => vpfxWords o.x ++ [o.word 0x0d]
  | .imaxI o => vpfxWords o.x ++ [o.word 0x0e]
  | .iminN o => vpfxWords o.x ++ [o.word 0x0f]
  | .imaxN o => vpfxWords o.x ++ [o.word 0x10]
  | .shl o => vpfxWords o.x ++ [o.word 0x11]
  | .shr o => vpfxWords o.x ++ [o.word 0x12]
  | .sar o => vpfxWords o.x ++ [o.word 0x13]
  | .shli o => vpfxWords o.x ++ [o.word 0x14]
  | .shri o => vpfxWords o.x ++ [o.word 0x15]
  | .sari o => vpfxWords o.x ++ [o.word 0x16]
  | .vand o => vpfxWords o.x ++ [o.word 0x17]
  | .vor o => vpfxWords o.x ++ [o.word 0x18]
  | .vxor o => vpfxWords o.x ++ [o.word 0x19]
  | .vnot o => vpfxWords o.x ++ [o.word 0x1a]
  | .popc o => vpfxWords o.x ++ [o.word 0x1b]
  | .clz o => vpfxWords o.x ++ [o.word 0x1c]
  | .brev o => vpfxWords o.x ++ [o.word 0x1d]
  | .bfe o => vpfxWords o.x ++ [o.word 0x1e]
  | .bfi o => vpfxWords o.x ++ [o.word 0x1f]
  | .isetpEq o => vpfxWords o.x ++ [o.word 0x20]
  | .isetpNe o => vpfxWords o.x ++ [o.word 0x21]
  | .isetpLt o => vpfxWords o.x ++ [o.word 0x22]
  | .isetpLe o => vpfxWords o.x ++ [o.word 0x23]
  | .isetpGt o => vpfxWords o.x ++ [o.word 0x24]
  | .isetpGe o => vpfxWords o.x ++ [o.word 0x25]
  | .isetpLtN o => vpfxWords o.x ++ [o.word 0x26]
  | .isetpLeN o => vpfxWords o.x ++ [o.word 0x27]
  | .isetpGtN o => vpfxWords o.x ++ [o.word 0x28]
  | .isetpGeN o => vpfxWords o.x ++ [o.word 0x29]
  | .sel o => vpfxWords o.x ++ [o.word 0x2a]
  | .iadd64 o => vpfxWords o.x ++ [o.word 0x2b]
  | .isub64 o => vpfxWords o.x ++ [o.word 0x2c]
  | .imulwI o => vpfxWords o.x ++ [o.word 0x2d]
  | .imulwN o => vpfxWords o.x ++ [o.word 0x2e]
  | .pmov o => vpfxWords o.x ++ [o.word 0x2f]
  | .vmovp o => vpfxWords o.x ++ [o.word 0x30]
  | .sreg o => vpfxWords o.x ++ [o.word 0x31]
  | .fadd o => vpfxWords o.x ++ [o.word 0x01]
  | .fsub o => vpfxWords o.x ++ [o.word 0x02]
  | .fmul o => vpfxWords o.x ++ [o.word 0x03]
  | .ffma o => vpfxWords o.x ++ [o.word 0x04]
  | .fmin o => vpfxWords o.x ++ [o.word 0x05]
  | .fmax o => vpfxWords o.x ++ [o.word 0x06]
  | .fabs o => vpfxWords o.x ++ [o.word 0x07]
  | .fneg o => vpfxWords o.x ++ [o.word 0x08]
  | .fsetpEq o => vpfxWords o.x ++ [o.word 0x09]
  | .fsetpNe o => vpfxWords o.x ++ [o.word 0x0a]
  | .fsetpLt o => vpfxWords o.x ++ [o.word 0x0b]
  | .fsetpLe o => vpfxWords o.x ++ [o.word 0x0c]
  | .fsetpGt o => vpfxWords o.x ++ [o.word 0x0d]
  | .fsetpGe o => vpfxWords o.x ++ [o.word 0x0e]
  | .fsetpNan o => vpfxWords o.x ++ [o.word 0x0f]
  | .fclass o => vpfxWords o.x ++ [o.word 0x10]
  | .hadd2 o => vpfxWords o.x ++ [o.word 0x11]
  | .hmul2 o => vpfxWords o.x ++ [o.word 0x12]
  | .hfma2 o => vpfxWords o.x ++ [o.word 0x13]
  | .badd2 o => vpfxWords o.x ++ [o.word 0x14]
  | .bmul2 o => vpfxWords o.x ++ [o.word 0x15]
  | .bfma2 o => vpfxWords o.x ++ [o.word 0x16]
  | .rcp o => vpfxWords o.x ++ [o.word 0x17]
  | .rsq o => vpfxWords o.x ++ [o.word 0x18]
  | .sqrt o => vpfxWords o.x ++ [o.word 0x19]
  | .ex2 o => vpfxWords o.x ++ [o.word 0x1a]
  | .lg2 o => vpfxWords o.x ++ [o.word 0x1b]
  | .sin o => vpfxWords o.x ++ [o.word 0x1c]
  | .cos o => vpfxWords o.x ++ [o.word 0x1d]
  | .tanh o => vpfxWords o.x ++ [o.word 0x1e]
  | .fdiv o => vpfxWords o.x ++ [o.word 0x1f]
  | .cvt o => vpfxWords o.x ++ [o.word 0x20]
  | .cvts o => vpfxWords o.x ++ [o.word 0x21]
  | .cvtxB0 o => vpfxWords o.x ++ [o.word 0x22]
  | .cvtxB1 o => vpfxWords o.x ++ [o.word 0x23]
  | .cvtxB2 o => vpfxWords o.x ++ [o.word 0x24]
  | .cvtxB3 o => vpfxWords o.x ++ [o.word 0x25]
  | .qadd o => vpfxWords o.x ++ [o.word 0x26]
  | .qsub o => vpfxWords o.x ++ [o.word 0x27]
  | .qmul o => vpfxWords o.x ++ [o.word 0x28]
  | .qdiv o => vpfxWords o.x ++ [o.word 0x29]
  | .qcvt o => vpfxWords o.x ++ [o.word 0x2a]
  | .qfrom o => vpfxWords o.x ++ [o.word 0x2b]
  | .qnum o => vpfxWords o.x ++ [o.word 0x2c]
  | .qden o => vpfxWords o.x ++ [o.word 0x2d]
  | .qmed o => vpfxWords o.x ++ [o.word 0x2e]
  | .qrnd o => vpfxWords o.x ++ [o.word 0x2f]
  | .qsetpEq o => vpfxWords o.x ++ [o.word 0x30]
  | .qsetpNe o => vpfxWords o.x ++ [o.word 0x31]
  | .qsetpLt o => vpfxWords o.x ++ [o.word 0x32]
  | .qsetpLe o => vpfxWords o.x ++ [o.word 0x33]
  | .qsetpGt o => vpfxWords o.x ++ [o.word 0x34]
  | .qsetpGe o => vpfxWords o.x ++ [o.word 0x35]
  | .qrec o => vpfxWords o.x ++ [o.word 0x36]
  | .qclass o => vpfxWords o.x ++ [o.word 0x37]
  | .ldN8 o => lpfxWords o.x ++ [o.word 0x01]
  | .ldI8 o => lpfxWords o.x ++ [o.word 0x02]
  | .ldN16 o => lpfxWords o.x ++ [o.word 0x03]
  | .ldI16 o => lpfxWords o.x ++ [o.word 0x04]
  | .ld32 o => lpfxWords o.x ++ [o.word 0x05]
  | .ld64 o => lpfxWords o.x ++ [o.word 0x06]
  | .ld128 o => lpfxWords o.x ++ [o.word 0x07]
  | .st8 o => lpfxWords o.x ++ [o.word 0x08]
  | .st16 o => lpfxWords o.x ++ [o.word 0x09]
  | .st32 o => lpfxWords o.x ++ [o.word 0x0a]
  | .st64 o => lpfxWords o.x ++ [o.word 0x0b]
  | .st128 o => lpfxWords o.x ++ [o.word 0x0c]
  | .ldt32 o => lpfxWords o.x ++ [o.word 0x0d]
  | .ldt64 o => lpfxWords o.x ++ [o.word 0x0e]
  | .ldt128 o => lpfxWords o.x ++ [o.word 0x0f]
  | .stt32 o => lpfxWords o.x ++ [o.word 0x10]
  | .stt64 o => lpfxWords o.x ++ [o.word 0x11]
  | .stt128 o => lpfxWords o.x ++ [o.word 0x12]
  | .lda o => lpfxWords o.x ++ [o.word 0x13]
  | .sta o => lpfxWords o.x ++ [o.word 0x14]
  | .ldc o => lpfxWords o.x ++ [o.word 0x15]
  | .atomAddN32 o => lpfxWords o.x ++ [o.word 0x16]
  | .atomAddN64 o => lpfxWords o.x ++ [o.word 0x17]
  | .atomMinI32 o => lpfxWords o.x ++ [o.word 0x18]
  | .atomMaxI32 o => lpfxWords o.x ++ [o.word 0x19]
  | .atomMinN32 o => lpfxWords o.x ++ [o.word 0x1a]
  | .atomMaxN32 o => lpfxWords o.x ++ [o.word 0x1b]
  | .atomAnd o => lpfxWords o.x ++ [o.word 0x1c]
  | .atomOr o => lpfxWords o.x ++ [o.word 0x1d]
  | .atomXor o => lpfxWords o.x ++ [o.word 0x1e]
  | .atomExch o => lpfxWords o.x ++ [o.word 0x1f]
  | .atomCas o => lpfxWords o.x ++ [o.word 0x20]
  | .atomFaddF32 o => lpfxWords o.x ++ [o.word 0x21]
  | .atomExch64 o => lpfxWords o.x ++ [o.word 0x22]
  | .redAddN32 o => lpfxWords o.x ++ [o.word 0x23]
  | .redAddN64 o => lpfxWords o.x ++ [o.word 0x24]
  | .redMinI32 o => lpfxWords o.x ++ [o.word 0x25]
  | .redMaxI32 o => lpfxWords o.x ++ [o.word 0x26]
  | .redMinN32 o => lpfxWords o.x ++ [o.word 0x27]
  | .redMaxN32 o => lpfxWords o.x ++ [o.word 0x28]
  | .redAnd o => lpfxWords o.x ++ [o.word 0x29]
  | .redOr o => lpfxWords o.x ++ [o.word 0x2a]
  | .redXor o => lpfxWords o.x ++ [o.word 0x2b]
  | .redFaddF32 o => lpfxWords o.x ++ [o.word 0x2c]
  | .atomtAddN32 o => lpfxWords o.x ++ [o.word 0x30]
  | .atomtMinI32 o => lpfxWords o.x ++ [o.word 0x31]
  | .atomtMaxI32 o => lpfxWords o.x ++ [o.word 0x32]
  | .atomtExch o => lpfxWords o.x ++ [o.word 0x33]
  | .atomtCas o => lpfxWords o.x ++ [o.word 0x34]
  | .fence o => lpfxWords o.x ++ [o.word 0x35]
  | .cinv o => lpfxWords o.x ++ [o.word 0x36]
  | .pref o => lpfxWords o.x ++ [o.word 0x37]
  | .nop o => [o.word 0x01]
  | .xch o => [o.word 0x02]
  | .qbc o => [o.word 0x03]
  | .qsum o => [o.word 0x04]
  | .qmin o => [o.word 0x05]
  | .qmax o => [o.word 0x06]
  | .qdiff o => [o.word 0x07]
  | .voteAny o => [o.word 0x08]
  | .voteAll o => [o.word 0x09]
  | .ballot o => [o.word 0x0a]
  | .matchLanes o => [o.word 0x0b]
  | .redtAdd o => [o.word 0x0c]
  | .redtMin o => [o.word 0x0d]
  | .redtMax o => [o.word 0x0e]
  | .scantAdd o => [o.word 0x0f]
  | .part o => [o.word 0x10]
  | .plop o => [o.word 0x11]
  | .bra o => [o.word 0x12]
  | .brx o => [o.word 0x13]
  | .call o => [o.word 0x14]
  | .ret o => [o.word 0x15]
  | .exit o => [o.word 0x16]
  | .yield o => [o.word 0x17]
  | .active o => [o.word 0x18]
  | .mma o => [o.word 0x01, o.litWord]
  | .mbound o => [o.word 0x02, o.litWord]
  | .mzero o => [o.word 0x03 0]
  | .mzeroX4 o => [o.word 0x03 1]
  | .mlatK o => [o.word 0x04 0]
  | .mlatV o => [o.word 0x04 1]
  | .mstat o => [o.word 0x05]
  | .cpy o => [o.word 0x01, o.litWord]
  | .cpym o => [o.word 0x02, o.litWord]
  | .enc o => [o.word 0x03, o.litWord]
  | .dect o => [o.word 0x04, o.litWord]
  | .sread o => [o.word 0x06 0]
  | .swrite o => [o.word 0x07 0]
  | .swriteFua o => [o.word 0x07 1]
  | .append o => [o.word 0x08]
  | .drain o => [o.word 0x09]
  | .quiesce o => [o.word 0x0a 0]
  | .tfset o => [o.word 0x0b 0]
  | .tfsetOvcur o => [o.word 0x0b 1]
  | .tfget o => [o.word 0x0c 0]
  | .phregSo o => [o.word 0x01 0]
  | .phregWo o => [o.word 0x01 1]
  | .phregSw o => [o.word 0x01 2]
  | .phdrop o => [o.word 0x02 0]
  | .phsig o => [o.word 0x03 0]
  | .phwait o => [o.word 0x04 0]
  | .phsw o => [o.word 0x05 0]
  | .phget o => [o.word 0x06]
  | .racqP o => [o.word 0x07 0]
  | .racqC o => [o.word 0x07 1]
  | .rrelP o => [o.word 0x08 0]
  | .rrelC o => [o.word 0x08 1]
  | .launch o => [o.word 0x09]
  | .succhint o => [o.word 0x0a]
  | .predwait o => [o.word 0x0b]
  | .time o => [o.word 0x0c]
  | .twait o => [o.word 0x0d]
  | .csrr o => [o.word 0x0e]
  | .csrw o => [o.word 0x0f]
  | .plvl o => [o.wordR 0x10]
  | .trap o => [o.word 0x11]
  | .rte o => [o.word 0x12]
  | .bkpt o => [o.word 0x13]
  | .evwait o => [o.wordY 0x14]
  | .evpop o => [o.wordY 0x15]
  | .selectRun .. | .clauseFetch .. | .registerCacheFill .. | .bbcPark .. | .setaFlagClear .. | .longLatencyResult .. | .loadResponse ..
  | .storePerformed .. | .atomicPerformed .. | .deferredDenial .. | .fenceComplete .. | .pageWalk .. | .l1Fill .. | .homeL2Write ..
  | .remoteRead .. | .rdcFill .. | .rdcInvalidation .. | .l2Eviction .. | .graftFence .. | .engineCommandStart .. | .engineCommandComplete ..
  | .conversionLimitCrossing .. | .engineFault .. | .eventAppend .. | .multicastDelivery .. | .cpymGangSignal .. | .mmaStart .. | .projectionReload ..
  | .mmaComplete .. | .matrixFault .. | .mlatLoadComplete .. | .storageCompletion .. | .appendGroup .. | .terminationDetectorSignal .. | .slewAdmission ..
  | .twaitDeadline .. | .gridStartTime .. | .blockPlacement .. | .blockMigration .. | .quantumSliceEnd .. | .quantumRotation .. | .warpEnd ..
  | .blockEnd .. | .gridCompletion .. | .jobEnd .. | .hangWatchdogExpiry .. | .saveLimitExpiry .. | .stopWalk .. | .save ..
  | .restore .. | .uncorrectableError .. | .correctableError .. | .jobent .. | .stopctlStop .. | .stopctlResume .. | .captureClear ..
  | .xinvctlGo .. | .invalidationComplete .. | .registerWrite .. | .bar2Access .. | .driveDma .. | .scaleUpRequest .. | .linkDown ..
  | .driveRemoval .. | .flitReplay .. | .graftLoss .. | .uevtClear .. | .moduleReset .. | .pcSampleTick .. | .perfLevelChange ..
  | .powerLimitExceeded .. | .thermalLevelForce .. | .thermalShutdown .. | .timebaseCorrection .. | .bringUp .. | .conductorRun .. | .resizableBarWrite ..
  | .effectiveLevelRestore .. | .i3cDynamicAddress .. | .mboundResult .. => []

/-- The bytes of a word, least significant first (R6). -/
def bytesOfWord (w : Word) : List Byte :=
  [w.extractLsb' 0 8, w.extractLsb' 8 8, w.extractLsb' 16 8, w.extractLsb' 24 8]

/-! ## The opcode table's words

A row of spec/opcode_table.json does not name its class, which the clause header gives (R108). A word of the table is
read in the first class, in the order of the class codes of Table 5.1, in which it is an instruction. -/

def tableClasses : List Cls := [.s, .v, .f, .l, .x, .m, .c, .y]

/-- The three words of an instruction numbered as the table numbers its bits; bits above `nbits` are zero. -/
def tableWords (nbits w : Nat) : List Word :=
  let v := w % 2 ^ nbits
  [BitVec.ofNat 32 v, BitVec.ofNat 32 (v / 2 ^ 32), BitVec.ofNat 32 (v / 2 ^ 64)]

noncomputable def firstClass (ws : List Word) : List Cls → Option (Cls × Instr × Nat)
  | [] => none
  | cls :: cs =>
    match decodeBytes cls (ws.flatMap bytesOfWord) with
    | .ok (i, n) => some (cls, i, n)
    | .error _ => firstClass ws cs

/-- What the decoder reads from a word of the table, and the class it reads it in. -/
noncomputable def decodeTableClass (nbits w : Nat) : Option (Cls × Instr × Nat) := firstClass (tableWords nbits w) tableClasses

/-- The instruction the decoder reads from an instruction whose bits are `w` (DESIGN CHOICE, log entry 6). -/
noncomputable def decodeTableWord (nbits w : Nat) : Option Instr := (decodeTableClass nbits w).map fun r => r.2.1

end Sys2Proof
end

