-- ==== Sys2Proof/Machine/Sparse.lean ====
section
/-! DEFINITION. Sparse tables with a default value (memory, register files) and tables of records by number. Both are
lists of pairs in one canonical form: keys strictly rising, and for a sparse table no entry equal to the default. -/

namespace Sys2Proof

/-- Put the pair into a list sorted by key. -/
def insertKey {α : Type} (k : Nat) (v : α) : List (Nat × α) → List (Nat × α)
  | [] => [(k, v)]
  | (j, u) :: t => if k < j then (k, v) :: (j, u) :: t else (j, u) :: insertKey k v t

/-- The list without the entries of `k`. -/
def eraseKey {α : Type} (k : Nat) : List (Nat × α) → List (Nat × α)
  | [] => []
  | (j, u) :: t => if j = k then eraseKey k t else (j, u) :: eraseKey k t

/-- The entry of `k`, if there is one. -/
def findKey? {α : Type} (k : Nat) : List (Nat × α) → Option α
  | [] => none
  | (j, u) :: t => if j = k then some u else findKey? k t

/-- Keys strictly rising. -/
def sortedKeys {α : Type} : List (Nat × α) → Bool
  | [] => true
  | [_] => true
  | (j, _) :: (k, v) :: t => decide (j < k) && sortedKeys ((k, v) :: t)

/-- The value at `k`: the default where nothing is listed. -/
def Sparse.get {α : Type} (d : α) (m : Sparse α) (k : Nat) : α := (findKey? k m).getD d

/-- `m` with `v` at `k`: writing the default removes the entry. -/
def Sparse.set {α : Type} [DecidableEq α] (d : α) (m : Sparse α) (k : Nat) (v : α) : Sparse α :=
  if v = d then eraseKey k m else insertKey k v (eraseKey k m)

/-- The canonical form of a sparse table. -/
def Sparse.wf {α : Type} [DecidableEq α] (d : α) (m : Sparse α) : Bool :=
  sortedKeys m && m.all fun e => decide (e.2 ≠ d)

/-- Several values at consecutive keys. -/
def Sparse.setList {α : Type} [DecidableEq α] (d : α) (m : Sparse α) (k : Nat) : List α → Sparse α
  | [] => m
  | v :: vs => Sparse.setList d (Sparse.set d m k v) (k + 1) vs

/-- The values of `n` consecutive keys. -/
def Sparse.getList {α : Type} (d : α) (m : Sparse α) (k n : Nat) : List α :=
  (List.range n).map fun i => Sparse.get d m (k + i)

/-- A table of records by number; a number with no record is absent. -/
abbrev Tbl (α : Type) := List (Nat × α)

def Tbl.get? {α : Type} (t : Tbl α) (k : Nat) : Option α := findKey? k t
def Tbl.put {α : Type} (t : Tbl α) (k : Nat) (v : α) : Tbl α := insertKey k v (eraseKey k t)
def Tbl.erase {α : Type} (t : Tbl α) (k : Nat) : Tbl α := eraseKey k t
/-- Change the record of `k`, if there is one. -/
def Tbl.upd {α : Type} (t : Tbl α) (k : Nat) (f : α → α) : Tbl α :=
  t.map fun e => if e.1 = k then (e.1, f e.2) else e
/-- Change every record, given its number. -/
def Tbl.mapVals {α : Type} (t : Tbl α) (f : Nat → α → α) : Tbl α := t.map fun e => (e.1, f e.1 e.2)
def Tbl.vals {α : Type} (t : Tbl α) : List α := t.map (·.2)
def Tbl.keys {α : Type} (t : Tbl α) : List Nat := t.map (·.1)

end Sys2Proof
end

