-- ==== Sys2Proof/Machine/State.lean ====
section
/-! DEFINITION. The state of the TS880 as the spec gives it, plain data throughout, the reasons a step can stop, and
the state right after reset. Each field's docstring names the rule it comes from; reset values are at the field. -/

namespace Sys2Proof.Machine

/-! ## Operations in flight -/

/-- A register as an operand: vector, predicate, uniform, uniform predicate (Table 0.3), handler register (R382). -/
inductive RegName where
  | v (r : Nat)
  | p (r : Nat)
  | w (r : Nat)
  | k (r : Nat)
  | hw (r : Nat)
  deriving DecidableEq, Repr, Inhabited

/-- A source of a long-latency operation: the register and its value in each lane (one value for a uniform
register), as read at issue; an overwritten source becomes a free value (R113). -/
structure Cap where
  reg : RegName
  vals : List Word
  deriving DecidableEq, Repr, Inhabited

/-- A destination of a long-latency operation: the register and the lanes it writes (R113). -/
structure Dest where
  reg : RegName
  lanes : Lanes
  deriving DecidableEq, Repr, Inhabited

/-- How a line was allocated (Table 3.3). -/
inductive Mark where
  | normal
  | stream
  | keep
  deriving DecidableEq, Repr, Inhabited

/-- The space an access or a range lies in (Table 12.4). -/
inductive Space where
  | global
  | tile
  | acc
  deriving DecidableEq, Repr, Inhabited

/-- One lane's access: its address in its own space, for global memory its system address (46-bit physical address,
the scale-up peer number above it) and whether its page is L1-bypass (R77). -/
structure Access where
  lane : Nat
  addr : DWord
  key : Nat
  bypass : Bool
  /-- Its target has answered that it permits it, before the access is performed (R149, R380). -/
  granted : Bool
  /-- The access has been performed (R316) or, for a load, has its value. -/
  done : Bool
  /-- What it allocates below L1 is first to evict (R59). -/
  first : Bool
  /-- The bytes a load or an atomic returned, and of a 16-byte load over a link the half that came first (R155). -/
  data : List Byte
  part : Option (Bool × List Byte)
  /-- The target denied it (R87). -/
  denied : Bool
  deriving DecidableEq, Repr, Inhabited

/-- An outstanding long-latency operation of a warp that is no engine command (R113). -/
structure Op where
  ins : Instr
  /-- Lanes that execute it, and the helpers among them (R120, R242). -/
  lanes : Lanes
  helpers : Lanes
  /-- Threads of the run that issued it, and its index in the clause: what a trap at its response reports (R149). -/
  threads : Lanes
  word : Nat
  caps : List Cap
  dests : List Dest
  /-- MODE at issue (R29). -/
  mode : Word
  /-- Header address of its clause. -/
  clause : Pc
  /-- The RPC of the lowest-numbered thread of the run (R378). -/
  rpc : Pc
  setA : Option Nat
  setB : Option Nat
  /-- Its sources have not all been read yet (R111). -/
  srcPending : Bool
  /-- Registers its addresses are formed from, and the lanes in which a source was overwritten before its SETA flag cleared:
  one of the address before it was used, or any after it was (R113). -/
  addrRegs : List RegName
  stray : Lanes
  /-- Its SETB flag has cleared with an error status, and waits for it no longer (R110). -/
  loose : Bool
  space : Space
  size : Nat
  accesses : List Access
  isLoad : Bool
  isStore : Bool
  isAtomic : Bool
  acquire : Bool
  release : Bool
  /-- Scope .blk, .gang, .die, .dev or .sys as 0 to 4 (R132). -/
  scope : Nat
  bypass : Bool
  /-- Cache policy of its prefix (R59). -/
  mark : Mark
  /-- It has left the store queue by reaching the core's order point (R317). -/
  atOrder : Bool
  /-- The number an atomic took as it did, against the numbers of the core's outbound writes; 0 until then. -/
  ord : Nat
  /-- The Graft switch has reported the fence of its release complete (R314). -/
  fenceDone : Bool
  /-- Of a release: the number, among those of the core's outbound writes and atomics, at which everything it comes after
  had reached the order point and its fence was sent; what the core sends later does not hold it back (R314). -/
  cut : Option Nat
  deriving DecidableEq, Repr, Inhabited

/-- A destination that reads as unspecified (R113): while its operation is outstanding, and after it has been written until
the clause that issued it has ended and that clause's SETB flag has cleared. Of a clause with no SETB flag, for which R113
names no such moment, it is until the clause has ended and its SETA flag, if any, has cleared (DESIGN CHOICE, log entry 20).
-/
structure Due where
  op : Nat
  dest : Dest
  setB : Option Nat
  written : Bool
  clause : Bool
  deriving DecidableEq, Repr, Inhabited

/-- The error status of a completion flag (R110): trap code, engine cause, for cause 0x05 the reason of Table 3.9 (R80),
faulting address (causes 0x04 to 0x06). -/
structure FlagErr where
  code : BitVec 8
  cause : BitVec 8
  reason : BitVec 8
  addr : DWord
  deriving DecidableEq, Repr, Inhabited

/-- What a warp in a blocking Y instruction waits for (R121, Table 14.6 WARG); of EVWAIT, also its word's index
in its clause. -/
inductive Wait where
  | phaser (n : Nat)
  | ring (r stage : Nat) (lap consumer : Bool)
  | pred
  | time (t : DWord)
  | event (d word : Nat)
  deriving DecidableEq, Repr, Inhabited

/-- Warp states that are not decided by the rest of the state (Table 13.6): resident covers Ready, Issuing, Not ready
and Blocked. -/
inductive Life where
  | resident
  | stopped
  | saved
  | ended
  deriving DecidableEq, Repr, Inhabited

/-- A pending run-boundary trap (R376): its cause and the TRAPADDR it will report. -/
structure Pend where
  cause : BitVec 8
  addr : DWord
  deriving DecidableEq, Repr, Inhabited

/-- A clause as it was fetched (R107): address and words, header first. -/
structure Fetched where
  addr : Pc
  words : List Word
  deriving DecidableEq, Repr, Inhabited

/-- The current projection of a warp (R273): projection entry, latent entry, side (true: V), and which load of a half of
the stage it is (0: none that is still there). -/
structure Proj where
  entry : Nat
  latent : Nat
  vside : Bool
  load : Nat
  deriving DecidableEq, Repr, Inhabited

/-! ## Warps -/

/-- One warp, or the conductor thread of a context (R354). -/
structure Warp where
  cid : Nat
  /-- Grid number; 0 for a conductor. -/
  grid : Nat
  /-- The block it belongs to (number of `State.blocks`). -/
  blk : Nat
  /-- %warp and %role (Table 5.13). -/
  index : Nat
  role : Role
  /-- REGS (R333). -/
  regs : Nat
  /-- Physical core, or 128 + die for a control core; warp slot (R343). -/
  core : Nat
  slot : Nat
  /-- Warp-image slot: die and number (R72). -/
  image : Nat × Nat
  life : Life
  /-- It is to stop at its next run boundary (R392). -/
  stopping : Bool
  /-- v0 to v63: lane l of vN at 32 N + l (R71); reset 0 (R339). -/
  v : Sparse Word
  /-- Vector registers newer than their image (R73). -/
  dirty : BitVec 64
  /-- p0 to p15 of lane l as bits 0 to 15 of entry l; reset 0 (R339). -/
  p : Sparse (BitVec 16)
  /-- w0 to w63; reset Table 13.5. -/
  w : Sparse Word
  /-- k0 to k6 as bits 0 to 6; k7 reads true (R134); reset 0. -/
  k : BitVec 8
  /-- HW0 to HW7 (R382); reset 0. -/
  hw : Sparse Word
  /-- PC and RPC of each lane (R235): values listed where they differ from `entry`. -/
  entry : Pc
  pc : Sparse Pc
  rpc : Sparse Pc
  /-- Parked lanes (R238). -/
  pk : Lanes
  live : Lanes
  helper : Lanes
  /-- BBC (R239) and the threads of the warp's previous run. -/
  bbc : BitVec 8
  lastRun : Lanes
  /-- Flags f0 to f11 (R110): busy, error status, recorded RPC (R378). -/
  busy : BitVec 12
  ferr : Tbl FlagErr
  frpc : Sparse Pc
  /-- CSRs (Table 5.12). -/
  mode : Word
  part : Word
  trapen : Word
  trapinfo0 : Word
  trapinfo1 : Word
  trapaddr : DWord
  perfLvl : BitVec 4
  rlockst : Word
  samplecfg : Word
  /-- Handler mode (R381): in it, the handler PCs, the trapped set, and entry still waiting (R380). -/
  inHandler : Bool
  hpc : Sparse Pc
  trapped : Lanes
  draining : Bool
  pend06 : Option Pend
  pend0A : Option Pend
  pend0F : Option Pend
  /-- A counting addition crossed limits (mask) at the clause given, event still to come (R42). -/
  crossing : Option Pend
  blocked : Option Wait
  /-- The wait a hang trap interrupted, to return to at RTE (R390). -/
  heldWait : Option Wait
  /-- The instruction words of those two waits (Table 14.6 PEND). -/
  pendWord : Word
  heldWord : Word
  /-- Side of the last RACQ on each ring, bit set for consumer (R352). -/
  side : BitVec 8
  /-- EP of gph0 to gph3 (R346). -/
  gep : Sparse (BitVec 16)
  proj : Option Proj
  /-- Registered drainer and busy (R205). -/
  drainer : Bool
  drainBusy : Bool
  appendOrd : Nat
  /-- What withdrawn APPENDs have already appended (R393): instruction (16 × clause address + index) and lane. -/
  appended : List (Nat × Nat)
  /-- Operations in flight, oldest first (R111). -/
  ops : List (Nat × Op)
  /-- Operations that have completed before the SETA flag of their clause cleared, which still owns their sources (R113). -/
  spent : List (Nat × Op)
  /-- Destinations that read as unspecified (R113), and registers that hold an unspecified value (R2, R113), each read of
  which may give another. -/
  dues : List Due
  unspec : List (RegName × Nat)
  fetched : Option Fetched
  /-- Error status it carries to its grid (R384); 0 for none. -/
  err : BitVec 8
  deriving DecidableEq, Repr, Inhabited

/-! ## Runs -/

/-- A run that is executing on an issue slot (R115). -/
structure Run where
  wid : Nat
  core : Nat
  slot : Nat
  /-- Its threads now, and the helpers whose shadow is among them (R236, R242). -/
  threads : Lanes
  shadows : Lanes
  /-- The threads it began with: some may have ended or parked in it (R115). -/
  all : Lanes
  /-- Address and class of the clause in progress, its words after the header, the next one's index (1 for the first). -/
  hdr : Pc
  cls : Cls
  words : List Word
  idx : Nat
  setA : Option Nat
  setB : Option Nat
  /-- The SETB flag has already cleared with an error status (R110). -/
  loose : Bool
  /-- B of the header (R108). -/
  boundary : Bool
  /-- Instruction words the run has issued (R115). -/
  total : Nat
  /-- Targets of the lanes whose transfer took effect in this clause (R237), and those it parked or ended. -/
  targets : Tbl Pc
  parked : Lanes
  /-- A trap to take after the clause (R387): code and cause. -/
  after : Option (BitVec 8 × BitVec 8)
  /-- An operation of the clause is long-latency and was not guarded off. -/
  long : Bool
  /-- The run has ended: a trap, a blocking instruction, RTE (R115). -/
  stop : Bool
  /-- No clause is in progress. -/
  atClause : Bool
  /-- The word just tried has to wait where it stands (a release not yet complete, an arrival count of 255), and the
  number at which its release was sent (R314). -/
  hold : Bool
  cut : Option Nat
  /-- Threads that branched backward as BBC reached 256, still to be parked (R239). -/
  bbcDue : Lanes
  deriving DecidableEq, Repr, Inhabited

/-! ## Synchronisation objects -/

/-- Registration modes (R344). -/
inductive PhMode where
  | so
  | wo
  | sw
  deriving DecidableEq, Repr, Inhabited

/-- A requested registration change (Table 14.8). -/
inductive PhChange where
  | register (m : PhMode)
  | drop
  | change (m : PhMode)
  deriving DecidableEq, Repr, Inhabited

/-- A warp's registration on a phaser (R344); `mode` is none while only requested. -/
structure PhReg where
  wid : Nat
  mode : Option PhMode
  pending : Option PhChange
  a : Nat
  ep : BitVec 16
  deriving DecidableEq, Repr, Inhabited

structure Phaser where
  phase : BitVec 16
  regs : List PhReg
  deriving DecidableEq, Repr, Inhabited

/-- A ring cursor (R352). -/
structure Cursor where
  idx : Nat
  lap : Bool
  deriving DecidableEq, Repr, Inhabited

/-- A stage ring (R352): full and empty counts of its stages, and the four cursors. -/
structure Ring where
  stages : Nat
  full : Sparse (BitVec 16)
  empty : Sparse (BitVec 16)
  pa : Cursor
  pr : Cursor
  ca : Cursor
  cr : Cursor
  deriving DecidableEq, Repr, Inhabited

/-- An accumulator bank (R70): `dflt` is what an unlisted element holds, none for an unspecified value; the counts
recorded for MSTAT (R288), none where they are unspecified. -/
structure Bank where
  dflt : Option Word
  cells : Sparse (Option Word)
  modelled : Option Nat
  measured : Option Nat
  deriving DecidableEq, Repr, Inhabited

/-! ## Blocks, gangs, grids -/

/-- A kernel header as LAUNCH read it (Table 13.1). -/
structure Kernel where
  va : DWord
  entry : Pc
  ncopy : Nat
  nmat : Nat
  nvec : Nat
  regs : Nat
  tile : Nat
  acc : Nat
  phn : Nat
  gangb : Nat
  span : Nat
  policy : Nat
  cores : Bool
  migr : Bool
  detk : Bool
  rings : List Nat
  split : List Nat
  deriving DecidableEq, Repr, Inhabited

/-- A grid record as LAUNCH read it (Table 13.2). -/
structure GridRec where
  nx : Nat
  ny : Nat
  nz : Nat
  lanes : Nat
  pol : Nat
  cores : Bool
  lcap : Bool
  early : Bool
  eqrec : Bool
  gphn : Nat
  param : DWord
  psize : Nat
  pred : Nat
  start : Nat
  gtgt : List Nat
  deriving DecidableEq, Repr, Inhabited

/-- Grid states (Table 13.7). -/
inductive GridState where
  | queued
  | held
  | placing
  | running
  | complete
  | failed
  | cancelled
  deriving DecidableEq, Repr, Inhabited

/-- A grid phaser (R346). -/
structure GridPhaser where
  phase : BitVec 16
  arrivals : Nat
  deriving DecidableEq, Repr, Inhabited

/-- A grid of a context. -/
structure Grid where
  kernel : Kernel
  gr : GridRec
  st : GridState
  /-- First error status of its warps (R340), as the completion record will carry it. -/
  status : BitVec 8
  /-- Gangs still to be placed, in the order they wait (R362, R364). -/
  waiting : List Nat
  /-- Blocks that have ended. -/
  endedBlocks : Nat
  /-- Linear indices of blocks with the hinted mark or ended (R360). -/
  hinted : List Nat
  gph : List GridPhaser
  /-- Global time at which the hang timer last restarted (R390). -/
  hangSince : Nat
  /-- System addresses of its parameter block, from when it started running, and those of its bytes that have been
  stored to since (R160). -/
  paramSegs : List (Nat × Nat)
  paramWritten : Sparse Bool
  /-- When a block of it was last rotated out (R364). -/
  rotatedAt : Nat
  /-- Of each block that has ended, its core and the number up to which that core's writes happen before the grid's
  completion (R317, R323, R340). -/
  sent : List (Nat × Nat)
  deriving DecidableEq, Repr, Inhabited

/-- A block (R12). -/
structure Block where
  cid : Nat
  grid : Nat
  lin : Nat
  gang : Nat
  rank : Nat
  /-- Logical core, fixed (R14); physical core. -/
  lcore : Nat
  core : Nat
  residency : Nat
  life : Life
  /-- Its warps' numbers in `State.warps`. -/
  warps : List Nat
  /-- Tile bytes that hold a specified value (R67). -/
  tile : Sparse (Option Byte)
  acc : List Bank
  phasers : List Phaser
  rings : List Ring
  /-- Inbound-write counter (R193). -/
  inbound : Nat
  /-- Block image: die and number (R395). -/
  saveImage : Option (Nat × Nat)
  /-- When it became resident, and when it last issued a store, atomic, RED or engine command or completed a wait
  (R364). -/
  since : Nat
  lastActive : Nat
  deriving DecidableEq, Repr, Inhabited

/-- A gang's phasers ph48 to ph63, homed on its first core (R344). -/
structure Gang where
  cid : Nat
  grid : Nat
  idx : Nat
  home : Nat
  phasers : List Phaser
  deriving DecidableEq, Repr, Inhabited

/-! ## Contexts -/

/-- A running job (R335, R337): the JCB's address, the fields read at acceptance, the conductor. -/
structure Job where
  jcb : DWord
  hangLim : Nat
  saveLim : Nat
  die : Nat
  conductor : Nat
  /-- The earliest failure, for STATUS (R337). -/
  cause : Option (BitVec 8)
  deriving DecidableEq, Repr, Inhabited

/-- An item of a work list (R202): value, and the key that deterministic mode sorts by (R204). -/
structure Item where
  value : Word
  key : Nat × Nat × Nat × Nat
  deriving DecidableEq, Repr, Inhabited

/-- The termination detector (R206): armed for a warp and a phaser. -/
structure Detector where
  wid : Nat
  blk : Nat
  phaser : Nat
  deriving DecidableEq, Repr, Inhabited

/-- An event record waiting to be written, without its TIME field (R181, R355), and the command or grid it completes. -/
structure EventRec where
  bytes : List Byte
  cmd : Option Nat
  grid : Option Nat
  deriving DecidableEq, Repr, Inhabited

/-- The stop walk (R392): the blocks it covers, the step it has reached, when it began, what it ends in. -/
structure Walk where
  blocks : List Nat
  step : Nat
  since : Nat
  whole : Bool
  migrateTo : Option Nat
  deriving DecidableEq, Repr, Inhabited

structure Context where
  /-- Descriptor words as the running job sampled them (R74, R336). -/
  desc : List DWord
  /-- JOBSTAT (Table 15.3). -/
  seq : Word
  last : BitVec 8
  jcberr : Bool
  stop : Bool
  irqen : Bool
  /-- Software or firmware has broken an obligation without a stated outcome while the job runs (R1). -/
  breached : Bool
  job : Option Job
  nextGrid : Nat
  grids : Tbl Grid
  /-- Work lists, list l of die e at 1024 e + l (R202). -/
  lists : Sparse (List Item)
  detector : Option Detector
  walk : Option Walk
  /-- Event records waiting for room, oldest first (R355). -/
  evq : List EventRec
  /-- Since when the context has held its blocks, and whether its slice has ended in favour of another one (R364). -/
  sliceSince : Nat
  sliced : Bool
  /-- When STOP was set (R391). -/
  stopAt : Nat
  deriving DecidableEq, Repr, Inhabited

/-! ## Engines -/

/-- A range of a range-lock entry (R177): `lo` to `hi` in its space (bytes, or banks). -/
structure LockRange where
  idx : Nat
  space : Space
  dst : Bool
  lo : Nat
  hi : Nat
  deriving DecidableEq, Repr, Inhabited

/-- Owner of a range-lock entry (Table 12.4 ENG). -/
inductive LockOwner where
  | copy
  | matrix
  | storage
  | multicast
  deriving DecidableEq, Repr, Inhabited

/-- A range-lock entry (R177). -/
structure Lock where
  /-- Its number in the table, 0 to 31. -/
  entry : Nat
  /-- Issue order of entries. -/
  seq : Nat
  cmd : Nat
  cid : Nat
  blk : Nat
  owner : LockOwner
  opc : BitVec 8
  slot : Nat
  ranges : List LockRange
  deriving DecidableEq, Repr, Inhabited

/-- Where a command stands: in its queue, making accesses, delivered to ranks (CPYM), at the drive, completed with its
event record still waiting (R179). -/
inductive CmdState where
  | queued
  | started
  | finishing
  deriving DecidableEq, Repr, Inhabited

/-- Which unit executes a command (R175, R279). -/
inductive EngineUnit where
  | copy
  | matrix
  | storage
  | compaction
  /-- MBOUND: no queue, no accesses (R285). -/
  | bound
  deriving DecidableEq, Repr, Inhabited

/-- An engine command from its issue to its end (R175). -/
structure Cmd where
  ins : Instr
  wid : Nat
  cid : Nat
  blk : Nat
  grid : Nat
  core : Nat
  unit : EngineUnit
  st : CmdState
  setA : Option Nat
  setB : Option Nat
  /-- Its SETB flag has cleared with an error status, and waits for it no longer (R110). -/
  loose : Bool
  srcPending : Bool
  clause : Pc
  /-- Its index in its clause. -/
  word : Nat
  /-- The RPC at issue of each thread of its run (R393). -/
  rpcs : List (Nat × Pc)
  /-- Uniform operands as read at issue; for APPEND the list codes and then the items of the 32 lanes. -/
  ops : List Word
  lanes : Lanes
  /-- The memory structure as read at issue (R176), and the address it was read at. -/
  words : List DWord
  wordsVa : DWord
  /-- TFT entries as sampled at issue (R89): entry number and its eight words. -/
  tft : Tbl (List DWord)
  proj : Option Proj
  det : Bool
  /-- Side the warp had recorded for the ring of its literal (R353). -/
  consumer : Bool
  /-- %core of the warp at issue (Table 7.4). -/
  lcore : Nat
  windex : Nat
  /-- A fault found at issue or in the transfer: cause, reason and address (R80, R180). -/
  fault : Option (BitVec 8 × BitVec 8 × DWord)
  /-- Counters it took past a limit (R42). -/
  crossed : BitVec 4
  /-- Sub-arrays a running MMA holds (R279). -/
  subs : BitVec 4
  /-- Ranks of a CPYM still to be delivered (R191), and what its walk writes, tile offset and byte, none for an unspecified
  one; gang signal still due (R179). -/
  ranks : List Nat
  walked : List (Nat × Option Byte)
  signalDue : Bool
  /-- Elements of a CPY and records of an ENC or DECT that have been moved already, by number in write order (R327). -/
  moved : List Nat
  /-- Conversion events of a CPYM's walk (R185), and of what has been moved already. -/
  events : List Nat
  /-- The overflow units that the record an ENC stands at has been given (R100); what a storage transfer has moved already,
  by offset, and what a class M command has read already, by virtual address (R201, R327). The words of its entry that a
  TFSET has written are among `moved` (R43, R100). -/
  units : Option Nat
  staged : Sparse (Option Byte)
  /-- The number, among those of the core's writes, at which the command's release was sent (R314, R319). -/
  cut : Option Nat
  /-- Lane groups of an APPEND still to be appended: list and items (R203), and its ordinal within the warp (R204). -/
  groups : List (Nat × List Item)
  ordinal : Nat
  /-- Memory of a storage command that another one overlaps: system address and length (R201). -/
  hazy : List (Nat × Nat)
  deriving DecidableEq, Repr, Inhabited

/-- A projection in a half of the latent stage (R273, R274): which load it is, and its rows of r elements. -/
structure Half where
  load : Nat
  rows : List (List (BitVec 16))
  deriving DecidableEq, Repr, Inhabited

/-! ## Cores and dies -/

/-- A cached translation: page base and size in the context's space, physical base, page-table entry (R78). -/
structure Tlb where
  cid : Nat
  va : Nat
  bits : Nat
  pte : DWord
  deriving DecidableEq, Repr, Inhabited

/-- A cached pointer entry of the page tables (R78): context, level, index path, entry. -/
structure PtrEntry where
  cid : Nat
  level : Nat
  va : Nat
  pte : DWord
  deriving DecidableEq, Repr, Inhabited

/-- A write past the order point and not yet performed (R313, R317). -/
structure Outbound where
  wid : Nat
  op : Nat
  lane : Nat
  cid : Nat
  va : DWord
  key : Nat
  data : List Byte
  /-- Its policy allocates a line of L2 as first to evict (R59). -/
  first : Bool
  deriving DecidableEq, Repr, Inhabited

/-- An L1 fill in flight: a line of system addresses, the context and the policy it is asked for with, overtaken by an
invalidation or not (R57, R59). -/
structure Fill where
  line : Nat
  cid : Nat
  mark : Mark
  overtaken : Bool
  deriving DecidableEq, Repr, Inhabited

structure Core where
  /-- L1 bytes by system address (R57); an unlisted byte is not held. -/
  l1 : Sparse (Option Byte)
  /-- L1 lines in use, with the policy they were allocated under (R59). -/
  l1tags : Tbl Mark
  fills : List Fill
  /-- Instruction-cache lines: line number + 2^64 × CID (R66). -/
  icache : Tbl (List Byte)
  tlb : List Tlb
  /-- Register-cache lines in use: 64 × warp number + register, true if evictable (R73, Table 3.5); whether one is dirty
  is `Warp.dirty`'s to say. -/
  rlines : Tbl Bool
  /-- Age lists of the four issue slots: warp numbers, front first (R343). -/
  age : List (List Nat)
  locks : List Lock
  halves : List Half
  /-- TFT cache: 256 × CID + entry (R89). -/
  tft : Tbl (List DWord)
  outbound : List (Nat × Outbound)
  /-- Slot after the last warp sampled (R417). -/
  sampleNext : Nat
  deriving DecidableEq, Repr, Inhabited

/-- L2 line state (R59, R60, R62): dirty, remote-copy flag, first to evict. -/
structure L2Line where
  dirty : Bool
  remote : Bool
  first : Bool
  deriving DecidableEq, Repr, Inhabited

/-- An RDC line (R59, R61): its bytes, first to evict. -/
structure RdcLine where
  bytes : List Byte
  first : Bool
  deriving DecidableEq, Repr, Inhabited

/-- A Graft message to a die's RDC (R62): the home L2's data response or its invalidation. -/
inductive GraftMsg where
  | data (line : Nat) (bytes : RdcLine)
  | inval (line : Nat)
  deriving DecidableEq, Repr, Inhabited

/-- A denial-capture entry (Table 15.5). -/
structure Capture where
  v : Bool
  master : BitVec 8
  kind : BitVec 2
  pa : BitVec 46
  count : Word
  deriving DecidableEq, Repr, Inhabited

structure Die where
  /-- L2 lines held, by line number of the physical address (R60). -/
  l2 : Tbl L2Line
  /-- RDC lines by line number (R61). -/
  rdc : Tbl RdcLine
  /-- Lines the Canopy of the die's stacks holds, dirty or not (R64); one it does not hold is in HBM4 alone. -/
  canopy : Tbl Bool
  /-- Messages on their way to this die's RDC, oldest first (R62). -/
  graft : List GraftMsg
  /-- Lines of reads of this die that missed the RDC and are on their way to the other die's L2, true where the line is to
  be allocated as first to evict (R59, R61). -/
  rdcMiss : Tbl Bool
  /-- Shared translation cache and pointer-entry cache (R78). -/
  stc : List Tlb
  ptrc : List PtrEntry
  /-- Control space: 64-bit words by offset (R53); reset 0. -/
  ctl : Sparse DWord
  captures : Sparse Capture
  /-- CE0 or CE1 (Table 15.2). -/
  ce : Word
  /-- Warp-image slots in use: 4096 × CID + slot (R72); block images in use (R395). -/
  warpImages : List Nat
  blockImages : List Nat
  /-- Sample ring (Table 15.10): configuration, PUT, GET, SMPDROP. -/
  smpRing : DWord
  smpPut : Word
  smpGet : Word
  smpDrop : Word
  deriving DecidableEq, Repr, Inhabited

/-- A message the device sends to the outside (R403, R87, R406). -/
inductive OutMsg where
  | msix (vector : Nat)
  | readData (data : List Byte)
  | completerAbort
  | peerError (port : Nat)
  | peerData (port : Nat) (data : List Byte)
  | managementInterrupt
  /-- Logical blocks written to a drive (R201): drive, namespace, first block, force unit access, data. -/
  | driveWrite (drive nsid slba : Nat) (fua : Bool) (data : List Byte)
  deriving DecidableEq, Repr, Inhabited

/-! ## The machine -/

/-- Which agent moves at a step (DESIGN CHOICE, log entry 5): an event of the opcode table, an issue slot continuing its
run, the head of a warp's store queue reaching the core's order point, an engine moving element or record `k` of a
command's transfer, time passing, the temperature sensors. -/
inductive Move where
  | event (i : Instr)
  | issue (core slot : Nat)
  | orderPoint (wid : Nat)
  | transfer (id k : Nat)
  | tick (ns : Nat)
  | sense (value : DWord)
  deriving DecidableEq, Repr, Inhabited

structure State where
  /-- Module memory, host memory and peer memory by system address: the 46-bit physical address (R53), with the
  accelerator number of a scale-up peer above it (R77). Bytes equal to `Memory.blank` are not listed. -/
  mem : List Host.Cell
  /-- Bytes of module memory in uncorrectable error (R389); reset none. -/
  bad : Sparse Bool
  /-- Bytes that hold an unspecified value, each read of which may give another (R2, R188, R201); reset none. -/
  vague : Sparse Bool
  warps : Tbl Warp
  blocks : Tbl Block
  gangs : Tbl Gang
  contexts : Tbl Context
  cores : Tbl Core
  dies : Tbl Die
  cmds : Tbl Cmd
  /-- Runs in progress, issue slot k of core c at 4 c + k (R343). -/
  runs : Tbl Run
  /-- Global time in ns (R413); reset 0. -/
  time : DWord
  /-- BAR0 globals (Table 15.2); reset 0. BAR2 size as log2 of GiB (R399); reset 0. -/
  ready : Bool
  b2base : BitVec 10
  rben : Bool
  bar2log : Nat
  /-- Management (Table 15.10): power limit in W (reset 3,600, R415), UEVT (reset 0), I3C address (reset none),
  power estimate in mW and temperature word as last sensed (reset 0). -/
  powerLimit : Nat
  uevt : BitVec 2
  i3c : Option (BitVec 7)
  powerEst : DWord
  temperature : DWord
  /-- Held until reset through management (R406) or in reset after thermal shutdown (R415). -/
  held : Bool
  /-- Level in effect on each cluster (R370), 16 per die, reset 8; how far firmware has lowered it (R415). -/
  clusterLevel : Sparse (BitVec 4)
  lowered : Sparse Nat
  /-- Lowerings in the order they were made, for their restoration in reverse (R415). -/
  lowerLog : List Nat
  linkUp : BitVec 36
  drivesUp : BitVec 4
  bringup : Nat
  outbox : List OutMsg
  /-- The model's own fields (DESIGN CHOICE, log entries 2 and 5): free-value counter, moves to come, index of the next free
  move, the run whose word is executing, next number for warps, blocks, operations and commands. -/
  fresh : Nat
  agenda : List Move
  ticks : Nat
  focus : Run
  nextId : Nat
  deriving DecidableEq, Repr, Inhabited

/-- Why the machine stops with a fault. -/
inductive Fault where
  /-- No meaning raises it: every fault of the spec is a next state (a trap entry, a flag's error status, a
  termination). Safe. -/
  | neverRaised
  deriving DecidableEq, Repr

/-- Why a step has no meaning. -/
inductive Refusal where
  /-- Raised by `exec` alone, for an instruction whose meaning is not written yet. Safe: nothing can be proved of it. -/
  | notModelled (mnemonic : String)
  deriving DecidableEq, Repr

/-- What a byte of memory that nothing has written reads as (DESIGN CHOICE, log entry 1: the spec gives no power-on
contents). -/
def Memory.blank : Byte := 0

/-! ## Reset -/

def Run.idle : Run where
  wid := 0; core := 0; slot := 0; threads := 0; shadows := 0; all := 0; hdr := 0; cls := .s; words := []; idx := 1
  setA := none; setB := none; loose := false; boundary := false; total := 0; targets := []; parked := 0; after := none
  long := false; stop := false; atClause := true; hold := false; cut := none; bbcDue := 0

/-- A core with every cache and table empty: what an unlisted core of `State.cores` is. -/
def Core.empty : Core where
  l1 := []; l1tags := []; fills := []; icache := []; tlb := []; rlines := []; age := [[], [], [], []]; locks := []; halves := []
  tft := []; outbound := []; sampleNext := 0

/-- A die with every cache empty and every register of its control space 0 (Tables 3.6, 3.10, 3.11, 15.5, 15.12)
(DESIGN CHOICE, log entry 3). -/
def Die.empty : Die where
  l2 := []; rdc := []; canopy := []; graft := []; rdcMiss := []; stc := []; ptrc := []; ctl := []; captures := []
  ce := 0; warpImages := []; blockImages := []; smpRing := 0; smpPut := 0; smpGet := 0; smpDrop := 0

/-- A warp with every register 0 (R339): what a new warp starts from (DESIGN CHOICE, log entry 4). -/
def Warp.empty : Warp where
  cid := 0; grid := 0; blk := 0; index := 0; role := .vector; regs := 64; core := 0; slot := 0; image := (0, 0)
  life := .ended; stopping := false; v := []; dirty := 0; p := []; w := []; k := 0; hw := []; entry := 0; pc := []; rpc := []; pk := 0; live := 0
  helper := 0; bbc := 0; lastRun := 0; busy := 0; ferr := []; frpc := []; mode := 0; part := 32; trapen := 0
  trapinfo0 := 0x78000000; trapinfo1 := 0; trapaddr := 0; perfLvl := 8; rlockst := 0; samplecfg := 0
  inHandler := false; hpc := []; trapped := 0; draining := false; pend06 := none; pend0A := none; pend0F := none
  crossing := none; blocked := none; heldWait := none; pendWord := 0; heldWord := 0; side := 0; gep := []; proj := none; drainer := false
  drainBusy := false; appendOrd := 0; appended := []; ops := []; spent := []; dues := []; unspec := []; fetched := none; err := 0

/-- A context that has never run a job (Table 15.3) (DESIGN CHOICE, log entry 4). -/
def Context.empty : Context where
  desc := []; seq := 0; last := 0; jcberr := false; stop := false; irqen := false; breached := false; job := none; nextGrid := 1
  grids := []; lists := []; detector := none; walk := none; evq := []; sliceSince := 0; sliced := false; stopAt := 0

/-- The machine right after reset: no context runs, no block is resident, READY is 0 (R420)
(DESIGN CHOICE, log entry 3). -/
def State.reset : State where
  mem := []; bad := []; vague := []; warps := []; blocks := []; gangs := []; contexts := []; cores := []; dies := []; cmds := []; runs := []
  time := 0; ready := false; b2base := 0; rben := false; bar2log := 0; powerLimit := 3600; uevt := 0; i3c := none
  powerEst := 0; temperature := 0; held := false; clusterLevel := []; lowered := []; lowerLog := []; linkUp := 0
  drivesUp := 0; bringup := 0; outbox := []; fresh := 0; agenda := []; ticks := 0; focus := Run.idle; nextId := 1

end Sys2Proof.Machine
end

