-- ==== Sys2Proof/Machine/Caches.lean ====
section
/-! DEFINITION. Finding records, the geometry of the part (R14), memory by system address and the physical map (R53), and
the caching levels (R55 to R66): which slice, stack and set a line belongs to, what makes room for it, and what reads and
writes leave in L1, L2, RDC and Canopy. The bytes of module memory stand once, in `State.mem`, as the home L2 returns them;
L2, Canopy and HBM4 are told apart by which of them holds the line. -/

namespace Sys2Proof.Machine

/-! ## Records -/

def State.warp (s : State) (wid : Nat) : Warp := (s.warps.get? wid).getD Warp.empty
def State.setWarp (s : State) (wid : Nat) (w : Warp) : State := { s with warps := s.warps.put wid w }
/-- Change a warp; a warp that does not exist stays so. -/
def State.updWarp (s : State) (wid : Nat) (f : Warp → Warp) : State := { s with warps := s.warps.upd wid f }
def State.ctx (s : State) (cid : Nat) : Context := (s.contexts.get? cid).getD Context.empty
def State.updCtx (s : State) (cid : Nat) (f : Context → Context) : State :=
  { s with contexts := s.contexts.put cid (f (s.ctx cid)) }
def State.core (s : State) (c : Nat) : Core := (s.cores.get? c).getD Core.empty
def State.updCore (s : State) (c : Nat) (f : Core → Core) : State := { s with cores := s.cores.put c (f (s.core c)) }
def State.die (s : State) (d : Nat) : Die := (s.dies.get? d).getD Die.empty
def State.updDie (s : State) (d : Nat) (f : Die → Die) : State := { s with dies := s.dies.put d (f (s.die d)) }
def State.updBlock (s : State) (b : Nat) (f : Block → Block) : State := { s with blocks := s.blocks.upd b f }
/-- A block has issued a store, atomic, RED or engine command, or completed a wait (R364). -/
def State.noteActive (s : State) (b : Nat) : State := s.updBlock b fun x => { x with lastActive := s.time.toNat }
def State.updCmd (s : State) (c : Nat) (f : Cmd → Cmd) : State := { s with cmds := s.cmds.upd c f }
def State.grid? (s : State) (cid g : Nat) : Option Grid := (s.ctx cid).grids.get? g
def State.updGrid (s : State) (cid g : Nat) (f : Grid → Grid) : State :=
  s.updCtx cid fun c => { c with grids := c.grids.upd g f }

/-- The warp whose word is executing. -/
def State.self (s : State) : Warp := s.warp s.focus.wid
def State.setSelf (s : State) (w : Warp) : State := s.setWarp s.focus.wid w
def State.setFocus (s : State) (r : Run) : State := { s with focus := r }
/-- The block of the executing warp, if it is a compute warp. -/
def State.block? (s : State) (wid : Nat) : Option Block := s.blocks.get? (s.warp wid).blk

/-- A free value of this step (R2) (DESIGN CHOICE, log entry 2). -/
def State.free (s : State) (tag : Nat) : DWord := Config.freeWord s.fresh tag
def State.freeWord (s : State) (tag : Nat) : Word := (s.free tag).truncate 32
def State.freeByte (s : State) (tag : Nat) : Byte := (s.free tag).truncate 8
def State.freeBool (s : State) (tag : Nat) : Bool := (s.free tag).getLsbD 0

/-! ## Geometry (R14) -/

/-- Physical cores 0 to 127 on dies 0 and 1; a control core has number 128 + die. -/
def dieOfCore (c : Nat) : Nat := if c < 128 then c / 64 else (c - 128) % 2
def clusterOfCore (c : Nat) : Nat := c / 4
def coreEnabled (c : Nat) : Bool := decide (c < 128) && (Config.enmask (c / 64)).getLsbD (c % 64)
def enabledCores : List Nat := (List.range 128).filter coreEnabled
/-- N of R14. -/
def nCores : Nat := enabledCores.length
/-- Logical number of a physical core: its position among the enabled cores. -/
def logicalCore (c : Nat) : Nat := (enabledCores.takeWhile (· < c)).length

/-! ## Memory by system address -/

def Memory.get (m : List Host.Cell) (a : Nat) : Byte := Sparse.get Memory.blank m a
def Memory.set (m : List Host.Cell) (a : Nat) (b : Byte) : List Host.Cell := Sparse.set Memory.blank m a b
def Memory.wf (m : List Host.Cell) : Bool := Sparse.wf Memory.blank m
def Memory.setList (m : List Host.Cell) (a : Nat) (bs : List Byte) : List Host.Cell :=
  Sparse.setList Memory.blank m a bs

/-- What stands in memory, one that holds an unspecified value included. -/
def State.memBytes (s : State) (key n : Nat) : List Byte := Sparse.getList Memory.blank s.mem key n

/-- A byte of memory, or of a copy of it, as reader `who` gets it: an unspecified one is a free value, another at each reading
and for each reader (R2) (DESIGN CHOICE, log entry 24). -/
def State.seen (s : State) (who key : Nat) (b : Byte) : Byte :=
  if Sparse.get false s.vague key then s.freeByte (10 ^ 18 * (who + 1) + key) else b

/-- The bytes that reader `who` reads from memory. -/
def State.bytesAt (s : State) (who key n : Nat) : List Byte :=
  (s.memBytes key n).zipIdx.map fun e => s.seen who (key + e.2) e.1

/-- The parts of the map of Table 3.1 that an address of this module lies in. -/
inductive Place where
  | hbm (die : Nat)
  | control (die : Nat)
  | reserved (die : Nat)
  | system
  | peer (n : Nat)
  deriving DecidableEq, Repr

def placeOf (key : Nat) : Place :=
  let pa := key % 2 ^ 46
  if key / 2 ^ 46 ≠ 0 then .peer (key / 2 ^ 46)
  else if 0x020000000000 ≤ pa then .system
  else
    let die := pa / 2 ^ 40
    let off := pa % 2 ^ 40
    if off < 0x8000000000 then .hbm die else if 0xFF00000000 ≤ off then .control die else .reserved die

/-- 128-byte line of a system address. -/
def lineOf (key : Nat) : Nat := key / 128

/-- The lines that `n` bytes from `key` touch. -/
def linesOf (key n : Nat) : List Nat := (List.range ((key + n - 1) / 128 + 1 - key / 128)).map fun i => key / 128 + i

/-- The line is homed on the die other than `die`. -/
def remoteTo (die key : Nat) : Bool :=
  match placeOf key with
  | .hbm d => d != die
  | _ => false

/-- The line is in module memory. -/
def inModule (key : Nat) : Bool :=
  match placeOf key with
  | .system => false
  | .peer _ => false
  | _ => true

/-! ## Slices, stacks and sets (R55, R56) -/

/-- SliceOf of R55, for the line number of a physical address. -/
def sliceOf (line : Nat) : Nat :=
  let pa := line * 128
  (pa / 2 ^ 7 % 512) ^^^ (pa / 2 ^ 16 % 512) ^^^ (pa / 2 ^ 25 % 512) ^^^ (pa / 2 ^ 34 % 64)

/-- StackOf of R55: 64 slices serve each of the die's 8 stacks. -/
def stackOf (line : Nat) : Nat := sliceOf line / 64

/-- The caching levels of Table 3.2. -/
inductive Level where
  | l1
  | icache
  | l2
  | rdc
  | canopy
  deriving DecidableEq, Repr

/-- Ways of Table 3.2. -/
def Level.ways : Level → Nat
  | .l1 => 8
  | .icache => 4
  | _ => 16

/-- Bytes of one unit of the level (Tables 1.2, 1.3, 3.2): a core's L1 and instruction cache, an L2 slice, a die's RDC, the
Canopy of one stack. -/
def Level.bytes : Level → Nat
  | .l1 => 128 * 2 ^ 10
  | .icache => 64 * 2 ^ 10
  | .l2 => 256 * 2 ^ 10
  | .rdc => 32 * 2 ^ 20
  | .canopy => 64 * 2 ^ 20

def Level.sets (v : Level) : Nat := v.bytes / 128 / v.ways

def Level.code : Level → Nat
  | .l1 => 0
  | .icache => 1
  | .l2 => 2
  | .rdc => 3
  | .canopy => 4

/-- The unit of the level that holds a line: its L2 slice, the stack of its Canopy, else the one there is (R55). -/
def Level.unit (v : Level) (line : Nat) : Nat :=
  match v with
  | .l2 => sliceOf line
  | .canopy => stackOf line
  | _ => 0

/-- The set of a line: unit and index, the index being the part's (DESIGN CHOICE, log entry 65). -/
def Level.setOf (v : Level) (line : Nat) : Nat × Nat := (v.unit line, Config.cacheSet v.code line % v.sets)

/-- The lines of `held` in the set of `line`; with fewer lines than ways the set cannot be full. -/
def Level.rivals (v : Level) (held : List Nat) (line : Nat) : List Nat :=
  if held.length < v.ways then [] else held.filter fun x => decide (v.setOf x = v.setOf line)

/-- The line that makes room for `line` in a full set (R59): one that is first to evict if there is any, else one not kept
if there is any; which of these is a free choice. -/
def Level.victim (v : Level) (first keep : Nat → Bool) (held : List Nat) (line pick : Nat) : Option Nat :=
  let l := v.rivals held line
  if l.length < v.ways then none
  else
    let a := l.filter first
    let b := l.filter fun x => !keep x
    let among := if a.isEmpty then (if b.isEmpty then l else b) else a
    among[pick % among.length]?

/-- The free value that picks a victim. -/
def State.pick (s : State) (v : Level) (line : Nat) : Nat := (s.free (10 ^ 16 + 8 * line + v.code)).toNat

/-! ## Canopy and L2 (R60, R62, R64) -/

/-- The line is in the Canopy of its stack. A line that makes room is written back to HBM4 if it is dirty. -/
def State.canopyPut (s : State) (d line : Nat) (dirty : Bool) : State :=
  let pick := s.pick .canopy line
  s.updDie d fun x =>
    match x.canopy.get? line with
    | some b => { x with canopy := x.canopy.put line (b || dirty) }
    | none =>
      let kept := match Level.canopy.victim (fun _ => false) (fun _ => false) x.canopy.keys line pick with
        | some v => x.canopy.erase v
        | none => x.canopy
      { x with canopy := kept.put line dirty }

def GraftMsg.line : GraftMsg → Nat
  | .data l _ => l
  | .inval l => l

/-- The RDC has no copy of the line left, and Graft carries nothing of it. -/
def Die.forget (x : Die) (line : Nat) : Die :=
  { x with rdc := x.rdc.erase line, graft := x.graft.filter fun g => g.line != line }

/-- The line leaves its home L2 (R60, R62): the other die's copy is invalidated first, and a dirty line goes to Canopy. -/
def State.l2Drop (s : State) (d line : Nat) : State :=
  match (s.die d).l2.get? line with
  | none => s
  | some e =>
    let s := if e.remote then s.updDie (1 - d) fun x => x.forget line else s
    let s := s.updDie d fun x => { x with l2 := x.l2.erase line }
    if e.dirty then s.canopyPut d line true else s

/-- The line is in its home L2: a miss reads through Canopy, which allocates it, and evicts a line of a full set
(DESIGN CHOICE, log entry 65). -/
def State.l2Fill (s : State) (d line : Nat) (first : Bool) : State :=
  if ((s.die d).l2.get? line).isSome then s
  else
    let l2 := (s.die d).l2
    let s := match Level.l2.victim (fun x => ((l2.get? x).map (·.first)).getD false) (fun _ => false) l2.keys line
        (s.pick .l2 line) with
      | some v => s.l2Drop d v
      | none => s
    (s.canopyPut d line false).updDie d fun x => { x with l2 := x.l2.put line ⟨false, false, first⟩ }

/-- A write or atomic performed on the line at its home L2, the other die's copy gone before it; a line that it allocates may
be first to evict (R59). -/
def State.l2Write (s : State) (d line : Nat) (first : Bool) : State :=
  ((s.updDie (1 - d) fun x => x.forget line).l2Fill d line first).updDie d fun x =>
    { x with l2 := x.l2.upd line fun e => { e with dirty := true, remote := false } }

/-- A read that the home L2 serves itself: page walks, register images, and reads from its own die (R60, R61). -/
def State.noteHome (s : State) (key n : Nat) (first : Bool) : State :=
  match placeOf key with
  | .hbm d => (linesOf key n).foldl (fun s ln => s.l2Fill d ln first) s
  | _ => s

/-- The RDC of `die` holds every line of the read, which therefore reaches no home agent (R61, R83). -/
def State.inRdc (s : State) (die key n : Nat) : Bool :=
  remoteTo die key && (linesOf key n).all fun ln => ((s.die die).rdc.get? ln).isSome

/-- What a read of a core, an engine or a fetch leaves in the levels below (R60, R61, R64, R66): a line homed on the die is
in its L2; one of the other die that the RDC does not hold is asked for over Graft, whose home L2 then supplies it. -/
def State.noteRead (s : State) (die key n : Nat) (first : Bool) : State :=
  match placeOf key with
  | .hbm h =>
    if h = die then s.noteHome key n first
    else (linesOf key n).foldl (fun s ln =>
      if ((s.die die).rdc.get? ln).isSome then s
      else (s.l2Fill h ln first).updDie die fun x =>
        if (x.rdcMiss.get? ln).isSome then x else { x with rdcMiss := x.rdcMiss.put ln first }) s
  | _ => s

/-- The reads of a list of segments. -/
def State.noteReads (s : State) (die : Nat) (l : List (Nat × Nat)) (first : Bool) : State :=
  l.foldl (fun s x => s.noteRead die x.1 x.2 first) s

/-! ## L1 (R57, R59) -/

/-- Bytes of a line are gone: a line with none left is no longer in use. -/
def Core.l1Keep (c : Core) (keep : Nat → Bool) : Core :=
  let l1 := c.l1.filter fun e => keep e.1
  { c with l1 := l1, l1tags := c.l1tags.filter fun t => l1.any fun e => e.1 / 128 == t.1 }

/-- The line is in use in the L1; one that was not takes a way of its set, and the line that makes room is dropped. -/
def Core.l1Alloc (c : Core) (line pick : Nat) (m : Mark) : Core :=
  if (c.l1tags.get? line).isSome then c
  else
    let is := fun (k : Mark) (x : Nat) => c.l1tags.get? x == some k
    match Level.l1.victim (is .stream) (is .keep) c.l1tags.keys line pick with
    | some v => { c with l1 := c.l1.filter fun e => e.1 / 128 != v, l1tags := (c.l1tags.erase v).put line m }
    | none => { c with l1tags := c.l1tags.put line m }

/-- A line of the instruction cache, by line number and context (R66); in a full set another one goes. -/
def Core.icachePut (c : Core) (key pick : Nat) (bs : List Byte) : Core :=
  let kept := if (c.icache.get? key).isSome then c.icache
    else match Level.icache.victim (fun _ => false) (fun _ => false) c.icache.keys key pick with
      | some v => c.icache.erase v
      | none => c.icache
  { c with icache := kept.put key bs }

/-- A line that the RDC allocates (R61); one that makes room goes silently (R62). -/
def Die.rdcPut (x : Die) (line pick : Nat) (e : RdcLine) : Die :=
  let first := fun (y : Nat) => ((x.rdc.get? y).map (·.first)).getD false
  let kept := if (x.rdc.get? line).isSome then x.rdc
    else match Level.rdc.victim first (fun _ => false) x.rdc.keys line pick with
      | some v => x.rdc.erase v
      | none => x.rdc
  { x with rdc := kept.put line e }

end Sys2Proof.Machine
end

