-- ==== Sys2Proof/Machine/Ops.lean ====
section
/-! DEFINITION. The named operations: registers, writes at their place, access tables, translation, accesses on a context's
behalf, traps. Every register is read and written through these. -/

namespace Sys2Proof.Machine

/-! ## Lanes -/

/-- The mask of the lanes that satisfy `f`. -/
def maskOf (f : Nat → Bool) : Lanes :=
  (List.range 32).foldl (fun m l => if f l then m ||| (1#32 <<< l) else m) 0#32

/-- The lanes of a mask in ascending order. -/
def lanesOf (m : Lanes) : List Nat := (List.range 32).filter fun l => m.getLsbD l

/-- The lowest-numbered lane of a mask. -/
def lowestLane (m : Lanes) : Nat := (lanesOf m).headD 0

/-! ## Registers -/

def Warp.getV (w : Warp) (r l : Nat) : Word := Sparse.get 0 w.v (32 * r + l)
def Warp.setV (w : Warp) (r l : Nat) (x : Word) : Warp := { w with v := Sparse.set 0 w.v (32 * r + l) x }
def Warp.getP (w : Warp) (r l : Nat) : Bool := (Sparse.get 0 w.p l).getLsbD r
def Warp.setP (w : Warp) (r l : Nat) (b : Bool) : Warp :=
  let old := Sparse.get 0 w.p l
  { w with p := Sparse.set 0 w.p l (if b then old ||| (1#16 <<< r) else old &&& ~~~(1#16 <<< r)) }
def Warp.getW (w : Warp) (r : Nat) : Word := Sparse.get 0 w.w r
def Warp.setW (w : Warp) (r : Nat) (x : Word) : Warp := { w with w := Sparse.set 0 w.w r x }
def Warp.getHw (w : Warp) (r : Nat) : Word := Sparse.get 0 w.hw r
def Warp.setHw (w : Warp) (r : Nat) (x : Word) : Warp := { w with hw := Sparse.set 0 w.hw r x }
/-- k7 reads true, and writes to it are discarded (R134). -/
def Warp.getK (w : Warp) (r : Nat) : Bool := decide (r = 7) || w.k.getLsbD r
def Warp.setK (w : Warp) (r : Nat) (b : Bool) : Warp :=
  if r = 7 then w else { w with k := if b then w.k ||| (1#8 <<< r) else w.k &&& ~~~(1#8 <<< r) }

def boolWord (b : Bool) : Word := if b then 1 else 0

def Warp.raw (w : Warp) : RegName → Nat → Word
  | .v r, l => w.getV r l
  | .p r, l => boolWord (w.getP r l)
  | .w r, _ => w.getW r
  | .k r, _ => boolWord (w.getK r)
  | .hw r, _ => w.getHw r

def Warp.setRaw (w : Warp) : RegName → Nat → Word → Warp
  | .v r, l, x => w.setV r l x
  | .p r, l, x => w.setP r l (x != 0)
  | .w r, _, x => w.setW r x
  | .k r, _, x => w.setK r (x != 0)
  | .hw r, _, x => w.setHw r x

/-- The register an instruction means by a name: in handler mode w56 to w63 select the handler registers (R382)
(DEDUCED, log entry 40). -/
def Warp.named (w : Warp) : RegName → RegName
  | .w r => if w.inHandler && decide (56 ≤ r) then .hw (r - 56) else .w r
  | n => n

/-- The register is the same for every lane. -/
def RegName.uniform : RegName → Bool
  | .w _ | .k _ | .hw _ => true
  | _ => false

/-- The register in that lane, by one name. -/
def RegName.place (n : RegName) (l : Nat) : RegName × Nat := (n, if n.uniform then 0 else l)

/-- A number for the register and lane, to tell free values apart. -/
def RegName.tag (n : RegName) (l : Nat) : Nat :=
  match n with
  | .v r => 32 * r + l
  | .p r => 2048 + 32 * r + l
  | .w r => 2560 + r
  | .k r => 2624 + r
  | .hw r => 2632 + r

/-- The destination is that register of that lane; k7 is none, since a write to it is discarded (R134, R216). -/
def Dest.hits (d : Dest) (n : RegName) (l : Nat) : Bool :=
  decide (d.reg = n) && (n.uniform || d.lanes.getLsbD l) && decide (n ≠ .k 7)

/-- The register is a destination that software may not read yet (R113). -/
def Warp.pendingAt (w : Warp) (n : RegName) (l : Nat) : Bool := w.dues.any fun d => d.dest.hits n l

/-- Its value is an unspecified one: such a destination, or a register left unspecified (R2, R113). -/
def Warp.unspecAt (w : Warp) (n : RegName) (l : Nat) : Bool := w.pendingAt n l || w.unspec.contains (n.place l)

/-- The unspecified registers once the register is written: what is written while it is still some operation's destination is
unspecified once both writes have completed (R113). -/
def Warp.unspecWith (w : Warp) (n : RegName) (l : Nat) : List (RegName × Nat) :=
  if w.pendingAt n l then (if w.unspec.contains (n.place l) then w.unspec else n.place l :: w.unspec)
  else w.unspec.filter (· != n.place l)

/-- A destination is pending no longer once it has been written, its clause has ended, its SETB flag has cleared and its
operation's sources are its clause's no longer (R113). With no SETB flag the spec names no moment at which it may be read
(DESIGN CHOICE, log entry 20). -/
def Warp.prune (w : Warp) : Warp :=
  { w with dues := w.dues.filter fun d =>
      !d.written || d.clause || (d.setB.map w.busy.getLsbD).getD false || w.spent.any fun e => e.1 == d.op }

/-- An operation of class M or C: an engine command, or MBOUND. -/
def Op.isEngine (o : Op) : Bool := Instr.cls o.ins == some .m || Instr.cls o.ins == some .c

/-- The entry of an engine command among its warp's operations (R174, Table 10.5): its registers, while the command itself
is in `State.cmds`. MBOUND is no engine command. -/
def Op.isCommand (o : Op) : Bool :=
  match o.ins with
  | .mbound _ => false
  | i => Instr.cls i == some .m || Instr.cls i == some .c

/-- The sources of the operation are not software's to overwrite yet: the SETA flag of its clause has not cleared; with no
such flag, it has not read them (R113) (DEDUCED, log entry 20). -/
def Warp.ownsSources (w : Warp) (o : Op) : Bool :=
  match o.setA with
  | none => o.srcPending
  | some f => w.busy.getLsbD f

/-- The operation has made use of its sources in lane `l`: its access is made, it has left the core's order point, or it is a
command that has read them. -/
def Op.usedAt (o : Op) (l : Nat) : Bool :=
  o.atOrder || (o.isEngine && !o.srcPending) || o.accesses.any fun a => a.lane == l && (a.done || a.denied)

/-- What a write of another instruction to `n` does to an operation whose sources are `held` (R113): a source that it has not
used becomes the free value `x`; one that its address is formed from leaves the address unspecified; one that it has used
already leaves what it did in that lane unspecified (DEDUCED, log entry 20). -/
def Op.overwritten (o : Op) (held : Bool) (n : RegName) (l : Nat) (x : Word) : Op :=
  let used := fun (j : Nat) => (n.uniform || j == l) && (o.addrRegs.contains n || (o.caps.any (·.reg == n) && o.usedAt j))
  { o with
    caps := if held then
        o.caps.map fun c => if c.reg = n then { c with vals := c.vals.set (if n.uniform then 0 else l) x } else c
      else o.caps
    stray := if held then o.stray ||| maskOf used else o.stray }

/-- Software has broken an obligation without a stated outcome: what it can observe in its context is unspecified (R1)
(DEDUCED, log entry 72). -/
def State.lost (s : State) (cid : Nat) : Bool := (s.ctx cid).breached

/-- Such an obligation of the context has been broken (R1) (DEDUCED, log entry 72). -/
def State.breach (s : State) (cid : Nat) : State := s.updCtx cid fun c => { c with breached := true }

/-- A register as operand number `i` of the executing instruction reads it: an unspecified value is a free one, another at
each reading (R1, R2, R113) (DESIGN CHOICE, log entry 2). -/
def State.rdAt (s : State) (i : Nat) (n : RegName) (l : Nat) : Word :=
  let m := s.self.named n
  if s.self.unspecAt m l || s.lost s.self.cid then s.freeWord (10 ^ 12 + 2640 * i + m.tag l) else s.self.raw m l

/-- A register as an instruction reads it. -/
def State.rd (s : State) (n : RegName) (l : Nat) : Word := s.rdAt 0 n l

/-- Vector registers newer than their image once `n` is written (R73). -/
def RegName.dirties (n : RegName) (d : BitVec 64) : BitVec 64 :=
  match n with
  | .v r => d ||| (1#64 <<< r)
  | _ => d

/-- The warp's operations, in flight and complete, as a write to a register leaves them (R113). -/
def Warp.overwriteOps (w : Warp) (n : RegName) (l : Nat) (fr : Word) : List (Nat × Op) :=
  w.ops.map fun e => (e.1, e.2.overwritten (w.ownsSources e.2) n l fr)
def Warp.overwriteSpent (w : Warp) (n : RegName) (l : Nat) (fr : Word) : List (Nat × Op) :=
  w.spent.map fun e => (e.1, e.2.overwritten (w.ownsSources e.2) n l fr)

/-- A register write on behalf of an instruction of the warp. -/
def Warp.write (w : Warp) (n : RegName) (l : Nat) (x fr : Word) : Warp :=
  { w.setRaw n l x with
    ops := w.overwriteOps n l fr, spent := w.overwriteSpent n l fr, dirty := n.dirties w.dirty, unspec := w.unspecWith n l }

def State.wr (s : State) (n : RegName) (l : Nat) (x : Word) : State :=
  s.setSelf (s.self.write (s.self.named n) l x (s.freeWord (11 * 10 ^ 11 + n.tag l)))

/-- W64 (Table 0.2): a uniform pair. -/
def State.rd64 (s : State) (r : Nat) : DWord := s.rd (.w (r + 1)) 0 ++ s.rd (.w r) 0
def State.wr64 (s : State) (r : Nat) (x : DWord) : State :=
  (s.wr (.w r) 0 (x.truncate 32)).wr (.w (r + 1)) 0 ((x >>> 32).truncate 32)

/-! ## Bytes -/

/-- Little-endian bytes (R6). -/
def toBytes (n : Nat) (x : Nat) : List Byte := (List.range n).map fun i => BitVec.ofNat 8 (x / 2 ^ (8 * i))
def ofBytes : List Byte → Nat
  | [] => 0
  | b :: bs => b.toNat + 256 * ofBytes bs

/-! ## Page tables (R74 to R79) -/

/-- One of the bytes is in uncorrectable error: it is never returned as data (R389). -/
def State.isBad (s : State) (key n : Nat) : Bool := (List.range n).any fun i => Sparse.get false s.bad (key + i)

/-- Descriptor word `i` of a context as its job sampled it (R74, R336). -/
def State.desc (s : State) (cid i : Nat) : DWord := (s.ctx cid).desc.getD i 0
/-- Deterministic mode (Table 13.4). -/
def State.det (s : State) (cid : Nat) : Bool := (s.desc cid 6).getLsbD 1

def pageBits : Nat → Nat
  | 0 => 16
  | 1 => 21
  | _ => 30

/-- Index of a level's table (Table 3.7). -/
def ptIndex (va lvl : Nat) : Nat := if lvl = 0 then va / 2 ^ 16 % 32 else va / 2 ^ (12 + 9 * lvl) % 512

def pteAddr (p : DWord) : Nat := (p.extractLsb' 8 38).toNat * 256

/-- Malformed entries (R77). -/
def pteMalformed (p : DWord) (lvl : Nat) : Bool :=
  let leaf := p.getLsbD 1
  p.extractLsb' 56 8 != 0 || p.extractLsb' 4 2 != 0 || (leaf && decide (lvl = 3)) || (!leaf && decide (lvl = 0))
    || p.getLsbD 7
    || (leaf && decide (pteAddr p % 2 ^ pageBits lvl ≠ 0))
    || (!leaf && (p.extractLsb' 46 10 != 0 || p.extractLsb' 6 2 != 0 || p.getLsbD 3 || p.getLsbD 2
        || (decide (2 ≤ lvl) && p.extractLsb' 8 4 != 0)))

/-- A page-table word as the home L2 holds it, or a cached pointer entry of the die (R78). -/
def State.pteWord (s : State) (d cid lvl va table : Nat) : DWord :=
  match (s.die d).ptrc.find? fun e => e.cid == cid && e.level == lvl && e.va == va / 2 ^ (12 + 9 * lvl) with
  | some e => e.pte
  | none => BitVec.ofNat 64 (ofBytes (s.bytesAt 0 (table + 8 * ptIndex va lvl) 8))

/-- The word is read from its table, and an uncorrectable error is found there (R389). -/
def State.pteBad (s : State) (d cid lvl va table : Nat) : Bool :=
  !((s.die d).ptrc.any fun e => e.cid == cid && e.level == lvl && e.va == va / 2 ^ (12 + 9 * lvl))
    && s.isBad (table + 8 * ptIndex va lvl) 8

/-- The reason by which a walk says that it met an uncorrectable error (R389); no reason of Table 3.9, it is reported
nowhere. -/
def walkError : Nat := 16

/-- The engine cause, which is also the trap code, of a translation that failed for a reason: 0x05 with a reason of Table 3.9,
or 0x10 for an uncorrectable error met by the walk (R389). -/
def walkCode (r : Nat) : BitVec 8 := if r = walkError then 0x10 else 5

/-- The entries that a walk from level `lvl` reads from the home L2 of their tables (R76). -/
def State.walkReads (s : State) (d cid va : Nat) : (lvl table : Nat) → List Nat
  | 0, t => [t + 8 * ptIndex va 0]
  | lvl + 1, t =>
    let p := s.pteWord d cid (lvl + 1) va t
    let here := if (s.die d).ptrc.any fun e => e.cid == cid && e.level == lvl + 1 && e.va == va / 2 ^ (12 + 9 * (lvl + 1))
      then [] else [t + 8 * ptIndex va (lvl + 1)]
    if !p.getLsbD 0 || pteMalformed p (lvl + 1) || p.getLsbD 1 then here
    else here ++ s.walkReads d cid va lvl (pteAddr p)

/-- The walk of R76 from level `lvl`: the leaf and its level, or the fault reason; with the pointer entries passed. An entry
in uncorrectable error is never used (R389). -/
def State.walkFrom (s : State) (d cid va : Nat) : (lvl table : Nat) → Except Nat (DWord × Nat × List PtrEntry)
  | 0, t =>
    let p := s.pteWord d cid 0 va t
    if s.pteBad d cid 0 va t then .error walkError
    else if !p.getLsbD 0 then .error 1 else if pteMalformed p 0 then .error 4 else .ok (p, 0, [])
  | lvl + 1, t =>
    let p := s.pteWord d cid (lvl + 1) va t
    if s.pteBad d cid (lvl + 1) va t then .error walkError
    else if !p.getLsbD 0 then .error 1
    else if pteMalformed p (lvl + 1) then .error 4
    else if p.getLsbD 1 then .ok (p, lvl + 1, [])
    else match s.walkFrom d cid va lvl (pteAddr p) with
      | .error e => .error e
      | .ok (q, n, ps) => .ok (q, n, ⟨cid, lvl + 1, va / 2 ^ (12 + 9 * (lvl + 1)), p⟩ :: ps)

/-- Walk(c, va) of R76. -/
def State.walk (s : State) (d cid va : Nat) : Except Nat (DWord × Nat × List PtrEntry) :=
  if !(s.desc cid 0).getLsbD 0 then .error 1
  else s.walkFrom d cid va 3 (((s.desc cid 0).extractLsb' 12 34).toNat * 4096)

/-- A cached translation that covers the address (R78): the core's TLB, then the die's shared cache. -/
def State.cached (s : State) (core cid va : Nat) : Option Tlb :=
  let hit := fun (e : Tlb) => e.cid == cid && e.va == va / 2 ^ e.bits
  match (s.core core).tlb.find? hit with
  | some e => some e
  | none => (s.die (dieOfCore core)).stc.find? hit

/-- System address of `va` under a page of `bits` bits (R76, R77). -/
def leafKey (pte : DWord) (bits va : Nat) : Nat :=
  (pte.extractLsb' 46 10).toNat * 2 ^ 46 + pteAddr pte + va % 2 ^ bits

/-! ## Writes at their place of performance -/

/-- Where the page tables place a running grid's parameter block now: system addresses and lengths, page by page (R160). -/
def State.paramNow (s : State) (cid : Nat) (g : Grid) : List (Nat × Nat) :=
  if g.gr.psize = 0 ∨ (g.st ≠ .placing ∧ g.st ≠ .running) then []
  else
    let lo := g.gr.param.toNat
    let hi := lo + g.gr.psize
    (List.range ((lo % 65536 + g.gr.psize + 65535) / 65536)).filterMap fun i =>
      let va := if i = 0 then lo else (lo / 65536 + i) * 65536
      match s.walk 0 cid va with
      | .error _ => none
      | .ok (p, lvl, _) => some (leafKey p (pageBits lvl) va, Nat.min hi ((va / 65536 + 1) * 65536) - va)

/-- The bytes of `segs`, where a running grid's parameter block lies, among `n` from `key` are marked as stored to (R160). -/
def Grid.noteStore (g : Grid) (segs : List (Nat × Nat)) (key n : Nat) : Grid :=
  let within := fun (a : Nat) => segs.any fun p => decide (p.1 ≤ a) && decide (a < p.1 + p.2)
  let mark := fun (m : Sparse Bool) (i : Nat) => if within (key + i) then Sparse.set false m (key + i) true else m
  if segs.isEmpty then g else { g with paramWritten := (List.range n).foldl mark g.paramWritten }

/-- A store to `n` bytes from `key` as the running grids' parameter blocks see it, where they lay when their grid started and
where they lie now (R160). -/
def State.noteStore (s : State) (key n : Nat) : State :=
  { s with contexts := s.contexts.mapVals fun cid c =>
      { c with grids := c.grids.mapVals fun _ g => g.noteStore (g.paramSegs ++ s.paramNow cid g) key n } }

/-- A write performed at its place (R60, R62, R310): at a home L2 the copy in the other die's RDC is invalidated first,
with what Graft still carries of the line, the remote-copy flag is cleared, and the line, read through Canopy if the L2
did not hold it, becomes dirty, by `first` as one first to evict (R59). Bytes in uncorrectable error are so until they are
written (R389). -/
def State.homeWriteAs (s : State) (first : Bool) (key : Nat) (bs : List Byte) : State :=
  let outside := fun (e : Nat × Bool) => decide (e.1 < key) || decide (key + bs.length ≤ e.1)
  let s := { s.noteStore key bs.length with
    mem := Memory.setList s.mem key bs
    bad := s.bad.filter outside
    vague := s.vague.filter outside }
  match placeOf key with
  | .hbm d => (linesOf key bs.length).foldl (fun s ln => s.l2Write d ln first) s
  | _ => s

/-- The same with normal replacement (Table 3.3): of an access without a cache policy. -/
def State.homeWrite (s : State) (key : Nat) (bs : List Byte) : State := s.homeWriteAs false key bs

/-- The bytes hold unspecified values from here on (R2). -/
def State.blur (s : State) (key n : Nat) : State :=
  { s with vague := (List.range n).foldl (fun m i => Sparse.set false m (key + i) true) s.vague }

/-! ## Access tables (R83 to R87) -/

/-- A 64-bit word of a die's control space. -/
def State.ctlWord (s : State) (d off : Nat) : DWord := Sparse.get 0 (s.die d).ctl off
def State.setCtl (s : State) (d off : Nat) (x : DWord) : State :=
  s.updDie d fun y => { y with ctl := Sparse.set 0 y.ctl off x }

/-- Window `i` of target `t` permits master `m` on the 64 KiB unit of `pa` (R84, R86) (DEDUCED, log entry 23). -/
def State.windowPermits (s : State) (d t i m : Nat) (write : Bool) (pa : Nat) : Bool :=
  let b := 0x100000 + t * 0x2000 + i * 128
  let w := fun j => s.ctlWord d (b + 8 * j)
  let base := ((w 0).extractLsb' 16 30).toNat
  let limit := ((w 1).extractLsb' 16 30).toNat
  let unit := pa / 0x10000
  (w 0).getLsbD 63 && (w 0).extractLsb' 46 17 == 0 && (w 0).extractLsb' 0 16 == 0 && (w 1).extractLsb' 46 18 == 0
    && (w 1).extractLsb' 0 16 == 0 && w 2 == 0 && w 3 == 0 && w 12 == 0 && w 13 == 0 && w 14 == 0 && w 15 == 0
    && decide (base ≤ limit) && decide (base ≤ unit) && decide (unit ≤ limit)
    && (w ((if write then 8 else 4) + m / 64)).getLsbD (m % 64)

/-- DEDUCED, log entry 23. -/
def State.targetPermits (s : State) (d t m : Nat) (write : Bool) (pa : Nat) : Bool :=
  decide (m = 255) || (List.range 64).any fun i => s.windowPermits d t i m write pa

/-- Kinds of access as a capture records them (Table 15.5). -/
inductive Kind where
  | read
  | write
  | atomic
  deriving DecidableEq, Repr

def Kind.code : Kind → BitVec 2
  | .read => 0
  | .write => 1
  | .atomic => 2

/-- The target of this module that denies the access of `n` bytes at `key`, with the first denied line (R54, R86). Only
master 255 may access control space (R54). Host and peer memory have no table here. -/
def State.denial (s : State) (m : Nat) (kind : Kind) (key n : Nat) : Option (Nat × Nat × Nat) :=
  let bad := fun d t => ((linesOf key n).find? fun ln => !s.targetPermits d t m (kind != .read) (ln * 128)).map
    fun ln => (d, t, ln * 128)
  if m = 255 then none
  else match placeOf key with
    | .hbm d => bad d 0
    | .control d => some (d, 1, lineOf key * 128)
    | .reserved d => some (d, 0, lineOf key * 128)
    | _ => none

/-- Record a denial at its target (R405); the RDC of the other die keeps no copy of a line that a write or atomic was for,
also where its home agent has refused it (R63). -/
def State.capture (s : State) (m : Nat) (kind : Kind) (t : Nat × Nat × Nat) : State :=
  let s := if kind = .read then s else s.updDie (1 - t.1) fun x => { x with rdc := x.rdc.erase (t.2.2 / 128) }
  s.updDie t.1 fun d =>
    let blank : Capture := ⟨false, 0, 0, 0, 0⟩
    let c := Sparse.get blank d.captures t.2.1
    let c' : Capture := if c.v then { c with count := if c.count = BitVec.allOnes 32 then c.count else c.count + 1 }
      else ⟨true, BitVec.ofNat 8 m, kind.code, BitVec.ofNat 46 t.2.2, 0⟩
    { d with captures := Sparse.set blank d.captures t.2.1 c' }

/-! ## Translation (R75, R77 to R79) -/

/-- What an access does with the page (R77, R79). -/
inductive PageUse where
  | read
  | write
  | fetch
  deriving DecidableEq, Repr

/-- Translation of an address: the system address and whether the page is L1-bypass, or a reason of Table 3.9. -/
def State.translate (s : State) (core cid : Nat) (va : DWord) (use : PageUse) : Except Nat (Nat × Bool) :=
  if (va >>> 48) != 0 then .error 5
  else
    let leaf := match s.cached core cid va.toNat with
      | some e => Except.ok (e.pte, e.bits)
      | none => match s.walk (dieOfCore core) cid va.toNat with
        | .ok (p, lvl, _) => .ok (p, pageBits lvl)
        | .error e => .error e
    match leaf with
    | .error e => .error e
    | .ok (p, bits) =>
      if use = .write && !p.getLsbD 2 then .error 2
      else if use = .fetch && !p.getLsbD 3 then .error 3
      else .ok (leafKey p bits va.toNat, p.extractLsb' 6 2 == 1)

/-- A cache of `n` entries at most: those that go are a free choice, since the spec gives no policy of replacement. -/
def trimTo {α : Type} (n : Nat) (pick : Nat → Nat) (l : List α) : List α :=
  (List.range (l.length - n)).foldl (fun l i => l.eraseIdx (pick i % l.length)) l

/-- What a walk leaves in the home L2s (R60, R61). -/
def State.noteWalk (s : State) (core cid va : Nat) : State :=
  if !(s.desc cid 0).getLsbD 0 then s
  else (s.walkReads (dieOfCore core) cid va 3 (((s.desc cid 0).extractLsb' 12 34).toNat * 4096)).foldl
    (fun s a => s.noteHome a 8 false) s

/-- The page tables as they stand in the home L2s, no pointer entry in between, place a cached translation's page elsewhere,
or nowhere: its entry has been changed, and is not invalidated yet (R82). -/
def State.stale (s : State) (e : Tlb) : Bool :=
  let t := { s with dies := s.dies.mapVals fun _ d => { d with ptrc := [] } }
  match t.walk 0 e.cid (e.va * 2 ^ e.bits) with
  | .error _ => true
  | .ok (p, lvl, _) => leafKey p (pageBits lvl) (e.va * 2 ^ e.bits) != leafKey e.pte e.bits (e.va * 2 ^ e.bits)

/-- The page of `bits` bits at system address `key` comes into use by another translation: where one that is cached and
changed already names some of it, its context's software has not kept the order that R82 asks for (R1) (DEDUCED, log entry
72). -/
def State.noteReuse (s : State) (key bits : Nat) : State :=
  let old := fun (e : Tlb) =>
    let at' := leafKey e.pte e.bits (e.va * 2 ^ e.bits)
    decide (at' < key + 2 ^ bits) && decide (key < at' + 2 ^ e.bits) && s.stale e
  let cids := (s.cores.flatMap fun c => (c.2.tlb.filter old).map (·.cid))
    ++ s.dies.flatMap fun d => (d.2.stc.filter old).map (·.cid)
  cids.foldl State.breach s

/-- Install the translation of `va` if a walk finds one (R78); a walk that faults leaves nothing in a translation cache
(DEDUCED, log entry 22). -/
def State.installPage (s : State) (core cid va : Nat) : State :=
  match s.cached core cid va with
  | some _ => s
  | none =>
    match s.walk (dieOfCore core) cid va with
    | .error _ => s.noteWalk core cid va
    | .ok (p, lvl, ptrs) =>
      let s := (s.noteReuse (leafKey p (pageBits lvl) (va / 2 ^ pageBits lvl * 2 ^ pageBits lvl)) (pageBits lvl)).noteWalk
        core cid va
      let e : Tlb := ⟨cid, va / 2 ^ pageBits lvl, pageBits lvl, p⟩
      let pick := fun (i : Nat) => (s.free (10 ^ 15 + 8 * va + i)).toNat
      let s := s.updCore core fun c => { c with tlb := trimTo 512 pick (e :: c.tlb) }
      s.updDie (dieOfCore core) fun d =>
        { d with stc := trimTo 32768 pick (e :: d.stc), ptrc := trimTo 256 pick (ptrs ++ d.ptrc) }

/-! ## Accesses on a context's behalf (R85, R358) -/

/-- An access that did not go through: engine cause 0x05, 0x06 or 0x10, the reason of Table 3.9, the address, the denial to
be recorded. -/
structure AccFault where
  cause : BitVec 8
  reason : BitVec 8
  addr : DWord
  denial : Option (Nat × Kind × Nat × Nat × Nat)
  deriving DecidableEq, Repr

/-- Record the denial behind a fault (R405). -/
def State.noteFault (s : State) (f : AccFault) : State :=
  match f.denial with
  | some (m, k, t) => s.capture m k t
  | none => s

/-- The system addresses of `n` bytes at `va`, page by page, checked at their targets; a read that the RDC serves reaches
none (R83). -/
def State.segments (s : State) (core cid : Nat) (kind : Kind) : (fuel : Nat) → (va : DWord) → (n : Nat) →
    Except AccFault (List (Nat × Nat))
  | 0, _, _ => .ok []
  | fuel + 1, va, n =>
    if n = 0 then .ok []
    else
      let m := Nat.min n (65536 - va.toNat % 65536)
      match s.translate core cid va (if kind = .read then .read else .write) with
      | .error r => .error ⟨walkCode r, BitVec.ofNat 8 r, va, none⟩
      | .ok (key, _) =>
        match if kind = .read && s.inRdc (dieOfCore core) key m then none else s.denial cid kind key m with
        | some t => .error ⟨6, 0, va, some (cid, kind, t)⟩
        | none =>
          match s.segments core cid kind fuel (va + BitVec.ofNat 64 m) (n - m) with
          | .error e => .error e
          | .ok l => .ok ((key, m) :: l)

/-- DEDUCED, log entry 60. -/
def State.ctxSegments (s : State) (core cid : Nat) (kind : Kind) (va : DWord) (n : Nat) :
    Except AccFault (List (Nat × Nat)) := s.segments core cid kind (n / 65536 + 2) va n

/-- What the walks for `n` bytes from `va` leave in the translation caches and in the home L2s (R60, R78). -/
def State.notePages (s : State) (core cid : Nat) (va : DWord) (n : Nat) : State :=
  ((List.range ((va.toNat % 65536 + n + 65535) / 65536)).map fun i => va.toNat + 65536 * i).foldl
    (fun s a => s.installPage core cid a) s

/-- What reading `n` bytes of the context's memory leaves in the levels below and in the translation caches (R21, R60, R61,
R78). -/
def State.noteCtxRead (s : State) (core cid : Nat) (va : DWord) (n : Nat) : State :=
  match s.ctxSegments core cid .read va n with
  | .error _ => s
  | .ok l => (s.notePages core cid va n).noteReads (dieOfCore core) l false

/-- What reading `n` bytes of the context's memory at their home leaves there and in the translation caches: of an operation
that its home L2 performs (R42, R60, R78). -/
def State.noteCtxHome (s : State) (core cid : Nat) (va : DWord) (n : Nat) : State :=
  match s.ctxSegments core cid .read va n with
  | .error _ => s
  | .ok l => l.foldl (fun s x => s.noteHome x.1 x.2 false) (s.notePages core cid va n)

/-- Read `n` bytes of the context's memory at their place of performance; an uncorrectable error is cause 0x10, of which
the context is terminated (R389); what that leaves in the caches is
`State.noteCtxRead`'s. -/
def State.ctxRead (s : State) (core cid : Nat) (va : DWord) (n : Nat) : Except AccFault (List Byte) :=
  match s.ctxSegments core cid .read va n with
  | .error e => .error e
  | .ok l =>
    if l.any fun x => s.isBad x.1 x.2 then .error ⟨0x10, 0, va, none⟩ else .ok (l.flatMap fun x => s.bytesAt 0 x.1 x.2)

/-- Bytes written by an engine to global memory; its own core's L1 sectors go (R58) (DEDUCED, log entry 22). -/
def State.dropL1 (s : State) (core key n : Nat) : State :=
  s.updCore core fun c =>
    { c.l1Keep fun a => !(decide (key / 32 ≤ a / 32) && decide (a / 32 ≤ (key + n - 1) / 32)) with
      fills := c.fills.map fun f => if (linesOf key n).contains f.line then { f with overtaken := true } else f }

def State.writeSegments (s : State) (core : Nat) : List (Nat × Nat) → List Byte → State
  | [], _ => s
  | (key, m) :: l, bs => ((s.homeWrite key (bs.take m)).dropL1 core key m).writeSegments core l (bs.drop m)

/-- Write bytes to the context's memory at their place of performance, by way of the translations (R78). -/
def State.ctxWrite (s : State) (core cid : Nat) (va : DWord) (bs : List Byte) : Except AccFault State :=
  match s.ctxSegments core cid .write va bs.length with
  | .error e => .error e
  | .ok l => .ok ((s.notePages core cid va bs.length).writeSegments core l bs)

def State.ctxRead64 (s : State) (core cid : Nat) (va : DWord) : Except AccFault DWord :=
  match s.ctxRead core cid va 8 with
  | .error e => .error e
  | .ok bs => .ok (BitVec.ofNat 64 (ofBytes bs))

/-- `n` 64-bit words (grid records, TFT entries, shape records). -/
def State.ctxRead64s (s : State) (core cid : Nat) (va : DWord) (n : Nat) : Except AccFault (List DWord) :=
  match s.ctxRead core cid va (8 * n) with
  | .error e => .error e
  | .ok bs => .ok ((List.range n).map fun i => BitVec.ofNat 64 (ofBytes ((bs.drop (8 * i)).take 8)))

def bytes64 (x : DWord) : List Byte := toBytes 8 x.toNat
def bytes32 (x : Word) : List Byte := toBytes 4 x.toNat

/-! ## Completion flags (R110, R111) -/

/-- An operation or command of the warp has still to read its sources under flag `f`. -/
def State.readsUnder (s : State) (wid f : Nat) : Bool :=
  ((s.warp wid).ops.any fun e => e.2.setA == some f && e.2.srcPending && !(e.2.loose && e.2.setB == some f))
    || s.cmds.any fun e => e.2.wid == wid && e.2.setA == some f && e.2.srcPending && !(e.2.loose && e.2.setB == some f)

/-- An operation or command of the warp has still to complete under flag `f`. -/
def State.completesUnder (s : State) (wid f : Nat) : Bool :=
  ((s.warp wid).ops.any fun e => e.2.setB == some f && !e.2.loose)
    || s.cmds.any fun e => e.2.wid == wid && e.2.setB == some f && !e.2.loose && e.2.st != .finishing

/-- The opcodes of a clause's instruction words, literals and prefixes left out (fuel: at most 15 words). -/
def clauseOps (cls : Cls) : (fuel : Nat) → List Word → List Nat
  | 0, _ => []
  | _, [] => []
  | n + 1, w :: rest =>
    if isPrefix cls w then clauseOps cls n rest
    else (fOp w).toNat :: clauseOps cls n (if takesLiteral cls w then rest.drop 1 else rest)

/-- The opcode is of a long-latency operation (R113): with or without QM, which the S-class float operations depend on. -/
def longOpcode (cls : Cls) (op : Nat) : Bool :=
  match cls with
  | .l | .m | .c => true
  | .f => decide (0x17 ≤ op && op ≤ 0x1F) || decide (0x26 ≤ op)
  | .s => decide (0x1C ≤ op && op ≤ 0x21)
  | _ => false

/-- The clause in progress may still read sources under its SETA flag: long-latency operations of it have still to issue, or
none has issued, and the flag clears with its last instruction (R111). -/
def Run.moreSources (r : Run) : Bool := !r.long || (clauseOps r.cls 16 (r.words.drop (r.idx - 1))).any (longOpcode r.cls)

/-- The clause of the run is in progress and holds flag `f` (R111): as SETA while it may still read sources under it, as
SETB to its end. -/
def Run.holds (r : Run) (wid f : Nat) : Bool :=
  r.wid == wid && !r.atClause
    && (r.setA == some f && r.moreSources && !(r.loose && r.setB == some f) || r.setB == some f && !r.loose)

/-- An operation whose sources were overwritten after it had made use of them, while they were its clause's: in those lanes
what it wrote is unspecified, its destinations or memory (R113) (DEDUCED, log entry 20). -/
def State.blame (s : State) (wid : Nat) (o : Op) : State :=
  if o.stray = 0 then s
  else if o.isStore || o.isAtomic || o.isCommand then s.breach (s.warp wid).cid
  else s.updWarp wid fun w => { w with unspec := o.dests.foldl (fun u d =>
    (lanesOf (if d.reg.uniform then d.lanes else d.lanes &&& o.stray)).foldl (fun u l =>
      let p := d.reg.place l
      if u.contains p then u else p :: u) u) w.unspec }

/-- Flag `f` has cleared: operations complete under it as SETA own their sources no longer, and what it kept pending is
readable (R113). -/
def State.release (s : State) (wid f : Nat) : State :=
  let gone := (s.warp wid).spent.filter fun e => e.2.setA == some f
  gone.foldl (fun s e => s.blame wid e.2)
    (s.updWarp wid fun w => { w with spent := w.spent.filter fun e => e.2.setA != some f }.prune)

/-- A clause of the warp is in progress that names flag `f`. -/
def State.clauseHolds (s : State) (wid f : Nat) : Bool := s.focus.holds wid f || s.runs.any fun e => e.2.holds wid f

/-- Clear flag `f` if nothing holds it any longer (R111). -/
def State.settle (s : State) (wid f : Nat) : State :=
  if s.clauseHolds wid f || s.readsUnder wid f || s.completesUnder wid f then s
  else (s.updWarp wid fun w => { w with busy := w.busy &&& ~~~(1#12 <<< f) }).release wid f

/-- A flag with an error status clears at once, whatever else it was waiting for (R110, R111). -/
def State.loosen (s : State) (wid f : Nat) : State :=
  let free := fun (r : Run) => if r.wid = wid ∧ !r.atClause ∧ r.setB = some f then { r with loose := true } else r
  let s := { s with
    focus := free s.focus
    runs := s.runs.mapVals fun _ r => free r
    cmds := s.cmds.mapVals fun _ c => if c.wid = wid ∧ c.setB = some f then { c with loose := true } else c }
  (s.updWarp wid fun w =>
    { w with
      busy := w.busy &&& ~~~(1#12 <<< f)
      ops := w.ops.map fun (e : Nat × Op) => (e.1, if e.2.setB = some f then { e.2 with loose := true } else e.2) }).release
    wid f

def State.settleOpt (s : State) (wid : Nat) : Option Nat → State
  | none => s
  | some f => s.settle wid f

/-! ## The event queue (R355) -/

/-- Its address and its capacity in records. -/
def State.eqBase (s : State) (cid : Nat) : DWord := s.desc cid 4 &&& 0x0000FFFFFFFFFFC0
def State.eqCapacity (s : State) (cid : Nat) : Nat := 2 ^ (((s.desc cid 4).extractLsb' 0 4).toNat + 4)

/-- PUT and GET of the context's event queue. -/
def State.eqCounts (s : State) (core cid : Nat) : Except AccFault (DWord × DWord) :=
  match s.ctxRead64 core cid (s.eqBase cid) with
  | .error f => .error f
  | .ok p => match s.ctxRead64 core cid (s.eqBase cid + 8) with
    | .error f => .error f
    | .ok g => .ok (p, g)

/-- What reading the counts leaves in the caches (R60, R61). -/
def State.noteCounts (s : State) (core cid : Nat) : State := s.noteCtxRead core cid (s.eqBase cid) 16

/-- Address of record `n` of the queue (DEDUCED, log entry 42). -/
def State.eqRecord (s : State) (cid : Nat) (n : DWord) : DWord :=
  s.eqBase cid + 64 + BitVec.ofNat 64 (16 * (n.toNat % s.eqCapacity cid))

/-- Append a record, its TIME field added; none while there is no room. -/
def State.appendRecord (s : State) (core cid : Nat) (bytes : List Byte) : Except AccFault (Option State) :=
  match s.eqCounts core cid with
  | .error f => .error f
  | .ok (p, g) =>
    if s.eqCapacity cid ≤ (p - g).toNat then .ok none
    else match s.ctxWrite core cid (s.eqRecord cid p) (bytes ++ toBytes 4 (s.time.toNat % 2 ^ 32)) with
      | .error f => .error f
      | .ok t => match (t.noteCounts core cid).ctxWrite core cid (s.eqBase cid) (bytes64 (p + 1)) with
        | .error f => .error f
        | .ok u => .ok (some u)

/-- A grid's completion record without its TIME (Table 13.9). -/
def Grid.record (g : Grid) (n : Nat) (status : BitVec 8) : List Byte :=
  [1, status, 0, 0] ++ toBytes 4 n ++ toBytes 4 (g.gr.nx * g.gr.ny * g.gr.nz)

/-! ## Words of the job control block, the end of a job (R335, R337, R403) -/

/-- The control core whose translations the device uses for a context's own structures (DEDUCED, log entry 60). -/
def State.jobCore (s : State) (cid : Nat) : Nat := 128 + ((s.ctx cid).job.map (·.die)).getD 0

/-- The job of `cid` ends with STATUS `st` and cause `c`: ENDTIME, then STATUS; RUN clears; the interrupt, if enabled.
A STATUS write that cannot be performed sets JCBERR (R358, R403). -/
def State.endJob (s : State) (cid : Nat) (st c : BitVec 8) : State :=
  match (s.ctx cid).job with
  | none => s
  | some j =>
    let pc := s.jobCore cid
    let (s, st, c) := match s.ctxWrite pc cid (j.jcb + 0x28) (bytes64 s.time) with
      | .ok t => (t, st, c)
      | .error f => (s.noteFault f, 3, f.cause)
    let s := match s.ctxWrite pc cid (j.jcb + 0x20) (bytes64 (BitVec.ofNat 64 (st.toNat + 256 * c.toNat))) with
      | .ok t => t
      | .error f => (s.noteFault f).updCtx cid fun x => { x with jcberr := true }
    let s := { s with warps := s.warps.erase j.conductor
                      cores := s.cores.mapVals fun _ k => { k with
                        age := k.age.map fun (l : List Nat) => l.filter (· != j.conductor) }
                      runs := s.runs.filter fun e => e.2.wid != j.conductor }
    let s := s.updCtx cid fun x => { x with job := none }
    if (s.ctx cid).irqen then { s with outbox := s.outbox ++ [.msix cid] } else s

/-! ## Context termination (R389) -/

/-- The grid is not finished (Table 13.7). -/
def Grid.open (g : Grid) : Bool :=
  g.st == .queued || g.st == .held || g.st == .placing || g.st == .running

/-- Writes of a terminated context in flight may or may not be performed; what its target denies is not. -/
def State.dropOutbound (s : State) (cid : Nat) : State :=
  s.cores.keys.foldl (fun s c =>
    let mine := (s.core c).outbound.filter fun e => e.2.cid == cid
    let s := s.updCore c fun k => { k with outbound := k.outbound.filter fun e => e.2.cid != cid }
    mine.foldl (fun s e => 
      if s.freeBool (600000 + e.1) && (s.denial e.2.cid .write e.2.key e.2.data.length).isNone then
        s.homeWrite e.2.key e.2.data
      else s) s) s

/-- The open grids of a terminated context fail; a completion record is appended if the queue can be written
(DEDUCED, log entry 44). -/
def State.failGrids (s : State) (cid : Nat) (status : BitVec 8) : State :=
  (s.ctx cid).grids.foldl (fun s e =>
    if e.2.open then
      let s := s.updGrid cid e.1 fun g => { g with st := .failed, status := status, waiting := [] }
      if e.2.gr.eqrec then
        match s.appendRecord (s.jobCore cid) cid (e.2.record e.1 status) with
        | .ok (some t) => t
        | _ => s
      else s
    else s) s

/-- Terminate a context with a status: warps stop, commands stop, blocks end, grids fail, the job ends (R389)
(DEDUCED, log entry 44; DEDUCED, log entry 64). -/
def State.terminate (s : State) (cid : Nat) (status : BitVec 8) : State :=
  let s := s.dropOutbound cid
  let wids := (s.warps.filter fun e => e.2.cid == cid && e.2.grid != 0).map (·.1)
  let s := { s with
    warps := s.warps.filter fun e => e.2.cid != cid || e.2.grid == 0
    blocks := s.blocks.filter fun e => e.2.cid != cid
    gangs := s.gangs.filter fun e => e.2.cid != cid
    cmds := s.cmds.filter fun e => e.2.cid != cid
    runs := s.runs.filter fun e => !wids.contains e.2.wid
    focus := if wids.contains s.focus.wid || (s.warp s.focus.wid).cid == cid then { s.focus with stop := true }
      else s.focus
    cores := s.cores.mapVals fun _ k => { k with
      age := k.age.map fun (l : List Nat) => l.filter fun w => !wids.contains w
      locks := k.locks.filter fun l => l.cid != cid
      rlines := k.rlines.filter fun r => !wids.contains (r.1 / 64) }
    dies := s.dies.mapVals fun d k => { k with
      warpImages := k.warpImages.filter fun i => i / 4096 != cid
      blockImages := k.blockImages.filter fun i =>
        !(s.blocks.any fun b => b.2.cid == cid && b.2.saveImage == some (d, i)) } }
  let s := s.updCtx cid fun c => { c with walk := none, detector := none, evq := [] }
  (s.failGrids cid status).endJob cid 3 status

/-! ## Taking a trap (R375 to R384) and returning from it (R388) -/

/-- Where RTE resumes (Table 14.1). -/
inductive Resume where
  | rpc
  | flag (a : Pc)
  | next (a : Pc)
  | current
  deriving DecidableEq, Repr

/-- A trap as it is delivered: the fields of TRAPINFO0 and TRAPADDR, the trapped set, the resume point. -/
structure TrapInfo where
  code : BitVec 8
  cause : BitVec 8
  addr : DWord
  flag : Option Nat
  word : Option Nat
  lane : Option Nat
  deferred : Bool
  set : Lanes
  resume : Resume
  deriving DecidableEq, Repr

def Warp.pcOf (w : Warp) (l : Nat) : Pc := Sparse.get w.entry w.pc l
def Warp.setPc (w : Warp) (l : Nat) (a : Pc) : Warp := { w with pc := Sparse.set w.entry w.pc l a }
def Warp.rpcOf (w : Warp) (l : Nat) : Pc := Sparse.get w.entry w.rpc l
def Warp.setRpc (w : Warp) (l : Nat) (a : Pc) : Warp := { w with rpc := Sparse.set w.entry w.rpc l a }

/-- TRAPINFO0 (Table 14.3) (DEDUCED, log entry 11). -/
def TrapInfo.info0 (t : TrapInfo) : Word :=
  BitVec.ofBool t.deferred ++ (BitVec.ofNat 4 (t.flag.getD 15) ++ (BitVec.ofBool t.word.isSome
    ++ (BitVec.ofNat 4 (t.word.getD 0) ++ (BitVec.ofBool t.lane.isSome ++ (BitVec.ofNat 5 (t.lane.getD 0)
    ++ (t.cause ++ t.code))))))

/-- The resume point of a thread (R381) (DEDUCED, log entry 11). -/
def TrapInfo.resumePc (t : TrapInfo) (w : Warp) (l : Nat) : Pc :=
  match t.resume with
  | .rpc => w.rpcOf l
  | .flag a => a
  | .next a => a
  | .current => w.pcOf l

/-- The trap registers and the trapped set's resume points, as entry writes them (R377, R381). -/
def Warp.enter (w : Warp) (t : TrapInfo) (handler : Pc) : Warp :=
  let w1 := (lanesOf t.set).foldl (fun x l => x.setPc l (t.resumePc w l)) w
  { w1 with
    trapinfo0 := t.info0
    trapinfo1 := (t.resumePc w (lowestLane t.set)).truncate 32
    trapaddr := t.addr
    pk := w.pk &&& ~~~t.set
    inHandler := true
    hpc := (lanesOf t.set).map fun l => (l, handler)
    trapped := t.set
    draining := true
    fetched := none }

/-- The warp ends with the code as its error status (R384). -/
def Warp.endWith (w : Warp) (code : BitVec 8) : Warp :=
  { w with live := 0, helper := 0, pk := 0, blocked := none, heldWait := none, inHandler := false, trapped := 0
           hpc := [], fetched := none, err := if w.err = 0 then code else w.err }

/-- The run of the focus stops when its warp traps. -/
def State.stopRun (s : State) (wid : Nat) : State :=
  if s.focus.wid = wid then { s with focus := { s.focus with stop := true, after := none } } else s

/-- TAKE A TRAP: a fetch or an event-queue access that met an uncorrectable error terminates the context (R389); in handler
mode the context is terminated (R383); a conductor's job fails (R384); with no handler the
warp ends (R384); otherwise the warp enters handler mode at the address in HANDLER (R335, R381). -/
def State.trap (s : State) (wid : Nat) (t : TrapInfo) : State :=
  let w := s.warp wid
  let s := s.stopRun wid
  if t.code = 0x10 || w.inHandler then s.terminate w.cid t.code
  else if w.grid = 0 then
    (s.setWarp wid (w.endWith t.code)).updCtx w.cid fun c =>
      { c with job := c.job.map fun j => { j with cause := if j.cause.isSome then j.cause else some t.code } }
  else
    match (s.ctx w.cid).job with
    | none => s.setWarp wid (w.endWith t.code)
    | some j =>
      match s.ctxRead64 w.core w.cid (j.jcb + 0x10) with
      | .error f => (s.noteFault f).terminate w.cid f.cause
      | .ok h => (s.noteCtxRead w.core w.cid (j.jcb + 0x10) 8).setWarp wid
          (if h = 0 then w.endWith t.code else w.enter t (h.truncate 48))

/-- A trap before issue or precise on an instruction of the executing clause (R379): the run's threads, resume at RPC,
TRAPADDR the clause header unless given (DEDUCED, log entry 13). -/
def State.trapHere (s : State) (code cause : BitVec 8) (addr : Option DWord) (word lane : Option Nat) : State :=
  s.trap s.focus.wid
    ⟨code, cause, addr.getD (s.focus.hdr.zeroExtend 64), none, word, lane, false, s.focus.threads, .rpc⟩

/-- A precise trap of the executing word (R375) (DEDUCED, log entry 13). Where that has a prefix, WORD is the prefix's index
(DESIGN CHOICE, log entry 12). -/
def State.trapWord (s : State) (code cause : BitVec 8) (addr : Option DWord) (lane : Option Nat) : State :=
  s.trapHere code cause addr (some s.focus.idx) lane

/-- RETURN FROM A TRAP (R388): handler mode ends; the trapped set's PCs already hold the resume points; a wait that a
hang trap interrupted is taken up again (R390). -/
def Warp.leaveHandler (w : Warp) : Warp :=
  { w with inHandler := false, hpc := [], trapped := 0, draining := false, blocked := w.heldWait, pendWord := w.heldWord, heldWait := none
           fetched := none }

end Sys2Proof.Machine
end

