-- ==== Sys2Proof/Machine/Operands.lean ====
section
/-! DEFINITION. Operand forms: guards (R120 to R122), fourth operand and write mask (R130, R131), the writes of vector,
pair and predicate destinations, and the entry of a long-latency operation among those in flight (R113). -/

namespace Sys2Proof.Machine

/-- The lanes of the run: its threads and the helpers that shadow them (R242). -/
def Run.lanes (r : Run) : Lanes := r.threads ||| r.shadows

def State.rdV (s : State) (r : Reg) (l : Nat) : Word := s.rd (.v r.toNat) l
def State.rdW (s : State) (r : Reg) : Word := s.rd (.w r.toNat) 0
def State.rdP (s : State) (r : Nat) (l : Nat) : Bool := s.rd (.p r) l != 0
/-- The same as the second and third operands of an instruction: an unspecified register may give each another value (R2). -/
def State.rdV1 (s : State) (r : Reg) (l : Nat) : Word := s.rdAt 1 (.v r.toNat) l
def State.rdV2 (s : State) (r : Reg) (l : Nat) : Word := s.rdAt 2 (.v r.toNat) l
def State.rdW1 (s : State) (r : Reg) : Word := s.rdAt 1 (.w r.toNat) 0
def State.rdW2 (s : State) (r : Reg) : Word := s.rdAt 2 (.w r.toNat) 0
def State.rdP1 (s : State) (r : Nat) (l : Nat) : Bool := s.rdAt 1 (.p r) l != 0
def State.rdK (s : State) (r : Nat) : Bool := s.rd (.k r) 0 != 0
/-- The predicates an instruction reads beside its operands proper, each a reading of its own (R2): guard, write mask, and the
old value that a compare combines with. -/
def State.rdGuard (s : State) (r l : Nat) : Bool := s.rdAt 3 (.p r) l != 0
def State.rdGuardK (s : State) (r : Nat) : Bool := s.rdAt 3 (.k r) 0 != 0
def State.rdMask (s : State) (r l : Nat) : Bool := s.rdAt 4 (.p r) l != 0
def State.rdOld (s : State) (r l : Nat) : Bool := s.rdAt 5 (.p r) l != 0
/-- A pair of vector registers in one lane, low register first (Table 0.3). -/
def State.rdV64 (s : State) (r : Reg) (l : Nat) : DWord := s.rd (.v (r.toNat + 1)) l ++ s.rd (.v r.toNat) l
def State.rdW64 (s : State) (r : Reg) : DWord := s.rd64 r.toNat
def State.rdV641 (s : State) (r : Reg) (l : Nat) : DWord := s.rdAt 1 (.v (r.toNat + 1)) l ++ s.rdAt 1 (.v r.toNat) l
def State.rdW641 (s : State) (r : Reg) : DWord := s.rdAt 1 (.w (r.toNat + 1)) 0 ++ s.rdAt 1 (.w r.toNat) 0

/-- Active(l) under a lane guard (R120). -/
def State.active (s : State) (g : LGuard) : Lanes :=
  if g.e then maskOf fun l => s.focus.lanes.getLsbD l && (s.rdGuard g.p.toNat l != g.s) else s.focus.lanes

/-- Active lanes that are no helpers. -/
def State.activeThreads (s : State) (g : LGuard) : Lanes := s.active g &&& ~~~s.self.helper

/-- The instruction executes under a uniform guard (R121). -/
def State.uholds (s : State) (g : UGuard) : Bool := !g.e || (s.rdGuardK g.k.toNat != g.s)

/-- The fourth operand's register: c of the prefix, or the destination (R130). -/
def fourth (x : Option VPfx) (d : Reg) : Reg :=
  match x with
  | some p => p.c
  | none => d

/-- The destination of lane l is written with the result (R131) (DEDUCED, log entry 19). -/
def State.maskOn (s : State) (x : Option VPfx) (l : Nat) : Bool :=
  match x with
  | some p => !p.wme || s.rdMask p.wmp.toNat l
  | none => true

/-- A masked-off lane is zeroed (R131). -/
def zeroes : Option VPfx → Bool
  | some p => p.zp
  | none => false

/-- Lanes whose destination changes (DEDUCED, log entry 19). -/
def State.writtenLanes (s : State) (x : Option VPfx) (act : Lanes) : Lanes :=
  if zeroes x then act else maskOf fun l => act.getLsbD l && s.maskOn x l

/-- One lane of a destination register under the write mask; `s0` is the state the instruction reads (R10). -/
def putLane (s0 : State) (x : Option VPfx) (n : RegName) (l : Nat) (r : Word) (s : State) : State :=
  if s0.maskOn x l then s.wr n l r else if zeroes x then s.wr n l 0 else s

/-- Write `f l` to vd in the active lanes. -/
def State.vecSet (s : State) (x : Option VPfx) (act : Lanes) (d : Reg) (f : Nat → Word) : State :=
  (lanesOf act).foldl (fun t l => putLane s x (.v d.toNat) l (f l) t) s

/-- Write the 64-bit `f l` to the pair vd, vd+1. -/
def State.vecSet2 (s : State) (x : Option VPfx) (act : Lanes) (d : Reg) (f : Nat → DWord) : State :=
  (lanesOf act).foldl (fun t l => putLane s x (.v (d.toNat + 1)) l ((f l >>> 32).truncate 32)
    (putLane s x (.v d.toNat) l ((f l).truncate 32) t)) s

/-- Write a predicate. -/
def State.predSet (s : State) (x : Option VPfx) (act : Lanes) (t : BitVec 4) (f : Nat → Bool) : State :=
  (lanesOf act).foldl (fun u l => putLane s x (.p t.toNat) l (boolWord (f l)) u) s

/-- The combine field of form CP (Table 5.5): set, AND into, OR into. -/
def State.combine (s : State) (m : BitVec 2) (t : BitVec 4) (l : Nat) (b : Bool) : Bool :=
  if m = 0 then b else if m = 1 then s.rdOld t.toNat l && b else s.rdOld t.toNat l || b

/-! ## Entering an operation among those in flight -/

/-- On a control core, class L and RET name uniform registers (R354). -/
def Warp.dataReg (w : Warp) (r : Nat) : RegName := if w.role = .control then .w r else .v r
def State.rdL (s : State) (r : Nat) (l : Nat) : Word := s.rd (s.self.dataReg r) l

/-- The operation reads its sources as it issues (R296): every Q instruction, and the float instructions of class S with QM
set. -/
def readsSources (i : Instr) (qm : Bool) : Bool :=
  match i with
  | .qadd _ | .qsub _ | .qmul _ | .qdiv _ | .qcvt _ | .qfrom _ | .qnum _ | .qden _ | .qmed _ | .qrnd _ | .qsetpEq _
  | .qsetpNe _ | .qsetpLt _ | .qsetpLe _ | .qsetpGt _ | .qsetpGe _ | .qrec _ | .qclass _ => true
  | .faddw _ | .fsubw _ | .fmulw _ | .ffmaw _ | .fdivw _ | .fcmpw _ => qm
  | _ => false

/-- An operation as it issues from the executing clause; the fields a family needs are set over this
(DEDUCED, log entry 9). -/
def State.newOp (s : State) (i : Instr) (act : Lanes) : Op where
  ins := i; lanes := act; helpers := act &&& s.self.helper; threads := s.focus.threads; word := s.focus.idx; caps := []; dests := []; mode := s.self.mode
  clause := s.focus.hdr; rpc := s.self.rpcOf (lowestLane s.focus.threads); setA := s.focus.setA; setB := s.focus.setB
  srcPending := !readsSources i (s.self.mode.getLsbD 3); addrRegs := []; stray := 0; loose := s.focus.loose; space := .global; size := 0; accesses := []; isLoad := false; isStore := false
  isAtomic := false; acquire := false; release := false; scope := 3; bypass := false; mark := .normal
  atOrder := false; ord := 0; fenceDone := false; cut := none

/-- The operation with its registers as the warp names them when it issues (R382). -/
def Op.named (o : Op) (w : Warp) : Op :=
  { o with caps := o.caps.map fun (c : Cap) => { c with reg := w.named c.reg }
           addrRegs := o.addrRegs.map w.named
           dests := o.dests.map fun (d : Dest) => { d with reg := w.named d.reg } }

/-- The destinations of an operation as it issues: pending from here on; one that is another operation's destination too is
unspecified once both have written it, any other is no longer (R113). -/
def Warp.owe (w : Warp) (id : Nat) (setB : Option Nat) (dests : List Dest) : Warp :=
  { w with
    unspec := dests.foldl (fun u d => (lanesOf d.lanes).foldl (fun u l =>
      let p := d.reg.place l
      if w.pendingAt d.reg l then (if u.contains p then u else p :: u) else u.filter (· != p)) u) w.unspec
    dues := w.dues ++ dests.map fun d => ⟨id, d, setB, false, true⟩ }

/-- The operation is in flight from here on (DEDUCED, log entry 40). -/
def State.pushOp (s : State) (o : Op) : State :=
  let o := o.named s.self
  let t := if o.isStore || o.isAtomic then s.noteActive s.self.blk else s
  { t.setSelf { s.self.owe s.nextId s.focus.setB o.dests with ops := s.self.ops ++ [(s.nextId, o)] } with
    nextId := s.nextId + 1, focus := { s.focus with long := true } }

/-- The values of a vector register in all lanes, as an operation reads its source. -/
def State.capV (s : State) (r : Nat) : Cap := ⟨.v r, (List.range 32).map (s.rd (.v r))⟩
def State.capAt (s : State) (i r : Nat) : Cap := ⟨.v r, (List.range 32).map (s.rdAt i (.v r))⟩
def State.capP (s : State) (i r : Nat) : Cap := ⟨.p r, (List.range 32).map (s.rdAt i (.p r))⟩
def State.capW (s : State) (r : Nat) : Cap := ⟨.w r, [s.rd (.w r) 0]⟩

def State.capL (s : State) (r : Nat) : Cap := if s.self.role = .control then s.capW r else s.capV r

/-- Lane `l` of captured source `i`. -/
def Op.cap (o : Op) (i l : Nat) : Word := ((o.caps.getD i ⟨.v 0, []⟩).vals).getD l 0

/-- A long-latency vector operation with the sources given; the write mask is read at issue with them (R131)
(DEDUCED, log entry 18). -/
def State.issueLong (s : State) (i : Instr) (x : Option VPfx) (act : Lanes) (srcs : List Reg) (dests : List RegName) :
    State :=
  if act = 0 then s
  else
    let wm := match x with
      | some p => if p.wme then [s.capP 4 p.wmp.toNat] else []
      | none => []
    s.pushOp { s.newOp i act with
      caps := (srcs.zipIdx.map fun r => s.capAt r.2 r.1.toNat) ++ wm
      dests := dests.map fun n => ⟨n, s.writtenLanes x act⟩ }

end Sys2Proof.Machine
end

