-- ==== Sys2Proof/Machine/Flags.lean ====
section
/-! DEFINITION. The flag computations: what a clause header asks of the completion flags (R110, R112), FLAGSTAT (R114),
and the comparison and carry conditions of the integer instructions (08). -/

namespace Sys2Proof.Machine

/-! ## The clause header (R108) -/

def hMagic (h : Word) : BitVec 3 := h.extractLsb' 29 3
def hCount (h : Word) : Nat := (h.extractLsb' 25 4).toNat
def hClass (h : Word) : Cls :=
  match (h.extractLsb' 22 3).toNat with
  | 0 => .s
  | 1 => .v
  | 2 => .f
  | 3 => .l
  | 4 => .x
  | 5 => .m
  | 6 => .c
  | _ => .y
def hWait (h : Word) : BitVec 12 := h.extractLsb' 10 12
/-- SETA and SETB: 0 to 11 name a flag; 15 is none, and 12 to 14 fail check 3. -/
def hSet (n : BitVec 4) : Option Nat := if n.toNat < 12 then some n.toNat else none
def hSetA (h : Word) : Option Nat := hSet (h.extractLsb' 6 4)
def hSetB (h : Word) : Option Nat := hSet (h.extractLsb' 2 4)
def hRegion (h : Word) : Bool := h.getLsbD 1
def hBoundary (h : Word) : Bool := h.getLsbD 0

def flagBit : Option Nat → BitVec 12
  | none => 0
  | some f => 1#12 <<< f

/-- The flags a clause names, in WAIT, SETA or SETB (R112). -/
def hFlags (h : Word) : BitVec 12 := hWait h ||| flagBit (hSetA h) ||| flagBit (hSetB h)

/-- The lowest-numbered of the named flags that carries an error status (R112). -/
def Warp.errFlag (w : Warp) (mask : BitVec 12) : Option (Nat × FlagErr) :=
  (w.ferr.filter fun e => mask.getLsbD e.1).head?

/-- A named flag is busy: the clause waits (R110). -/
def Warp.waits (w : Warp) (mask : BitVec 12) : Bool := (w.busy &&& mask) != 0

/-- FLAGSTAT (Table 5.2). -/
def Warp.flagstat (w : Warp) : Word :=
  (0#4 ++ (w.ferr.foldl (fun m e => m ||| (1#12 <<< e.1)) 0#12)) ++ (0#4 ++ w.busy)

/-! ## Comparisons -/

/-- The conditions of forms CS and CP (Table 5.5), from less-than and equal. -/
inductive Cond where
  | eq
  | ne
  | lt
  | le
  | gt
  | ge
  deriving DecidableEq, Repr

def Cond.holds (c : Cond) (lt eq : Bool) : Bool :=
  match c with
  | .eq => eq
  | .ne => !eq
  | .lt => lt
  | .le => lt || eq
  | .gt => !(lt || eq)
  | .ge => !lt

/-- CS condition codes (Table 5.5). -/
def Cond.ofCode (c : BitVec 3) : Cond :=
  match c.toNat with
  | 0 => .eq
  | 1 => .ne
  | 2 => .lt
  | 3 => .le
  | 4 => .gt
  | _ => .ge

/-- Integer comparison, signed or unsigned. -/
def cmpInt (signed : Bool) (c : Cond) (a b : Word) : Bool :=
  c.holds (if signed then a.slt b else a.ult b) (a == b)

end Sys2Proof.Machine
end

