-- ==== Sys2Proof/Machine/Sync.lean ====
section
/-! DEFINITION. Releases and acquires (12, R312 to R320), phasers (13, R344 to R351), grid phasers (R346), stage rings
(R352), and the waking of the warps that wait on them. -/

namespace Sys2Proof.Machine

/-! ## Acquire and release -/

/-- An acquire at .gang scope or wider invalidates the core's L1; fills in flight are overtaken (R57). -/
def State.invalidateL1 (s : State) (core : Nat) : State :=
  s.updCore core fun c => { c with l1 := [], l1tags := [], fills := c.fills.map fun f => { f with overtaken := true } }

/-- An acquire at a scope (0 .blk to 4 .sys) by a warp on `core` (R320). -/
def State.acquire (s : State) (core scope : Nat) : State := if scope = 0 then s else s.invalidateL1 core

/-- The accesses of an atomic that the core has sent to a home on the other die, or to any home: neither tile memory nor,
at .blk scope without bypass, the core's own L1 performs them (R163). -/
def Op.sentTo (o : Op) (there : Nat → Bool) : List Access :=
  if o.isAtomic && o.atOrder && o.space == .global then
    o.accesses.filter fun a => !a.done && !a.denied && !(o.scope == 0 && !a.bypass) && there a.key
  else []

/-- The Graft switch's counter for the load-store unit of a core (R314): the writes and atomics sent to the other die before
number `limit` that its L2 has not acknowledged. The engines' writes are acknowledged in the step that makes them, so
that their counters stand at 0. -/
def State.graftCount (s : State) (core limit : Nat) : Nat :=
  let there := remoteTo (dieOfCore core)
  ((s.core core).outbound.filter fun e => decide (e.1 < limit) && there e.2.key).length
    + (s.warps.flatMap fun w => if w.2.core = core then w.2.ops.flatMap fun e =>
        if e.2.ord < limit then e.2.sentTo there else [] else []).length

/-- Graft has accepted the core's write or atomic number `n` to the other die: until the counter of its source falls below
65,535 the next one is held at the port (R314). -/
def State.graftAccepts (s : State) (core n : Nat) : Bool := decide (s.graftCount core n < 65535)

/-- Accesses of `n` and `m` bytes touch a line in common. -/
def sameLines (key n other m : Nat) : Bool :=
  decide (lineOf other ≤ lineOf (key + n - 1)) && decide (lineOf key ≤ lineOf (other + m - 1))

/-- Graft holds the die's reads of a line with a write, atomic or RED of the die that it has accepted and the line's home has
not acknowledged (R313). -/
def State.graftHolds (s : State) (die key n : Nat) : Bool :=
  remoteTo die key
    && ((s.cores.any fun c => dieOfCore c.1 == die
        && c.2.outbound.any fun e => sameLines key n e.2.key e.2.data.length && s.graftAccepts c.1 e.1)
      || s.warps.any fun w => dieOfCore w.2.core == die && w.2.ops.any fun e =>
        (e.2.sentTo (remoteTo die)).any fun a => sameLines key n a.key e.2.size && s.graftAccepts w.2.core e.2.ord)

/-- Graft holds a read of `n` bytes of the context's memory at `va` (R313) (DEDUCED, log entry 7). -/
def State.readHeld (s : State) (core cid : Nat) (va : DWord) (n : Nat) : Bool :=
  match s.ctxSegments core cid .read va n with
  | .ok l => l.any fun x => s.graftHolds (dieOfCore core) x.1 x.2
  | .error _ => false

/-- Accesses of `n` and `m` bytes have bytes in common. -/
def sameBytes (key n other m : Nat) : Bool := decide (other < key + n) && decide (key < other + m)

/-- A write or an atomic of another core of the die (of `own` too, for what is no write of the core's) to those bytes, all
of them homed on the other die, that Graft has accepted and the home has still to perform, came before number `n`: a release
may have counted it as made (R313), and what comes after it there is performed after it (R311, R324) (DEDUCED, log entry
63). -/
def State.acceptedBefore (s : State) (own : Bool) (core n key size : Nat) : Bool :=
  let die := dieOfCore core
  let other := fun (c : Nat) => (own || c != core) && dieOfCore c == die
  remoteTo die key
    && ((s.cores.any fun c => other c.1 && c.2.outbound.any fun e =>
        decide (e.1 < n) && sameBytes key size e.2.key e.2.data.length && s.graftAccepts c.1 e.1)
      || s.warps.any fun w => other w.2.core && w.2.ops.any fun e => decide (e.2.ord < n)
        && (e.2.sentTo (remoteTo die)).any fun a => sameBytes key size a.key e.2.size && s.graftAccepts w.2.core e.2.ord)

/-- Write number `n` of a core to `key` no longer holds back a release at `scope` (Table 12.1, R313 to R315): beyond .blk it
counts once performed, or for .gang and .die once Graft has accepted it; host and peer writes count at .sys alone. -/
def State.writeMet (s : State) (core scope n key : Nat) : Bool :=
  decide (scope = 0) || decide (scope ≤ 2) && remoteTo (dieOfCore core) key && s.graftAccepts core n
    || decide (scope ≤ 3) && !inModule key

/-- The operation no longer holds back a release at `scope` (R312 to R315): a load has its value, a store has reached the
order point, an atomic has and, beyond .blk, is performed. What a store has sent is `State.outboundMet`'s. -/
def State.opMet (s : State) (core scope : Nat) (o : Op) : Bool :=
  if o.isAtomic then o.atOrder && o.accesses.all fun a => a.done || o.space = .global && s.writeMet core scope o.ord a.key
      || decide (scope = 0)
  else if o.isStore then o.atOrder
  else !o.isLoad || o.accesses.all (·.done)

/-- No write of the warp's operations before `limit` that is still on its way holds back a release at `scope`. -/
def State.outboundMet (s : State) (wid scope limit : Nat) : Bool :=
  (s.core (s.warp wid).core).outbound.all fun e =>
    e.2.wid != wid || decide (limit ≤ e.2.op) || s.writeMet (s.warp wid).core scope e.1 e.2.key

/-- What the warps of a core, those that satisfy `skip` apart, have brought to its order point before number `cut` no longer
holds back a release at `scope` (R317). -/
def State.orderMet (s : State) (core scope cut : Nat) (skip : Nat → Bool) : Bool :=
  (s.core core).outbound.all (fun e => skip e.2.wid || decide (cut ≤ e.1) || s.writeMet core scope e.1 e.2.key)
    && s.warps.all fun w => skip w.1 || w.2.core != core
      || w.2.ops.all fun e => !(e.2.isAtomic && e.2.atOrder && decide (e.2.ord < cut)) || s.opMet core scope e.2
        && (s.core core).outbound.all fun x => x.2.wid != w.1 || x.2.op != e.1 || s.writeMet core scope x.1 x.2.key

/-- What the other warps of the core have sent before number `cut` happens before a release sent then (R317, R323), and holds
it back beyond .blk as the warp's own accesses do (DEDUCED, log entry 63). -/
def State.coreMet (s : State) (wid scope cut : Nat) : Bool :=
  decide (scope = 0) || s.orderMet (s.warp wid).core scope cut (· == wid)

/-- A release at `scope` sent at number `cut` completes now, as far as its operations `older`, all before `limit`, go
(DEDUCED, log entry 63). -/
def State.releaseMet (s : State) (wid scope : Nat) (older : List (Nat × Op)) (limit cut : Nat) : Bool :=
  older.all (fun e => s.opMet (s.warp wid).core scope e.2) && s.outboundMet wid scope limit && s.coreMet wid scope cut

/-- Everything a release comes after has reached the order point: its fence is sent (R314). -/
def State.sent (s : State) (wid : Nat) (older : List (Nat × Op)) : Bool :=
  older.all fun e => s.opMet (s.warp wid).core 0 e.2

/-- The number at which a release is sent: the one recorded, or now. -/
def State.cutAt (s : State) (cut : Option Nat) : Nat := cut.getD s.nextId

/-- A release of the warp's executing word, after everything the warp has issued. -/
def State.releasedAt (s : State) (wid scope : Nat) : Bool :=
  s.releaseMet wid scope (s.warp wid).ops s.nextId (s.cutAt (if s.focus.wid = wid then s.focus.cut else none))

/-- The executing word waits where it stands; its release is sent once its older accesses have reached the order point. -/
def State.holdWord (s : State) : State :=
  let cut := if s.focus.cut.isNone && s.sent s.focus.wid s.self.ops then some s.nextId else s.focus.cut
  { s with focus := { s.focus with hold := true, cut := cut } }

/-! ## Phasers -/

def PhMode.signals : PhMode → Bool
  | .so | .sw => true
  | .wo => false
def PhMode.waits : PhMode → Bool
  | .wo | .sw => true
  | .so => false

def PhReg.signals (r : PhReg) : Bool := (r.mode.map PhMode.signals).getD false
def PhReg.waits (r : PhReg) : Bool := (r.mode.map PhMode.waits).getD false

/-- A phaser with no SO or SW registration is idle (R344). -/
def Phaser.idle (p : Phaser) : Bool := p.regs.all fun r => !r.signals

/-- A registration after its requested change has taken effect at phase `ph` (R345) (DEDUCED, log entry 41). -/
def PhReg.change (r : PhReg) (ph : BitVec 16) : Option PhReg :=
  match r.pending with
  | none => some r
  | some .drop => none
  | some (.register m) => some { r with mode := some m, pending := none, ep := ph }
  | some (.change m) => some { r with mode := some m, pending := none, ep := if r.waits then r.ep else ph }

/-- Every signalling registration has A ≥ 1, and there is one (R345). -/
def Phaser.ready (p : Phaser) : Bool := !p.idle && p.regs.all fun r => !r.signals || decide (1 ≤ r.a)

/-- One phase completes (R345). -/
def Phaser.boundary (p : Phaser) : Phaser :=
  { phase := p.phase + 1
    regs := p.regs.filterMap fun r => (if r.signals then { r with a := r.a - 1 } else r).change (p.phase + 1) }

/-- Phases complete while every signalling registration has an arrival; A is at most 255. -/
def Phaser.run : (fuel : Nat) → Phaser → Phaser
  | 0, p => p
  | n + 1, p => if p.ready then Phaser.run n p.boundary else p

def Phaser.settle (p : Phaser) : Phaser := p.run 256

/-- On an idle phaser a requested change takes effect at once (R345). -/
def Phaser.request (p : Phaser) (p' : Phaser) : Phaser :=
  if p.idle then { p' with regs := p'.regs.filterMap fun r => r.change p.phase } else p'

def Phaser.reg? (p : Phaser) (wid : Nat) : Option PhReg := p.regs.find? fun r => r.wid == wid

def Phaser.updReg (p : Phaser) (wid : Nat) (f : PhReg → PhReg) : Phaser :=
  { p with regs := p.regs.map fun r => if r.wid = wid then f r else r }

/-- PHREG (R348). A request that takes effect at once may leave every signalling registration with an arrival, which
completes a phase (R345). A later request of the warp within one phase takes the place of the one before (DESIGN CHOICE, log
entry 41). -/
def Phaser.register (p : Phaser) (wid : Nat) (m : PhMode) : Phaser :=
  match p.reg? wid with
  | none => (p.request { p with regs := p.regs ++ [⟨wid, none, some (.register m), 0, p.phase⟩] }).settle
  | some r => (p.request (p.updReg wid fun x =>
      { x with pending := if r.mode.isSome then some (.change m) else some (.register m) })).settle

/-- PHDROP (R348): a signalling registration with no arrival first adds one. -/
def Phaser.drop (p : Phaser) (wid : Nat) : Phaser :=
  match p.reg? wid with
  | none => p
  | some r => (p.request (p.updReg wid fun x =>
      { x with pending := some .drop, a := if r.signals && r.a == 0 then 1 else x.a })).settle

/-- PHSIG (R349). -/
def Phaser.signal (p : Phaser) (wid : Nat) : Phaser := (p.updReg wid fun x => { x with a := x.a + 1 }).settle

/-- The wait of a registration is satisfied: (phase − EP) mod 2^16 ≥ 1 (R345). -/
def Phaser.satisfied (p : Phaser) (wid : Nat) : Bool :=
  match p.reg? wid with
  | none => true
  | some r => p.phase != r.ep

/-- EP := EP + 1 as the wait completes. -/
def Phaser.passed (p : Phaser) (wid : Nat) : Phaser := p.updReg wid fun x => { x with ep := x.ep + 1 }

/-- Number of the gang record of a block's gang: in `State.gangs`, by context, grid and gang. -/
def State.gangKey? (s : State) (b : Block) : Option Nat :=
  (s.gangs.find? fun e => e.2.cid == b.cid && e.2.grid == b.grid && e.2.idx == b.gang).map (·.1)

/-- Phaser `n` (0 to 63) as block `b` names it. -/
def State.phaser? (s : State) (b : Block) (n : Nat) : Option Phaser :=
  if n < 48 then b.phasers[n]?
  else match s.gangKey? b with
    | some g => ((s.gangs.get? g).map (·.phasers)).bind fun l => l[n - 48]?
    | none => none

def State.setPhaser (s : State) (blk n : Nat) (p : Phaser) : State :=
  match s.blocks.get? blk with
  | none => s
  | some b =>
    if n < 48 then s.updBlock blk fun b => { b with phasers := b.phasers.set n p }
    else match s.gangKey? b with
      | some g => { s with gangs := s.gangs.upd g fun x => { x with phasers := x.phasers.set (n - 48) p } }
      | none => s

/-- Scope of a phaser (Table 12.2). -/
def phScope (n : Nat) : Nat := if n < 48 then 0 else if n < 64 then 1 else 3

/-! ## Grid phasers (R346) -/

/-- The grid of a warp. -/
def State.gridOf? (s : State) (w : Warp) : Option Grid := s.grid? w.cid w.grid

def Grid.phaser (g : Grid) (i : Nat) : GridPhaser := g.gph.getD i ⟨0, 0⟩

/-- Arrivals complete phases while they reach the target. -/
def GridPhaser.settle (target : Nat) : (fuel : Nat) → GridPhaser → GridPhaser
  | 0, p => p
  | n + 1, p =>
    if 1 ≤ target ∧ target ≤ p.arrivals then GridPhaser.settle target n ⟨p.phase + 1, p.arrivals - target⟩ else p

def Grid.arrive (g : Grid) (i : Nat) : Grid :=
  let p := g.phaser i
  { g with gph := g.gph.set i (GridPhaser.settle (g.gr.gtgt.getD i 1) (p.arrivals + 1) ⟨p.phase, p.arrivals + 1⟩) }

def Warp.gepOf (w : Warp) (i : Nat) : BitVec 16 := Sparse.get 0 w.gep i

/-- State of a grid of the context; one that it no longer knows is complete (R360). -/
def State.gridState (s : State) (cid g : Nat) : GridState := ((s.grid? cid g).map (·.st)).getD .complete

/-- The wait of PREDWAIT is over (R361). -/
def State.predReady (s : State) (w : Warp) : Bool :=
  match s.gridOf? w with
  | none => true
  | some g => g.gr.pred == 0 || !g.gr.early || s.gridState w.cid g.gr.pred == .complete

/-! ## Waking -/

/-- Restart the hang timer of a grid (R390). -/
def State.restartHang (s : State) (cid g : Nat) : State := s.updGrid cid g fun x => { x with hangSince := s.time.toNat }

/-- The wait of a warp completes: it is Ready again, its acquire is made, the hang timer restarts. -/
def State.unblock (s : State) (wid scope : Nat) : State :=
  let w := s.warp wid
  (((s.updWarp wid fun x => { x with blocked := none }).noteActive w.blk).acquire w.core scope).restartHang w.cid w.grid

/-- E_i or F_i of a stage. -/
def Ring.count (r : Ring) (full : Bool) (i : Nat) : BitVec 16 := Sparse.get 0 (if full then r.full else r.empty) i

/-- The condition of RACQ on stage `i` at `lap` (R352). -/
def Ring.open (r : Ring) (consumer : Bool) (i : Nat) (lap : Bool) : Bool :=
  if consumer then (r.count true i).getLsbD 0 != lap else (r.count false i).getLsbD 0 == lap

/-- Complete the wait of one warp if it is satisfied (phasers of block and gang, rings, PREDWAIT). A wait that a hang trap
interrupted stands still until the warp is back in it (R390). -/
def State.wakeWarp (s : State) (wid : Nat) : State :=
  let w := s.warp wid
  match w.blocked, s.blocks.get? w.blk with
  | some (.phaser n), some b =>
    if 64 ≤ n then s
    else match s.phaser? b n with
      | none => s
      | some p => if p.satisfied wid then (s.setPhaser w.blk n (p.passed wid)).unblock wid (phScope n) else s
  | some (.ring r i lap consumer), some b =>
    match b.rings[r]? with
    | none => s
    | some rg => if rg.open consumer i lap then s.unblock wid 0 else s
  | some .pred, some _ => if s.predReady w then s.unblock wid 3 else s
  | _, _ => s

/-- The warp leaves handler mode (R388), back in the wait that a hang trap interrupted, which may be satisfied by now
(R390). -/
def State.leaveHandler (s : State) (wid : Nat) : State := (s.updWarp wid Warp.leaveHandler).wakeWarp wid

/-- Complete every wait that the last signal or release satisfied. -/
def State.wake (s : State) : State := s.warps.keys.foldl (fun s wid => s.wakeWarp wid) s

/-! ## Rings (R352, R353) -/

def Cursor.advance (c : Cursor) (stages : Nat) : Cursor :=
  if c.idx + 1 = stages then ⟨0, !c.lap⟩ else ⟨c.idx + 1, c.lap⟩

/-- RREL: the cursor's stage becomes full or empty, and the cursor advances. -/
def Ring.release (r : Ring) (consumer : Bool) : Ring :=
  if consumer then
    { r with empty := Sparse.set 0 r.empty r.cr.idx (r.count false r.cr.idx + 1), cr := r.cr.advance r.stages }
  else { r with full := Sparse.set 0 r.full r.pr.idx (r.count true r.pr.idx + 1), pr := r.pr.advance r.stages }

/-- RACQ's taking of its cursor. -/
def Ring.take (r : Ring) (consumer : Bool) : Ring :=
  if consumer then { r with ca := r.ca.advance r.stages } else { r with pa := r.pa.advance r.stages }

def Ring.cursor (r : Ring) (consumer : Bool) : Cursor := if consumer then r.ca else r.pa

/-- A release on ring `n` of a block, with the waits it satisfies. -/
def State.ringRelease (s : State) (blk n : Nat) (consumer : Bool) : State :=
  (s.updBlock blk fun b => { b with rings := b.rings.modify n fun r => r.release consumer }).wake

/-- The block declares ring `n` (R352). -/
def Block.declares (b : Block) (n : Nat) : Bool := decide (1 ≤ (b.rings.getD n ⟨0, [], [], ⟨0, false⟩, ⟨0, false⟩,
  ⟨0, false⟩, ⟨0, false⟩⟩).stages)

/-- Signal phaser `n` of the block for a warp, with the waits it satisfies. -/
def State.phaserSignal (s : State) (blk n wid : Nat) : State :=
  match s.blocks.get? blk with
  | none => s
  | some b => match s.phaser? b n with
    | none => s
    | some p => (s.setPhaser blk n (p.signal wid)).wake

end Sys2Proof.Machine
end

