-- ==== Sys2Proof/Machine/Clause.lean ====
section
/-! DEFINITION. The checks a clause passes before it issues (R109, R138, Table 5.22), with the part of check 6 that
depends on the issuing warp: its REGS count (R134), its block's rings (R283, Table 7.3), a control core's subset
(R118, R354). -/

namespace Sys2Proof.Machine

def regs2 (r : Reg) : List Nat := [r.toNat, r.toNat + 1]
def regs4 (r : Reg) : List Nat := [r.toNat, r.toNat + 1, r.toNat + 2, r.toNat + 3]

/-- The vector registers an instruction names (R134); for CALL v63 (R253). -/
def vregsOf : Instr → List Nat
  | .v2w o | .vmovp o | .cinv o | .pref o | .ret o | .plvl o => [o.a.toNat]
  | .mov o | .iaddi o | .iabs o | .ineg o | .shli o | .shri o | .sari o | .vnot o | .popc o | .clz o | .brev o
  | .fabs o | .fneg o | .fclass o | .rcp o | .rsq o | .sqrt o | .ex2 o | .lg2 o | .sin o | .cos o | .tanh o
  | .cvt o | .cvts o | .cvtxB0 o | .cvtxB1 o | .cvtxB2 o | .cvtxB3 o | .qcvt o | .qnum o | .qden o | .qrec o
  | .qclass o | .ldN8 o | .ldI8 o | .ldN16 o | .ldI16 o | .ld32 o | .st8 o | .st16 o | .st32 o | .ldt32 o
  | .stt32 o | .lda o | .sta o | .ldc o | .atomAddN32 o | .atomMinI32 o | .atomMaxI32 o | .atomMinN32 o
  | .atomMaxN32 o | .atomAnd o | .atomOr o | .atomXor o | .atomExch o | .atomFaddF32 o | .redAddN32 o
  | .redMinI32 o | .redMaxI32 o | .redMinN32 o | .redMaxN32 o | .redAnd o | .redOr o | .redXor o | .redFaddF32 o
  | .atomtAddN32 o | .atomtMinI32 o | .atomtMaxI32 o | .atomtExch o | .xch o | .qbc o | .qsum o | .qmin o
  | .qmax o | .qdiff o | .matchLanes o | .redtAdd o | .redtMin o | .redtMax o | .scantAdd o => [o.d.toNat, o.a.toNat]
  | .li o | .w2v o | .pmov o | .sreg o | .ballot o | .active o | .drain o => [o.d.toNat]
  | .iadd o | .isub o | .imul o | .imulhI o | .imulhN o | .iminI o | .imaxI o | .iminN o | .imaxN o | .shl o
  | .shr o | .sar o | .vand o | .vor o | .vxor o | .bfe o | .sel o | .fadd o | .fsub o | .fmul o | .fmin o
  | .fmax o | .hadd2 o | .hmul2 o | .badd2 o | .bmul2 o | .fdiv o | .qadd o | .qsub o | .qmul o | .qdiv o
  | .qfrom o | .qmed o | .qrnd o => [o.d.toNat, o.a.toNat, o.b.toNat]
  | .imad o | .bfi o | .ffma o | .hfma2 o | .bfma2 o => [o.d.toNat, o.a.toNat, o.b.toNat, (fourth o.x o.d).toNat]
  | .isetpEq o | .isetpNe o | .isetpLt o | .isetpLe o | .isetpGt o | .isetpGe o | .isetpLtN o | .isetpLeN o
  | .isetpGtN o | .isetpGeN o | .fsetpEq o | .fsetpNe o | .fsetpLt o | .fsetpLe o | .fsetpGt o | .fsetpGe o
  | .fsetpNan o | .qsetpEq o | .qsetpNe o | .qsetpLt o | .qsetpLe o | .qsetpGt o | .qsetpGe o => [o.a.toNat, o.b.toNat]
  | .iadd64 o | .isub64 o => regs2 o.d ++ regs2 o.a ++ regs2 o.b
  | .imulwI o | .imulwN o => regs2 o.d ++ [o.a.toNat] ++ [o.b.toNat]
  | .ld64 o | .st64 o | .ldt64 o | .stt64 o | .atomAddN64 o | .atomCas o | .atomExch64 o | .redAddN64 o
  | .atomtCas o => o.a.toNat :: regs2 o.d
  | .ld128 o | .st128 o | .ldt128 o | .stt128 o => o.a.toNat :: regs4 o.d
  | .brx o => regs2 o.a
  | .call _ => [63]
  | .append o => [o.l.toNat, o.i.toNat]
  | _ => []

/-- The ring whose completion signal the literal asks for (R174, R283). -/
def ringOf : Instr → Option Nat
  | .mma o => if o.re then some o.rg.toNat else none
  | .cpy o => if o.re then some o.rg.toNat else none
  | .cpym o => if o.re then some o.rg.toNat else none
  | .enc o => if o.re then some o.rg.toNat else none
  | .dect o => if o.re then some o.rg.toNat else none
  | _ => none

/-- What a control core may execute (R118, R354). -/
def controlMay (cls : Cls) (w : Word) : Bool :=
  let op := (fOp w).toNat
  match cls with
  | .s => op != 0x23
  | .l => !((0x0D ≤ op && op ≤ 0x15) || (0x30 ≤ op && op ≤ 0x34))
  | .x => op == 0x01 || op == 0x12 || op == 0x14 || op == 0x15 || op == 0x16
  | .y => !((0x01 ≤ op && op ≤ 0x08) || op == 0x0A || op == 0x0B || op == 0x10)
  | _ => false

/-- Which roles may issue which classes (Table 5.3). -/
def rolePermits (r : Role) (cls : Cls) : Bool :=
  match r, cls with
  | _, .s | _, .l | _, .x | _, .y => true
  | .vector, .v | .vector, .f => true
  | .matrix, .m => true
  | .copy, .c => true
  | _, _ => false

def roleNum : Role → Nat
  | .copy => 0
  | .matrix => 1
  | .vector => 2
  | .control => 3

/-- Transfer instructions (R124), blocking Y instructions, LAUNCH, TRAP, BKPT and RTE (R121): last in their clause. -/
def mustBeLast (cls : Cls) (w : Word) : Bool :=
  let op := (fOp w).toNat
  match cls with
  | .x => 0x12 ≤ op && op ≤ 0x17
  | .y => op == 0x04 || op == 0x05 || op == 0x07 || op == 0x09 || op == 0x0B || op == 0x0D
      || op == 0x11 || op == 0x12 || op == 0x13 || op == 0x14
  | _ => false

/-- Check 4 on the words from index `i` on: the index of the first word that breaks it (DEDUCED, log entry 12). -/
def check4 (cls : Cls) : (i : Nat) → List Word → Option Nat
  | _, [] => none
  | i, w :: rest =>
    if isPrefix cls w then
      match rest with
      | [] => some i
      | t :: _ => if isPrefix cls t then some i else check4 cls (i + 1) rest
    else if takesLiteral cls w then
      match rest with
      | [] => some i
      | _ :: rest' => check4 cls (i + 2) rest'
    else if mustBeLast cls w && !rest.isEmpty then some i
    else check4 cls (i + 1) rest

/-- The part of check 6 that depends on the issuing warp. A control core has no vector registers, and class L names
uniform registers there (R354). -/
def State.issuable (s : State) (w : Warp) (cls : Cls) (word : Word) (i : Instr) : Bool :=
  (if w.role = .control then controlMay cls word else (vregsOf i).all fun r => decide (r < w.regs))
    && match ringOf i with
      | none => true
      | some r => match s.blocks.get? w.blk with
        | some b => b.declares r
        | none => false

/-- Check 6 on the words from index `i` on (fuel: a clause has at most 15 words). -/
noncomputable def State.check6 (s : State) (w : Warp) (cls : Cls) : (fuel i : Nat) → List Word → Option Nat
  | 0, _, _ => none
  | fuel + 1, i, ws =>
    match ws with
    | [] => none
    | x :: rest =>
      let target := if isPrefix cls x then i + 1 else i
      match decodeWords cls ws with
      | .error _ => some target
      | .ok (ins, n) =>
        if s.issuable w cls (if isPrefix cls x then rest.headD 0 else x) ins then s.check6 w cls fuel (i + n) (ws.drop n)
        else some target

/-- What is wrong with a clause: trap code, CAUSE (Table 14.1) and the index of the offending word. -/
structure ClauseFault where
  code : BitVec 8
  cause : BitVec 8
  word : Nat
  deriving DecidableEq, Repr

/-- The checks of Table 5.22, in order, on a header and the words after it (DEDUCED, log entry 12). -/
noncomputable def State.checkClause (s : State) (w : Warp) (h : Word) (ws : List Word) : Option ClauseFault :=
  let cls := hClass h
  let setIllegal := fun n : BitVec 4 => decide (12 ≤ n.toNat) && decide (n.toNat ≤ 14)
  if hMagic h ≠ 5 then some ⟨1, 1, 0⟩
  else if hCount h = 0 then some ⟨1, 2, 0⟩
  else if setIllegal (h.extractLsb' 6 4) || setIllegal (h.extractLsb' 2 4) then some ⟨1, 3, 0⟩
  else match check4 cls 1 ws with
    | some i => some ⟨1, 4, i⟩
    | none =>
      if !rolePermits w.role cls then some ⟨3, BitVec.ofNat 8 (roleNum w.role), 0⟩
      else match s.check6 w cls 16 1 ws with
        | some i => some ⟨2, 0, i⟩
        | none => none

end Sys2Proof.Machine
end

