-- ==== Sys2Proof/Machine/Issue.lean ====
section
/-! DEFINITION. Runs (R115): the head run (R236), readiness (R343), the fetch of a clause (R107), what a clause does as
it begins (R110, R112, R116) and as it ends (R111, R237, R239), and the end of a run. -/

namespace Sys2Proof.Machine

/-! ## The head run (R236) -/

/-- The PC that issues: the handler's table in handler mode (R381). -/
def Warp.pcNow (w : Warp) (l : Nat) : Pc := if w.inHandler then (findKey? l w.hpc).getD 0 else w.pcOf l

/-- The lanes that head-run selection considers. -/
def Warp.issuing (w : Warp) : Lanes := if w.inHandler then w.live &&& w.trapped else w.live

def minPc (w : Warp) (m : Lanes) : Pc :=
  match (lanesOf m).map w.pcNow with
  | [] => 0
  | a :: l => l.foldl (fun x y => if y.ult x then y else x) a

/-- HeadRun(w): the lowest PC among the live unparked threads (all live ones if every one is parked), and the threads
at it. -/
def Warp.headRun (w : Warp) : Pc × Lanes :=
  let u := if w.issuing &&& ~~~w.pk = 0 then w.issuing else w.issuing &&& ~~~w.pk
  let m := minPc w u
  (m, maskOf fun l => u.getLsbD l && w.pcNow l == m)

/-- The live lane a helper shadows: the lowest-numbered one of its quad (R242). -/
def Warp.shadowOf (w : Warp) (h : Nat) : Option Nat :=
  [4 * (h / 4), 4 * (h / 4) + 1, 4 * (h / 4) + 2, 4 * (h / 4) + 3].find? fun l => w.live.getLsbD l

def Warp.shadows (w : Warp) (threads : Lanes) : Lanes :=
  maskOf fun h => w.helper.getLsbD h && ((w.shadowOf h).map threads.getLsbD).getD false

/-! ## Fetch (R66, R107) -/

/-- The line as the core's instruction cache serves it to a fetch of the context: a line held may be returned as it was, or
fetched anew (R66). -/
def State.icacheHit (s : State) (core cid ln : Nat) : Option (List Byte) :=
  match (s.core core).icache.get? (ln + 2 ^ 64 * cid) with
  | some old => if s.freeBool (700000 + ln) then none else some old
  | none => none

/-- The line's place in the instruction cache, if it may have one: lines of system space and of peer memory have none (R54).
-/
def State.icacheKeep (s : State) (core cid ln : Nat) (bytes : List Byte) : State :=
  match placeOf (128 * ln) with
  | .hbm _ =>
    let pick := s.pick .icache (ln + 2 ^ 64 * cid)
    s.updCore core fun c => c.icachePut (ln + 2 ^ 64 * cid) pick bytes
  | _ => s

/-- One word at `va` through the instruction cache, or through the L2 or RDC as a read by the context, which alone reaches a
target (R83). An uncorrectable error is cause 0x10 (R389). At an address that is no multiple of 4, where RET may lead, it is
the four bytes there, those past the end of the line as 0 (DESIGN CHOICE, log entry 61). -/
def State.fetchWord (s : State) (core cid : Nat) (va : DWord) : Except AccFault (State × Word) :=
  match s.translate core cid va .fetch with
  | .error r => .error ⟨walkCode r, BitVec.ofNat 8 r, va, none⟩
  | .ok (key, _) =>
    let ln := lineOf key
    let word := fun (bytes : List Byte) => BitVec.ofNat 32 (ofBytes ((bytes.drop (key % 128)).take 4))
    match s.icacheHit core cid ln with
    | some bytes => .ok (s.installPage core cid va.toNat, word bytes)
    | none =>
      match if s.inRdc (dieOfCore core) key 4 then none else s.denial cid .read key 4 with
      | some t => .error ⟨6, 0, va, some (cid, .read, t)⟩
      | none =>
        if s.isBad (128 * ln) 128 then .error ⟨0x10, 0, va, none⟩
        else
          let bytes := s.bytesAt 1 (128 * ln) 128
          .ok (((s.icacheKeep core cid ln bytes).installPage core cid va.toNat).noteRead (dieOfCore core) (128 * ln) 128 false,
            word bytes)

/-- Graft holds the fetch of one of the `n` words from `pc` on (R313). -/
def State.fetchHeld (s : State) (w : Warp) (pc : Pc) (n : Nat) : Bool :=
  (List.range n).any fun i => match s.translate w.core w.cid (pc.zeroExtend 64 + BitVec.ofNat 64 (4 * i)) .fetch with
    | .error _ => false
    | .ok (key, _) => (s.icacheHit w.core w.cid (lineOf key)).isNone && s.graftHolds (dieOfCore w.core) (128 * lineOf key) 128

/-- DEDUCED, log entry 61. -/
def State.fetchWords (s : State) (core cid : Nat) : (n : Nat) → DWord → Except AccFault (State × List Word)
  | 0, _ => .ok (s, [])
  | n + 1, va =>
    match s.fetchWord core cid va with
    | .error f => .error f
    | .ok (t, w) =>
      match t.fetchWords core cid n (va + 4) with
      | .error f => .error f
      | .ok (u, ws) => .ok (u, w :: ws)

/-- A clause at `pc`: its header and as many words as COUNT says; a header without MAGIC has none
(DEDUCED, log entry 61). -/
def State.fetchClause (s : State) (w : Warp) (pc : Pc) : Except AccFault (State × Fetched) :=
  match s.fetchWord w.core w.cid (pc.zeroExtend 64) with
  | .error f => .error f
  | .ok (t, h) =>
    match t.fetchWords w.core w.cid (if hMagic h = 5 then hCount h else 0) (pc.zeroExtend 64 + 4) with
    | .error f => .error f
    | .ok (u, ws) => .ok (u, ⟨pc, h :: ws⟩)

/-- A fetch that faults traps the threads it was for, with TRAPADDR the clause header (R107). -/
def State.fetchTrap (s : State) (wid : Nat) (set : Lanes) (pc : Pc) (f : AccFault) : State :=
  (s.noteFault f).trap wid ⟨f.cause, f.reason, pc.zeroExtend 64, none, none, none, false, set, .rpc⟩

/-! ## Readiness (R343) -/

/-- Commands of a core's unit that its queue holds: the copy engine's until they are complete, started or not, the matrix
engine's until they start (R175, R279) (DEDUCED, log entry 33). -/
def State.queueLen (s : State) (core : Nat) (u : EngineUnit) : Nat :=
  (s.cmds.filter fun e => e.2.core == core && e.2.unit == u && (u != .matrix || e.2.st == .queued)).length

/-- Commands its queue can hold (R175, R279). -/
def EngineUnit.depth : EngineUnit → Nat
  | .copy => 16
  | _ => 8

/-- What a clause's words from some point on ask for: entries of the copy engine's queue, of the matrix engine's, and
range-lock entries (R175, R279, R280). MBOUND needs none (R285). -/
structure Needs where
  copy : Nat
  matrix : Nat
  locks : Nat
  deriving DecidableEq, Repr

def clauseNeeds (cls : Cls) (words : List Word) : Needs :=
  let ops := clauseOps cls 16 words
  match cls with
  | .c => ⟨(ops.filter fun o => o ≤ 4 || 0x0B ≤ o).length, 0, ops.length⟩
  | .m => ⟨0, (ops.filter (· != 2)).length, (ops.filter (· != 2)).length⟩
  | _ => ⟨0, 0, 0⟩

/-- What the clauses in progress on a core have still to take: the room that they began with is theirs (R175)
(DEDUCED, log entry 33). -/
def State.claimed (s : State) (core : Nat) : Needs :=
  (s.runs.filter fun e => e.2.core == core && !e.2.atClause).foldl (fun n e =>
    let m := clauseNeeds e.2.cls (e.2.words.drop (e.2.idx - 1))
    ⟨n.copy + m.copy, n.matrix + m.matrix, n.locks + m.locks⟩) ⟨0, 0, 0⟩

/-- Range-lock entries of a core that no clause in progress has a claim on. -/
def State.freeLocks (s : State) (core : Nat) : Nat := 32 - (s.core core).locks.length - (s.claimed core).locks

/-- Room in the engine queue for the clause's commands, as far as an empty queue has room for them, and in the 32
range-lock entries (R175, R279, R280). What a queue holds is `State.queueLen`'s (DEDUCED, log entry 33). -/
def State.engineRoom (s : State) (core : Nat) (words : List Word) : Bool :=
  let n := clauseNeeds (hClass (words.headD 0)) (words.drop 1)
  let taken := s.claimed core
  decide (n.locks ≤ s.freeLocks core)
    && (n.copy == 0 || decide (s.queueLen core .copy + taken.copy + n.copy ≤ 16))
    && (n.matrix == 0 || decide (s.queueLen core .matrix + taken.matrix + Nat.min n.matrix 8 ≤ 8))

/-- Nothing that entry into the handler waits for is outstanding (R380). -/
def Warp.drained (w : Warp) : Bool :=
  w.ops.all fun e => e.2.isCommand || (e.2.dests.isEmpty && !e.2.isStore && !e.2.isAtomic)

/-- The run-boundary trap due next (R376): deferred 0x06, then 0x0A, then 0x0F; held in handler mode (R383). With a crossing
still on its way neither of the last two goes: crossings due at one boundary are one trap (R42). -/
def Warp.boundaryTrap (w : Warp) : Option (BitVec 8 × Pend) :=
  if w.inHandler then none
  else match w.pend06 with
    | some p => some (6, p)
    | none =>
      if w.crossing.isSome then none
      else match w.pend0A with
        | some p => some (0x0A, p)
        | none => w.pend0F.map fun p => (0x0F, p)

def State.hasRun (s : State) (wid : Nat) : Bool := s.runs.any fun e => e.2.wid == wid

/-- A load or ATOM of global memory has still to hear from a target that may deny it, or has been denied and has still to
trap (R149): nothing younger issues, since a precise trap cancels it (R380). One whose targets have all granted it holds
nothing back (DEDUCED, log entry 66). -/
def Warp.unanswered (w : Warp) : Bool :=
  w.ops.any fun e => e.2.space == .global && (e.2.isAtomic && !e.2.dests.isEmpty || e.2.isLoad)
    && e.2.accesses.any fun a => a.denied || (!a.granted && (e.2.isAtomic || !a.done))

/-- A trap is to be handled before the warp may stop (R393). -/
def Warp.restless (w : Warp) : Bool :=
  w.inHandler || ((w.boundaryTrap.isSome || w.crossing.isSome) && w.blocked.isNone) || w.unanswered

/-- State(w) = Ready, for its head run's first clause (R343); a warp that a stop has reached issues no further run but for a
trap (R392, R393). -/
def State.readyWarp (s : State) (wid : Nat) : Bool :=
  let w := s.warp wid
  w.life == .resident && (!w.stopping || w.restless) && w.issuing != 0 && !s.hasRun wid && (!w.draining || w.drained) && !w.unanswered
    && (w.boundaryTrap.isSome && (w.blocked.isNone || w.pend0F.isSome)
      || (match w.blocked with
          | none => true
          | some _ => false)
        && w.crossing.isNone
        && match w.fetched with
          | none => false
          | some f =>
            f.addr == w.headRun.1
              && match f.words with
                | [] => false
                | h :: _ => (w.errFlag (hFlags h)).isSome
                    || (!w.waits (hFlags h) && s.engineRoom w.core f.words))

/-! ## Clauses -/

def slotKey (core slot : Nat) : Nat := 4 * core + slot

/-- The run of the focus ends: the warp goes to the back of its age list (R343), and the slot is free. -/
def State.endRun (s : State) : State :=
  let r := s.focus
  let s := s.updWarp r.wid fun w => { w with lastRun := r.all }
  let s := s.updCore r.core fun c =>
    { c with age := c.age.modify r.slot fun l => if l.contains r.wid then l.filter (· != r.wid) ++ [r.wid] else l }
  { s with runs := s.runs.erase (slotKey r.core r.slot), focus := Run.idle }

/-- The trap of a flag's error status, taken by the threads whose clause waited (R112, R378, R379). -/
def State.flagTrap (s : State) (wid : Nat) (set : Lanes) (hdr : Pc) (f : Nat) (e : FlagErr) : State :=
  let s := s.updWarp wid fun w => { w with ferr := w.ferr.erase f }
  let addr := if e.code = 8 ∧ 4 ≤ e.cause.toNat ∧ e.cause.toNat ≤ 6 then e.addr else hdr.zeroExtend 64
  s.trap wid ⟨e.code, e.cause, addr, some f, none, none, false, set,
    if e.code = 0x0A then .current else .flag (Sparse.get 0 (s.warp wid).frpc f)⟩

/-- The clause issues: R records RPCs (R116, not in handler mode, R382), SETA and SETB become busy (R110), SETB records
the RPC of the run's lowest-numbered thread (R378). -/
def Warp.beginClause (w : Warp) (threads : Lanes) (pc : Pc) (h : Word) : Warp :=
  let w := if hRegion h && !w.inHandler then (lanesOf threads).foldl (fun x l => x.setRpc l pc) w else w
  { w with
    busy := w.busy ||| flagBit (hSetA h) ||| flagBit (hSetB h)
    frpc := match hSetB h with
      | some f => Sparse.set 0 w.frpc f (w.rpcOf (lowestLane threads))
      | none => w.frpc }

/-- Begin the clause `f` of the run of the focus: checks (R109), then issue. -/
noncomputable def State.beginClause (s : State) (f : Fetched) : State :=
  let r := s.focus
  let h := f.words.headD 0
  let ws := f.words.drop 1
  match s.checkClause s.self h ws with
  | some e =>
    { s with focus := { r with hdr := f.addr } }.trapHere e.code e.cause none (some e.word) none
  | none =>
    let s := s.setSelf (s.self.beginClause r.threads f.addr h)
    { s with focus := { r with
        hdr := f.addr, cls := hClass h, words := ws, idx := 1, setA := hSetA h, setB := hSetB h, loose := false
        boundary := hBoundary h, total := r.total + hCount h, targets := [], parked := 0, after := none
        long := false, atClause := false } }

/-- The run goes on to the clause at its threads' PC, or ends before it (R115). -/
noncomputable def State.nextClause (s : State) : State :=
  let r := s.focus
  let w := s.self
  let pc := w.pcNow (lowestLane r.threads)
  let fetched := match w.fetched with
    | some f => if f.addr = pc then Except.ok (s, f) else s.fetchClause w pc
    | none => s.fetchClause w pc
  match fetched with
  | .error e => (s.fetchTrap r.wid r.threads pc e).endRun
  | .ok (t, f) =>
    if w.fetched != some f && s.fetchHeld w pc f.words.length then s
    else
    let h := f.words.headD 0
    let named := hFlags h
    let first := decide (r.total = 0)
    let t := t.updWarp r.wid fun w => { w with fetched := if first then none else some f }
    match w.errFlag named with
    | some (n, e) => if first then (t.flagTrap r.wid r.threads pc n e).endRun else t.endRun
    | none =>
      if w.waits named || !t.engineRoom w.core f.words || (!first && decide (24 < r.total + hCount h)) then t.endRun
      else
        let t := (t.updWarp r.wid fun w => { w with fetched := none }).beginClause f
        if t.focus.stop then t.endRun else t

/-- The PCs of the run's threads after the clause (R237), their helpers following (R242): R242 says that a helper takes its
shadow's PC at each issue of its shadow, and here it does after each clause, so that a saved image shows the PC of the
clause to come; not in handler mode, whose PCs are no image's, nor with a clause that traps (DESIGN CHOICE, log entry 73).
-/
def Warp.advance (w : Warp) (threads : Lanes) (targets : Tbl Pc) (next : Pc) : Warp :=
  let target := fun l => (targets.get? l).getD next
  if w.inHandler then
    { w with hpc := w.hpc.map fun e => if threads.getLsbD e.1 then (e.1, target e.1) else e }
  else
    let w := (lanesOf threads).foldl (fun x l => x.setPc l (target l)) w
    (lanesOf w.helper).foldl (fun x h => match w.shadowOf h with
      | some l => if threads.getLsbD l then x.setPc h (x.pcOf l) else x
      | none => x) w

/-- The warp's clause has issued: what it owed in the clause itself is readable once its flag clears (R113). -/
def State.clauseOver (s : State) (wid : Nat) : State :=
  s.updWarp wid fun w => { w with dues := w.dues.map fun (d : Due) => { d with clause := false } }.prune

/-- The clause of the run is no longer in progress, and its flags may clear (R111). -/
def State.releaseFlags (s : State) (r : Run) : State :=
  ((s.clauseOver r.wid).settleOpt r.wid r.setA).settleOpt r.wid r.setB

/-- After a clause: the threads of the run that it ended or parked leave the run, and the others continue in it if they
stand at one address (R115, R257). So they do after an EXIT of some of them, as after a YIELD (R256, R257): R115 names no
such end of a run, while R237 has one continue only if none of its threads is ended (DESIGN CHOICE, log entry 74). -/
def State.goOn (s : State) : State :=
  let r := s.focus
  let w := s.self
  let going := r.threads &&& w.issuing &&& ~~~w.pk
  let pcs := (lanesOf going).map w.pcNow
  let together := pcs.all fun a => a == pcs.headD 0
  let s := if going = r.threads then s
    else { s with focus := { s.focus with threads := going, shadows := w.shadows going } }
  if r.boundary || r.stop || !together || going = 0 then s.endRun else s

/-- The clause of the focus has issued its last word (R111, R115, R237, R239, R387). -/
def State.endClause (s : State) : State :=
  let r := s.focus
  let next := r.hdr + BitVec.ofNat 48 (4 * (r.words.length + 1))
  let w := s.self.advance r.threads r.targets next
  let back := maskOf fun l => ((r.targets.get? l).map fun a => decide (a.toNat ≤ r.hdr.toNat)).getD false
  let outside := w.live &&& ~~~w.pk &&& ~~~r.threads
  let counts := back != 0 && outside != 0
  let due := counts && decide (w.bbc = 255)
  let w := { w with pk := w.pk ||| r.parked, bbc := if counts && !due then w.bbc + 1 else w.bbc }
  let s := { s.setSelf w with focus := { s.focus with atClause := true } }.releaseFlags r
  let s := match r.after with
    | some (code, cause) => s.trap r.wid
        ⟨code, cause, r.hdr.zeroExtend 64, none, some r.words.length, none, false, r.threads, .next next⟩
    | none => s
  if due && !s.focus.stop then { s with focus := { s.focus with bbcDue := back } } else s.goOn

/-- After a word that takes `n` words: the next word, with the SETA flag clear if all sources under it have been read
(R111), the end of the clause, or the end of the run where the word trapped or ended it. A word that waits stays where it
is. -/
def State.afterWord (s : State) (n : Nat) : State :=
  if s.focus.hold then { s with focus := { s.focus with hold := false } }
  else if s.focus.stop && s.focus.after.isNone then
    ({ s with focus := { s.focus with atClause := true } }.releaseFlags s.focus).endRun
  else
    let s := { s with focus := { s.focus with idx := s.focus.idx + n, cut := none } }
    if s.focus.words.length < s.focus.idx then s.endClause
    else if s.focus.long then s.settleOpt s.focus.wid s.focus.setA else s

/-- Put the run of the focus back on its issue slot, if it goes on. -/
def State.store (s : State) : State :=
  if s.focus = Run.idle then s
  else { s with runs := s.runs.put (slotKey s.focus.core s.focus.slot) s.focus, focus := Run.idle }

/-- Open the head run of a Ready warp on an issue slot (R236, R343): a run-boundary trap comes first (R376). -/
def State.openRun (s : State) (wid core slot : Nat) : State :=
  let w := s.warp wid
  let (pc, threads) := w.headRun
  match w.boundaryTrap with
  | some (code, p) =>
    let s := s.updWarp wid fun w =>
      let x := { w with heldWait := w.blocked, heldWord := w.pendWord, blocked := none }
      if code = 6 then { x with pend06 := none }
      else if code = 0x0A then { x with pend0A := none }
      else { x with pend0F := none }
    s.trap wid ⟨code, p.cause, p.addr, none, none, none, true, threads, .current⟩
  | none =>
    let same := threads &&& ~~~w.lastRun = 0
    let s := s.updWarp wid fun w => { w with pk := 0, draining := false, bbc := if same then w.bbc else 0 }
    { s with runs := s.runs.put (slotKey core slot) { Run.idle with
        wid := wid, core := core, slot := slot, threads := threads, all := threads, shadows := w.shadows threads, hdr := pc } }

/-- A vector register that the word names is in no line of the core's register cache: its operands are not gathered before
REGISTER_CACHE_FILL has brought it (R73). -/
def State.missesLine (s : State) (core wid : Nat) (i : Instr) : Bool :=
  (s.warp wid).role != .control && (vregsOf i).any fun r => ((s.core core).rlines.get? (64 * wid + r)).isNone

/-- The run on an issue slot moves: either the state it comes to without executing a word (it stutters, begins a
clause, ends), or the word to execute, decoded, and how many words it takes. -/
noncomputable def State.issueWord (s : State) (core slot : Nat) : Except State (State × Instr × Nat) :=
  match s.runs.get? (slotKey core slot) with
  | none => .error s
  | some r =>
    if r.bbcDue ≠ 0 || (s.warp r.wid).unanswered then .error s
    else
      let s := { s with focus := r, runs := s.runs.erase (slotKey core slot) }
      if r.atClause then .error s.nextClause.store
      else
        match decodeWords r.cls (r.words.drop (r.idx - 1)) with
        | .error _ => .error ({ s.trapWord 2 0 none none with focus := { s.focus with atClause := true } }.releaseFlags r).endRun
        | .ok (i, n) =>
          if s.missesLine core r.wid i then .error s.store else .ok (s, i, n)

/-- After the word: the run goes back to its slot unless it has ended. -/
def State.issued (s : State) (n : Nat) : State := (s.afterWord n).store

/-- Time passes (R413) (DEDUCED, log entry 52). -/
def State.tick (s : State) (ns : Nat) : State := { s with time := s.time + BitVec.ofNat 64 ns }

/-- An instruction placed for fetch: the warp that is to run it, and its run. -/
def fetchRole : Cls → Role
  | .m => .matrix
  | .c => .copy
  | _ => .vector

end Sys2Proof.Machine
end

