-- ==== Sys2Proof/Machine/Float.lean ====
section
/-! DEFINITION. Floating-point formats, exact values and the one rounding (02, R26 to R32). An exact value is a ratio of
naturals with a sign; no operation rounds but `Fmt.round`. -/

namespace Sys2Proof.Machine

/-- An exact result: NaN (or NaR), an infinity, or the signed ratio n / d with d > 0; a zero keeps its sign. -/
inductive Val where
  | nan
  | inf (neg : Bool)
  | fin (neg : Bool) (n d : Nat)
  deriving DecidableEq, Repr

/-- The floating rounding modes (Table 2.4). -/
inductive Rm where
  | rne
  | rz
  | rd
  | ru
  deriving DecidableEq, Repr

/-- A floating format (Table 2.2): width, fraction width, bias, largest finite magnitude code, the infinity's and the
NaN's magnitude codes; `tag` is the flush bits' width class (Table 2.5). -/
structure Fmt where
  bits : Nat
  f : Nat
  bias : Nat
  top : Nat
  inf : Option Nat
  nan : Nat
  deriving DecidableEq, Repr

def Fmt.f32 : Fmt := ⟨32, 23, 127, 0x7F7FFFFF, some 0x7F800000, 0x7FC00000⟩
def Fmt.f16 : Fmt := ⟨16, 10, 15, 0x7BFF, some 0x7C00, 0x7E00⟩
def Fmt.bf16 : Fmt := ⟨16, 7, 127, 0x7F7F, some 0x7F80, 0x7FC0⟩
def Fmt.e4m3 : Fmt := ⟨8, 3, 7, 0x7E, none, 0x7F⟩
def Fmt.e5m2 : Fmt := ⟨8, 2, 15, 0x7B, some 0x7C, 0x7E⟩
/-- A NaN converted to e2m1 is delivered as 0x0 (Table 2.6, R38). -/
def Fmt.e2m1 : Fmt := ⟨4, 1, 1, 0x7, none, 0x0⟩

/-- n / d times 2^k as a ratio. -/
def scaleRatio (n d : Nat) (k : Int) : Nat × Nat := (n * 2 ^ k.toNat, d * 2 ^ (-k).toNat)

/-- Floor(Log2(n / d)) for n > 0. -/
def floorLog2 (n d : Nat) : Int :=
  let k : Int := (Nat.log2 n : Int) - (Nat.log2 d : Int)
  let (a, b) := scaleRatio n d (-k)
  if b ≤ a then k else k - 1

/-- The value n × 2^k. -/
def Val.dyadic (neg : Bool) (n : Nat) (k : Int) : Val :=
  let (a, b) := scaleRatio n 1 k
  .fin neg a b

/-- The value a code of the format stands for (R26). -/
def Fmt.value (m : Fmt) (code : Nat) : Val :=
  let c := code % 2 ^ m.bits
  let neg := decide (2 ^ (m.bits - 1) ≤ c)
  let mag := c % 2 ^ (m.bits - 1)
  if m.inf = some mag then .inf neg
  else if m.top < mag then .nan
  else
    let e := mag / 2 ^ m.f
    let fr := mag % 2 ^ m.f
    if e = 0 then .dyadic neg fr (1 - (m.bias : Int) - (m.f : Int))
    else .dyadic neg (2 ^ m.f + fr) ((e : Int) - (m.bias : Int) - (m.f : Int))

/-- The code is a subnormal (R34). -/
def Fmt.subnormal (m : Fmt) (code : Nat) : Bool :=
  decide (code % 2 ^ m.f ≠ 0) && decide (code % 2 ^ (m.bits - 1) / 2 ^ m.f = 0)

/-- The integer next to q + r / d in the direction of the mode, for a magnitude of sign `neg` (Table 2.4). -/
def roundInt (rm : Rm) (neg : Bool) (n d : Nat) : Nat :=
  let q := n / d
  let r := n % d
  let up := match rm with
    | .rne => decide (d < 2 * r) || (decide (2 * r = d) && q % 2 == 1)
    | .rz => false
    | .rd => neg && r != 0
    | .ru => !neg && r != 0
  if up then q + 1 else q

/-- The magnitude code of n / d (n > 0) rounded as if the exponent range were unbounded above. -/
def Fmt.magCode (m : Fmt) (rm : Rm) (neg : Bool) (n d : Nat) : Nat :=
  let emin : Int := 1 - (m.bias : Int)
  let e := floorLog2 n d
  let step := (if e < emin then emin else e) - (m.f : Int)
  let (a, b) := scaleRatio n d (-step)
  (step - (emin - (m.f : Int))).toNat * 2 ^ m.f + roundInt rm neg a b

def Fmt.signed (m : Fmt) (neg : Bool) (mag : Nat) : Nat := (if neg then 2 ^ (m.bits - 1) else 0) + mag

/-- What an overflow delivers (R28): a format without infinity its largest finite value. -/
def Fmt.overflow (m : Fmt) (rm : Rm) (neg : Bool) : Nat :=
  match m.inf with
  | none => m.signed neg m.top
  | some i =>
    let big := match rm with
      | .rne => true
      | .rz => false
      | .rd => neg
      | .ru => !neg
    m.signed neg (if big then i else m.top)

/-- The rounded magnitude exceeds the largest finite value. -/
def Fmt.overflows (m : Fmt) (rm : Rm) : Val → Bool
  | .fin neg n d => n != 0 && decide (m.top < m.magCode rm neg n d)
  | _ => false

/-- Round(x, format, mode) as a code (R27, R28). -/
def Fmt.round (m : Fmt) (rm : Rm) : Val → Nat
  | .nan => m.nan
  | .inf neg => m.signed neg (m.inf.getD m.top)
  | .fin neg n d =>
    if n = 0 then m.signed neg 0
    else
      let c := m.magCode rm neg n d
      if m.top < c then m.overflow rm neg else m.signed neg c

/-- A non-zero exact value below the format's smallest normal (R34). -/
def Fmt.below (m : Fmt) : Val → Bool
  | .fin _ n d => n != 0 && decide (floorLog2 n d < 1 - (m.bias : Int))
  | _ => false

/-! ## Exact arithmetic (R27) -/

def signedNat (neg : Bool) (n : Nat) : Int := if neg then -(n : Int) else n

def Val.neg : Val → Val
  | .nan => .nan
  | .inf s => .inf (!s)
  | .fin s n d => .fin (!s) n d

/-- A zero sum of operands of opposite sign is +0, but −0 under RD. -/
def Val.add (rm : Rm) : Val → Val → Val
  | .nan, _ => .nan
  | _, .nan => .nan
  | .inf s, .inf t => if s = t then .inf s else .nan
  | .inf s, .fin .. => .inf s
  | .fin .., .inf t => .inf t
  | .fin s n d, .fin t m e =>
    let x := signedNat s (n * e) + signedNat t (m * d)
    let neg := if x = 0 then (if n = 0 ∧ m = 0 ∧ s = t then s else rm == .rd) else decide (x < 0)
    .fin neg x.natAbs (d * e)

def Val.mul : Val → Val → Val
  | .nan, _ => .nan
  | _, .nan => .nan
  | .inf s, .inf t => .inf (s != t)
  | .inf s, .fin t n _ => if n = 0 then .nan else .inf (s != t)
  | .fin s n _, .inf t => if n = 0 then .nan else .inf (s != t)
  | .fin s n d, .fin t m e => .fin (s != t) (n * m) (d * e)

/-- a × b + c, exact (R221): 0 × ∞ is NaN whatever c is. -/
def Val.fma (rm : Rm) (a b c : Val) : Val := Val.add rm (Val.mul a b) c

/-- The quotient (R227, R295 with its trap clear). -/
def Val.div : Val → Val → Val
  | .nan, _ => .nan
  | _, .nan => .nan
  | .inf _, .inf _ => .nan
  | .inf s, .fin t _ _ => .inf (s != t)
  | .fin s _ _, .inf t => .fin (s != t) 0 1
  | .fin s n d, .fin t m e =>
    if m = 0 then (if n = 0 then .nan else .inf (s != t)) else .fin (s != t) (n * e) (d * m)

def Val.isNan : Val → Bool
  | .nan => true
  | _ => false

def Val.isInf : Val → Bool
  | .inf _ => true
  | _ => false

def Val.isZero : Val → Bool
  | .fin _ n _ => n == 0
  | _ => false

def Val.sign : Val → Bool
  | .nan => false
  | .inf s => s
  | .fin s _ _ => s

/-- The same value with the opposite sign cleared. -/
def Val.abs : Val → Val
  | .nan => .nan
  | .inf _ => .inf false
  | .fin _ n d => .fin false n d

/-- a < b; false with a NaN; the two zeros are equal (R224, R306). -/
def Val.lt : Val → Val → Bool
  | .nan, _ => false
  | _, .nan => false
  | .inf s, .inf t => s && !t
  | .inf s, .fin .. => s
  | .fin .., .inf t => !t
  | .fin s n d, .fin t m e => decide (signedNat s (n * e) < signedNat t (m * d))

/-- a = b; false with a NaN. -/
def Val.eqv : Val → Val → Bool
  | .nan, _ => false
  | _, .nan => false
  | .inf s, .inf t => s == t
  | .inf _, .fin .. => false
  | .fin .., .inf _ => false
  | .fin s n d, .fin t m e => decide (signedNat s (n * e) = signedNat t (m * d))

/-- The conditions of Tables 8.6 and 5.5 on two values: with a NaN all are false but ne. -/
def Cond.holdsVal (c : Cond) (a b : Val) : Bool :=
  if a.isNan || b.isNan then c == .ne else c.holds (a.lt b) (a.eqv b)

def Val.ofInt (x : Int) : Val := .fin (decide (x < 0)) x.natAbs 1

/-! ## f32 in registers -/

def f32Val (x : Word) : Val := Fmt.f32.value x.toNat
def f32Word (rm : Rm) (v : Val) : Word := BitVec.ofNat 32 (Fmt.f32.round rm v)

/-- FRM, with 100 to 111 as RNE (R30). -/
def frmOf (mode : Word) : Rm :=
  match (mode.extractLsb' 0 3).toNat with
  | 1 => .rz
  | 2 => .rd
  | 3 => .ru
  | _ => .rne

/-- The effective rounding mode: the prefix's RND when that is non-zero (Table 2.4, R31). -/
def rmOf (mode : Word) : Option VPfx → Rm
  | none => frmOf mode
  | some p => match p.rnd.toNat with
    | 0 => frmOf mode
    | 1 => .rne
    | 2 => .rz
    | 3 => .rd
    | _ => .ru

/-- One element of 16 bits computed as R226 lays down. -/
def half2 (m : Fmt) (f : Val → Val → Val → Val) (rm : Rm) (a b c : Word) : Word :=
  let el := fun i => m.round rm (f (m.value (a.toNat / 2 ^ (16 * i) % 65536)) (m.value (b.toNat / 2 ^ (16 * i) % 65536))
    (m.value (c.toNat / 2 ^ (16 * i) % 65536)))
  BitVec.ofNat 32 (el 0 + 65536 * el 1)

/-- FMIN and FMAX (R222): `max` takes the greater; −0 is less than +0. -/
def fminmax (max : Bool) (a b : Word) : Word :=
  let x := f32Val a
  let y := f32Val b
  let less := x.lt y || (x.isZero && y.isZero && x.sign && !y.sign)
  if x.isNan && y.isNan then 0x7FC00000
  else if x.isNan then b
  else if y.isNan then a
  else if less != max then a else b

/-- FCLASS (Table 8.7). -/
def fclassOf (a : Word) : Word :=
  let s := a.getLsbD 31
  let v := f32Val a
  if v.isNan then 0x100
  else
    let k := if v.isInf then 0 else if v.isZero then 3 else if Fmt.f32.subnormal a.toNat then 2 else 1
    1#32 <<< (if s then k else 7 - k)

end Sys2Proof.Machine
end

