-- ==== Sys2Proof/Machine/Special.lean ====
section
/-! DEFINITION. The special functions (R228, R229): special inputs and exact cases as Table 8.9 gives them; elsewhere a
free value held to the table's bound, which is checked against the exact value computed to 256 fraction bits
(DESIGN CHOICE, log entry 10). -/

namespace Sys2Proof.Machine

/-! ## Real functions in fixed point, 256 fraction bits -/

def fxOne : Int := 2 ^ 256
def fxMul (a b : Int) : Int := a * b / fxOne

/-- Σ t^k / k! from the k-th term on. -/
def expFrom (t : Int) : (fuel : Nat) → (k : Nat) → (term acc : Int) → Int
  | 0, _, _, acc => acc
  | fuel + 1, k, term, acc => expFrom t fuel (k + 1) (fxMul term t / (k + 1 : Int)) (acc + term)
def fxExp (t : Int) : Int := expFrom t 100 0 fxOne 0

/-- Σ (−1)^k t^(2k) / (2k + j)! × first, for sine (j = 1) and cosine (j = 0). -/
def trigFrom (sq : Int) : (fuel : Nat) → (k : Nat) → (term acc : Int) → Int
  | 0, _, _, acc => acc
  | fuel + 1, k, term, acc =>
    trigFrom sq fuel (k + 2) (-(fxMul term sq) / ((k + 1 : Int) * (k + 2 : Int))) (acc + term)
def fxSin (t : Int) : Int := trigFrom (fxMul t t) 100 1 t 0
def fxCos (t : Int) : Int := trigFrom (fxMul t t) 100 0 fxOne 0

/-- Σ s^k z^(2k+1) / (2k + 1): atanh for s = 1, atan for s = −1. -/
def atanFrom (s sq : Int) : (fuel : Nat) → (k : Nat) → (pow acc : Int) → Int
  | 0, _, _, acc => acc
  | fuel + 1, k, pow, acc => atanFrom s sq fuel (k + 2) (s * fxMul pow sq) (acc + pow / (k : Int))
def fxAtanh (z : Int) : Int := atanFrom 1 (fxMul z z) 200 1 z 0
def fxAtan (z : Int) : Int := atanFrom (-1) (fxMul z z) 200 1 z 0

def fxLn2 : Int := 2 * fxAtanh (fxOne / 3)
def fxPi : Int := 16 * fxAtan (fxOne / 5) - 4 * fxAtan (fxOne / 239)

/-- n / d in fixed point. -/
def fxOf (neg : Bool) (n d : Nat) : Int := signedNat neg (n * 2 ^ 256 / d)

def fxVal (x : Int) : Val := .fin (decide (x < 0)) x.natAbs (2 ^ 256)

/-- e^t for 0 ≤ t ≤ 64, by squaring e^(t/64) six times. -/
def fxExpBig (t : Int) : Int :=
  let a := fxExp (t / 64)
  let b := fxMul a a
  let c := fxMul b b
  let d := fxMul c c
  let e := fxMul d d
  let f := fxMul e e
  fxMul f f

/-! ## The functions -/

inductive Special where
  | rcp
  | rsq
  | sqrt
  | ex2
  | lg2
  | sin
  | cos
  | tanh
  deriving DecidableEq, Repr

/-- Opcode (Table 5.16). -/
def Special.op : Special → Nat
  | .rcp => 0x17
  | .rsq => 0x18
  | .sqrt => 0x19
  | .ex2 => 0x1A
  | .lg2 => 0x1B
  | .sin => 0x1C
  | .cos => 0x1D
  | .tanh => 0x1E

/-- Square root of n / d in fixed point, rounded down. -/
def fxSqrt (n d : Nat) : Nat := Nat.sqrt (n * 2 ^ 512 / d)

/-- The ratio is the square of a ratio: its root. -/
def ratioRoot (n d : Nat) : Option (Nat × Nat) :=
  let g := Nat.gcd n d
  let a := Nat.sqrt (n / g)
  let b := Nat.sqrt (d / g)
  if a * a = n / g ∧ b * b = d / g then some (a, b) else none

/-- 2^x for x = ±n / d of magnitude at most 256. -/
def ex2Val (neg : Bool) (n d : Nat) : Val :=
  let x := signedNat neg n
  let i := x / (d : Int)
  let f := x - i * (d : Int)
  let y := fxExp (fxMul (f * fxOne / (d : Int)) fxLn2)
  .dyadic false y.natAbs (i - 256)

/-- log₂ (n / d). -/
def lg2Val (n d : Nat) : Val :=
  let e := floorLog2 n d
  let (a, b) := scaleRatio n d (-e)
  let m := fxOf false a b
  fxVal (e * fxOne + 2 * fxAtanh ((m - fxOne) * fxOne / (m + fxOne)) * fxOne / fxLn2)

/-- The magnitude of the argument reduced to [0, 2π); sine is odd and cosine even. -/
def reduceAngle (n d : Nat) : Int := fxOf false n d % (2 * fxPi)

/-- tanh of ±n / d; beyond 32 it lies between 1 − 2^−90 and 1. -/
def tanhVal (neg : Bool) (n d : Nat) : Val :=
  if 32 * d < n then .fin neg (2 ^ 90 - 1) (2 ^ 90)
  else
    let e := fxExpBig (2 * fxOf false n d)
    match fxVal ((e - fxOne) * fxOne / (e + fxOne)) with
    | .fin _ a b => .fin neg a b
    | v => v

/-- The value for a finite non-zero argument: exact where the second component says so. -/
def Special.value (f : Special) (neg : Bool) (n d : Nat) : Val × Bool :=
  match f with
  | .rcp => (.fin neg d n, true)
  | .rsq => if neg then (.nan, true) else match ratioRoot d n with
    | some (a, b) => (.fin false a b, true)
    | none => (.fin false (fxSqrt d n) (2 ^ 256), false)
  | .sqrt => if neg then (.nan, true) else match ratioRoot n d with
    | some (a, b) => (.fin false a b, true)
    | none => (.fin false (fxSqrt n d) (2 ^ 256), false)
  | .ex2 =>
    if !neg && decide (128 * d ≤ n) then (.inf false, true)
    else if neg && decide (150 * d < n) then (.fin false 0 1, true)
    else if n % d = 0 then (.dyadic false 1 (signedNat neg (n / d)), true)
    else (ex2Val neg n d, false)
  | .lg2 =>
    if neg then (.nan, true)
    else
      let e := floorLog2 n d
      let (a, b) := scaleRatio n d (-e)
      if a = b then (.ofInt e, true) else (lg2Val n d, false)
  | .sin =>
    let y := fxSin (reduceAngle n d)
    (.fin (neg != decide (y < 0)) y.natAbs (2 ^ 256), false)
  | .cos => (fxVal (fxCos (reduceAngle n d)), false)
  | .tanh => (tanhVal neg n d, false)

/-- The special inputs of Table 8.9: infinities and zeros. -/
def Special.atInf (f : Special) (s : Bool) : Val :=
  match f with
  | .rcp => .fin s 0 1
  | .rsq => if s then .nan else .fin false 0 1
  | .sqrt => if s then .nan else .inf false
  | .ex2 => if s then .fin false 0 1 else .inf false
  | .lg2 => if s then .nan else .inf false
  | .sin => .nan
  | .cos => .nan
  | .tanh => .fin s 1 1

def Special.atZero (f : Special) (s : Bool) : Val :=
  match f with
  | .rcp => .inf s
  | .rsq => .inf s
  | .sqrt => .fin s 0 1
  | .ex2 => .fin false 1 1
  | .lg2 => .inf true
  | .sin => .fin s 0 1
  | .cos => .fin false 1 1
  | .tanh => .fin s 0 1

/-- ulp(y) = 2^(Max(Floor(Log2 |y|), −126) − 23). -/
def ulpOf (n d : Nat) : Val :=
  let e := floorLog2 n d
  .dyadic false 1 ((if n = 0 ∨ e < -126 then -126 else e) - 23)

/-- The bound of Table 8.9, for the argument n/d and the value y = a/b (DESIGN CHOICE, log entry 10). -/
def Special.bound (f : Special) (n d a b : Nat) : Val :=
  let times := fun (k : Nat) => Val.mul (.fin false k 1) (ulpOf a b)
  match f with
  | .rcp => times 1
  | .rsq => times 1
  | .sqrt => times 1
  | .ex2 => times 2
  | .lg2 => if d ≤ 2 * n ∧ n ≤ 2 * d then .fin false 1 (2 ^ 22) else times 2
  | .sin => .fin false 1 (2 ^ 22)
  | .cos => .fin false 1 (2 ^ 22)
  | .tanh => times 2

/-- The results confined to [−1, 1]. -/
def Special.confined : Special → Bool
  | .sin => true
  | .cos => true
  | .tanh => true
  | _ => false

/-- The word `r` lies within the bound of `y`. -/
def Special.within (f : Special) (n d : Nat) (y : Val) (r : Word) : Bool :=
  match y, f32Val r with
  | .fin s a b, .fin t p q =>
    let dist := (Val.add .rne (.fin t p q) (.fin (!s) a b)).abs
    !((f.bound n d a b).lt dist) && (!f.confined || decide (p ≤ q))
  | _, _ => false

/-- |y| < 2^−126 for the exact y (R228). Sine and tangent are below their argument, so an argument of 2^−126 counts. -/
def Special.tiny (f : Special) (n d : Nat) (y : Val) : Bool :=
  Fmt.f32.below y || (match f with
    | .sin => decide (n * 2 ^ 126 ≤ d)
    | .tanh => decide (n * 2 ^ 126 ≤ d)
    | .ex2 => y.isZero
    | _ => false)

/-- The special function on a word, under FSI and FSO: outside the exact cases the free value if it is within the bound, else
one that is; where no word is (a reciprocal beyond the largest number and its ulp), the free value (R2). -/
def Special.run (f : Special) (fsi fso : Bool) (x0 : Word) : Word :=
  let x := if fsi && Fmt.f32.subnormal x0.toNat then x0 &&& 0x80000000 else x0
  match f32Val x with
  | .nan => 0x7FC00000
  | .inf s => f32Word .rne (f.atInf s)
  | .fin s n d =>
    if n = 0 then f32Word .rne (f.atZero s)
    else
      let (y, exact) := f.value s n d
      if fso && f.tiny n d y then (if y.sign then 0x80000000 else 0)
      else if exact && (y.isNan || y.isInf || y.isZero || (f32Val (f32Word .rne y)).eqv y) then f32Word .rne y
      else
        let r := Config.specialFn f.op fsi fso x
        if f.within n d y r then r
        else if f.within n d y (f32Word .rne y) then f32Word .rne y
        else if f.within n d y (f32Word .rz y) then f32Word .rz y
        else r

/-- FSI and FSO of a MODE value. -/
def fsiOf (mode : Word) : Bool := mode.getLsbD 12
def fsoOf (mode : Word) : Bool := mode.getLsbD 13

def Special.result (f : Special) (mode x : Word) : Word := f.run (fsiOf mode) (fsoOf mode) x

/-! ## Issue: long-latency, result at LONG_LATENCY_RESULT -/

def State.issueSpecial (s : State) (i : Instr) (o : VR1) : State :=
  s.issueLong i o.x (s.active o.g) [o.a] [.v o.d.toNat]

def execRcp (o : VR1) (s : State) : Host.Outcome State Fault Refusal := .next (s.issueSpecial (.rcp o) o)
def execRsq (o : VR1) (s : State) : Host.Outcome State Fault Refusal := .next (s.issueSpecial (.rsq o) o)
def execSqrt (o : VR1) (s : State) : Host.Outcome State Fault Refusal := .next (s.issueSpecial (.sqrt o) o)
def execEx2 (o : VR1) (s : State) : Host.Outcome State Fault Refusal := .next (s.issueSpecial (.ex2 o) o)
def execLg2 (o : VR1) (s : State) : Host.Outcome State Fault Refusal := .next (s.issueSpecial (.lg2 o) o)
def execSin (o : VR1) (s : State) : Host.Outcome State Fault Refusal := .next (s.issueSpecial (.sin o) o)
def execCos (o : VR1) (s : State) : Host.Outcome State Fault Refusal := .next (s.issueSpecial (.cos o) o)
def execTanh (o : VR1) (s : State) : Host.Outcome State Fault Refusal := .next (s.issueSpecial (.tanh o) o)

end Sys2Proof.Machine
end

