-- ==== Sys2Proof/Machine/Rational.lean ====
section
/-! DEFINITION. Rational mode (11, R290 to R308): the q32 format, its rounding, and the class F Q instructions, which
are long-latency: issue here, result at LONG_LATENCY_RESULT. -/

namespace Sys2Proof.Machine

/-! ## q32 words (R48, R49) -/

def bitLen (n : Nat) : Nat := if n = 0 then 0 else Nat.log2 n + 1

/-- Table 2.11. -/
def qVal (x : Word) : Val :=
  let s := x.getLsbD 31
  let n := (x.extractLsb' 26 5).toNat
  let body := x.toNat % 2 ^ 26
  let p := body % 2 ^ n
  let q := body / 2 ^ n
  if 27 ≤ n then .nan
  else if q = 0 then (if p = 1 then .inf s else .nan)
  else if p = 0 then .fin false 0 1
  else .fin s p q

/-- A finite value in lowest terms; zero is +0 (R290, R292). -/
def Val.reduce : Val → Val
  | .fin s n d => if n = 0 then .fin false 0 1 else .fin s (n / Nat.gcd n d) (d / Nat.gcd n d)
  | v => v

/-- Encode (R49, Table 2.12), of a value in lowest terms that fits 26 bits. -/
def qEncode : Val → Word
  | .nan => 0
  | .inf s => if s then 0x84000001 else 0x04000001
  | .fin s p q =>
    if p = 0 then 1
    else BitVec.ofNat 32 ((if s then 2 ^ 31 else 0) + bitLen p * 2 ^ 26 + q * 2 ^ bitLen p + p)

/-! ## Neighbours and rounding (R291, R292) -/

def fits (p q b : Nat) : Bool := decide (bitLen p + bitLen q ≤ b)

/-- The greatest k ≤ `most`, below 2^27, for which the k-th fraction of a run from p/q by steps of dp/dq fits: its bits
are chosen from the highest down. -/
def runLength (p q dp dq b most : Nat) : Nat :=
  (List.range 27).foldr (fun i k => (fun k' => if k' ≤ most && fits (p + k' * dp) (q + k' * dq) b then k' else k) (k + 2 ^ i)) 0

/-- Bracket of R291 from the bounds lo = (a, b) and hi = (c, e), one run of steps in one direction at a time; a value has
few enough partial quotients for the fuel of `bracket`. -/
def bracketFrom (n d B : Nat) : (fuel a b c e : Nat) → (Nat × Nat) × (Nat × Nat)
  | 0, a, b, c, e => ((a, b), (c, e))
  | fuel + 1, a, b, c, e =>
    if n * (b + e) < d * (a + c) then
      let k := runLength c e a b B ((d * c - n * e - 1) / (n * b - d * a))
      if k = 0 then ((a, b), (c, e)) else bracketFrom n d B fuel a b (c + k * a) (e + k * b)
    else
      let k := runLength a b c e B ((n * b - d * a - 1) / (d * c - n * e))
      if k = 0 then ((a, b), (c, e)) else bracketFrom n d B fuel (a + k * c) (b + k * e) c e

/-- Bracket (R291): the neighbours of n / d in budget B. -/
def bracket (n d B : Nat) : (Nat × Nat) × (Nat × Nat) := bracketFrom n d B 128 0 1 1 0

/-- Rational rounding modes (Table 2.5, QRM). -/
inductive Qrm where
  | nearest
  | zero
  | down
  | up
  | mediant
  deriving DecidableEq, Repr

/-- QRM 101 to 111 act as nearest (R30). -/
def qrmOf (mode : Word) : Qrm :=
  match (mode.extractLsb' 4 3).toNat with
  | 1 => .zero
  | 2 => .down
  | 3 => .up
  | 4 => .mediant
  | _ => .nearest

/-- The tie rule of R292. -/
def qTie (lo hi : Nat × Nat) : Nat × Nat :=
  if lo.2 < hi.2 then lo else if hi.2 < lo.2 then hi else if lo.1 % 2 = 0 then lo else hi

/-- Nearer (R292): n / d against the midpoint of lo and hi. -/
def qNearer (lo hi : Nat × Nat) (n d : Nat) : Nat × Nat :=
  let twice := 2 * n * (lo.2 * hi.2)
  let sum := (lo.1 * hi.2 + hi.1 * lo.2) * d
  if twice < sum then lo else if sum < twice then hi else qTie lo hi

/-- QRound (R292). -/
def qRound (md : Qrm) (B : Nat) (v : Val) : Val :=
  match v.reduce with
  | .fin s n d =>
    if n = 0 then .fin false 0 1
    else if (2 ^ (B - 1) - 1) * d < n then .inf s
    else if fits n d B then .fin s n d
    else
      let (lo, hi) := bracket n d B
      let r := match md with
        | .nearest => qNearer lo hi n d
        | .mediant =>
          let m := (lo.1 + hi.1, lo.2 + hi.2)
          if n * m.2 < m.1 * d then lo else if m.1 * d < n * m.2 then hi else qTie lo hi
        | .zero => lo
        | .down => if s then hi else lo
        | .up => if s then lo else hi
      if r.1 = 0 then .fin false 0 1 else .fin s r.1 r.2
  | w => w

/-- A result of an arithmetic operation as a word (budget 26). -/
def qWord (mode : Word) (v : Val) : Word := qEncode (qRound (qrmOf mode) 26 v)

/-! ## Results of the Q instructions -/

def qAdd (mode a b : Word) : Word := qWord mode (Val.add .rne (qVal a) (qVal b))
def qSub (mode a b : Word) : Word := qWord mode (Val.add .rne (qVal a) (qVal b).neg)
def qMul (mode a b : Word) : Word := qWord mode (Val.mul (qVal a) (qVal b))
def qDiv (mode a b : Word) : Word := qWord mode (Val.div (qVal a) (qVal b))
def qFma (mode a b c : Word) : Word := qWord mode (Val.fma .rne (qVal a) (qVal b) (qVal c))

/-- QFROM's operands as integers (R301). -/
def qFrom (mode a b : Word) : Word := qWord mode (Val.div (.ofInt a.toInt) (.ofInt b.toInt))

/-- QREC (R300). -/
def qRec (mode a : Word) : Word := qWord mode (Val.div (.fin false 1 1) (qVal a))

/-- The canonical pair of R302 and R304: signed numerator, denominator. -/
def qPair (a : Word) : Int × Nat :=
  match (qVal a).reduce with
  | .nan => (0, 0)
  | .inf s => (signedNat s 1, 0)
  | .fin s n d => (signedNat s n, d)

def qNum (a : Word) : Word := BitVec.ofInt 32 (qPair a).1
def qDen (a : Word) : Word := BitVec.ofNat 32 (qPair a).2

/-- QMED (R304). -/
def qMed (mode a b : Word) : Word :=
  if (qVal a).isNan || (qVal b).isNan then 0
  else
    let x := qPair a
    let y := qPair b
    let n := x.1 + y.1
    let d := x.2 + y.2
    if d = 0 then qEncode (if n = 0 then .nan else .inf (decide (n < 0)))
    else qWord mode (.fin (decide (n < 0)) n.natAbs d)

/-- QRND (R305). -/
def qRnd (mode a b : Word) : Word :=
  qEncode (qRound (qrmOf mode) (Nat.max 2 (Nat.min 26 (b.extractLsb' 0 5).toNat)) (qVal a))

/-- Rounding to an integer under QRM: mediant rounds as nearest (R303). -/
def qrmRm (mode : Word) : Rm :=
  match qrmOf mode with
  | .zero => .rz
  | .down => .rd
  | .up => .ru
  | _ => .rne

/-- QCVT (R303). -/
def qCvt (mode a : Word) : Word :=
  match qVal a with
  | .nan => 0
  | .inf s => if s then 0x80000000 else 0x7FFFFFFF
  | .fin s n d => BitVec.ofInt 32 (signedNat s (roundInt (qrmRm mode) s n d))

/-- QCLASS (R307, Table 11.4). -/
def qClass (a : Word) : Word :=
  let v := (qVal a).reduce
  let k := match v with
    | .nan => 7
    | .inf s => if s then 0 else 6
    | .fin s n d => if n = 0 then 3 else if d = 1 then (if s then 2 else 4) else (if s then 1 else 5)
  (1#32 <<< k) ||| (if a = qEncode v && (v.isZero || v.isInf || v.isNan || fits (qPair a).1.natAbs (qPair a).2 26)
    then 0 else 0x100)

/-- The zero-denominator event of a quotient (R295): the divisor is 0 and no operand is NaR. -/
def zeroDivisor (a b : Val) : Bool := b.isZero && !a.isNan

/-! ## Issue -/

/-- TRAPEN.QZE (Table 14.2). -/
def Warp.qze (w : Warp) : Bool := w.trapen.getLsbD 9

/-- A Q instruction with no zero divisor to check. -/
def State.issueQ (s : State) (i : Instr) (x : Option VPfx) (g : LGuard) (srcs : List Reg) (d : Reg) : State :=
  s.issueLong i x (s.active g) srcs [.v d.toNat]

/-- A Q instruction that forms a quotient; `ev l` is lane l's zero-denominator event (R295). -/
def State.issueQuot (s : State) (i : Instr) (x : Option VPfx) (g : LGuard) (srcs : List Reg) (d : Reg)
    (ev : Nat → Bool) : State :=
  if s.self.qze then
    match (lanesOf (s.activeThreads g)).find? ev with
    | some l => s.trapWord 9 0 none (some l)
    | none => s.issueQ i x g srcs d
  else s.issueQ i x g srcs d

def execQadd (o : VRR) (s : State) : Host.Outcome State Fault Refusal :=
  .next (s.issueQ (.qadd o) o.x o.g [o.a, o.b] o.d)

def execQsub (o : VRR) (s : State) : Host.Outcome State Fault Refusal :=
  .next (s.issueQ (.qsub o) o.x o.g [o.a, o.b] o.d)

def execQmul (o : VRR) (s : State) : Host.Outcome State Fault Refusal :=
  .next (s.issueQ (.qmul o) o.x o.g [o.a, o.b] o.d)

def execQdiv (o : VRR) (s : State) : Host.Outcome State Fault Refusal :=
  .next (s.issueQuot (.qdiv o) o.x o.g [o.a, o.b] o.d fun l =>
    zeroDivisor (qVal (s.rdV o.a l)) (qVal (s.rdV1 o.b l)))

def execQcvt (o : VR1) (s : State) : Host.Outcome State Fault Refusal := .next (s.issueQ (.qcvt o) o.x o.g [o.a] o.d)

def execQfrom (o : VRR) (s : State) : Host.Outcome State Fault Refusal :=
  .next (s.issueQuot (.qfrom o) o.x o.g [o.a, o.b] o.d fun l => s.rdV1 o.b l == 0)

def execQnum (o : VR1) (s : State) : Host.Outcome State Fault Refusal := .next (s.issueQ (.qnum o) o.x o.g [o.a] o.d)

def execQden (o : VR1) (s : State) : Host.Outcome State Fault Refusal := .next (s.issueQ (.qden o) o.x o.g [o.a] o.d)

def execQmed (o : VRR) (s : State) : Host.Outcome State Fault Refusal :=
  .next (s.issueQ (.qmed o) o.x o.g [o.a, o.b] o.d)

def execQrnd (o : VRR) (s : State) : Host.Outcome State Fault Refusal :=
  .next (s.issueQ (.qrnd o) o.x o.g [o.a, o.b] o.d)

/-- QSETP (R306): the predicate is a long-latency destination, read as well when it is combined. -/
def State.issueQsetp (s : State) (i : Instr) (o : VCP) : State :=
  let act := s.active o.g
  if act = 0 then s
  else s.pushOp { s.newOp i act with
    caps := [s.capAt 0 o.a.toNat, s.capAt 1 o.b.toNat, s.capP 5 o.t.toNat] ++ (match o.x with
      | some p => if p.wme then [s.capP 4 p.wmp.toNat] else []
      | none => [])
    dests := [⟨.p o.t.toNat, s.writtenLanes o.x act⟩] }

def execQsetpEq (o : VCP) (s : State) : Host.Outcome State Fault Refusal := .next (s.issueQsetp (.qsetpEq o) o)
def execQsetpNe (o : VCP) (s : State) : Host.Outcome State Fault Refusal := .next (s.issueQsetp (.qsetpNe o) o)
def execQsetpLt (o : VCP) (s : State) : Host.Outcome State Fault Refusal := .next (s.issueQsetp (.qsetpLt o) o)
def execQsetpLe (o : VCP) (s : State) : Host.Outcome State Fault Refusal := .next (s.issueQsetp (.qsetpLe o) o)
def execQsetpGt (o : VCP) (s : State) : Host.Outcome State Fault Refusal := .next (s.issueQsetp (.qsetpGt o) o)
def execQsetpGe (o : VCP) (s : State) : Host.Outcome State Fault Refusal := .next (s.issueQsetp (.qsetpGe o) o)

def execQrec (o : VR1) (s : State) : Host.Outcome State Fault Refusal :=
  .next (s.issueQuot (.qrec o) o.x o.g [o.a] o.d fun l => (qVal (s.rdV o.a l)).isZero)

def execQclass (o : VR1) (s : State) : Host.Outcome State Fault Refusal :=
  .next (s.issueQ (.qclass o) o.x o.g [o.a] o.d)

end Sys2Proof.Machine
end

