-- ==== Sys2Proof/Machine/Convert.lean ====
section
/-! DEFINITION. Conversions (R35 to R39, R230 to R232) and the conversion counters (R40 to R43). -/

namespace Sys2Proof.Machine

/-- A conversion's result and its events (Table 2.8). -/
structure Conv where
  res : Word
  sat : Bool
  ftz : Bool
  nan : Bool
  deriving DecidableEq, Repr

/-- Flush bits: inputs and outputs of each width class (Table 2.5). -/
structure Flush where
  fni : Bool
  fno : Bool
  fhi : Bool
  fho : Bool
  fsi : Bool
  fso : Bool
  deriving DecidableEq, Repr

def Flush.none : Flush := ⟨false, false, false, false, false, false⟩
def flushOf (mode : Word) : Flush :=
  ⟨mode.getLsbD 8, mode.getLsbD 9, mode.getLsbD 10, mode.getLsbD 11, mode.getLsbD 12, mode.getLsbD 13⟩

/-- The flush bits of a format's class (Table 2.5). -/
def Flush.input (f : Flush) (m : Fmt) : Bool := if m.bits = 32 then f.fsi else if m.bits = 16 then f.fhi else f.fni
def Flush.output (f : Flush) (m : Fmt) : Bool := if m.bits = 32 then f.fso else if m.bits = 16 then f.fho else f.fno

/-- The source value with its input flush (R34): value and whether it was flushed. -/
def readFlushed (fl : Flush) (m : Fmt) (code : Nat) : Val × Bool :=
  if fl.input m && m.subnormal code then
    (.fin (m.value code).sign 0 1, true)
  else (m.value code, false)

/-- How a conversion into a floating format treats what does not fit: per R28; saturated and counted when finite; when
infinite too (Table 2.6, R38). -/
inductive Over where
  | ieee
  | finite
  | all
  deriving DecidableEq, Repr

/-- Into a floating format: output flush, rounding, saturation (Table 2.6). -/
def intoFloat (fl : Flush) (m : Fmt) (rm : Rm) (ov : Over) (v : Val) (ftz : Bool) : Conv :=
  match v with
  | .nan => ⟨BitVec.ofNat 32 m.nan, false, false, true⟩
  | .inf s =>
    if ov = .all then ⟨BitVec.ofNat 32 (m.signed s m.top), true, ftz, false⟩
    else ⟨BitVec.ofNat 32 (m.round rm v), false, ftz, false⟩
  | .fin s _ _ =>
    if fl.output m && m.below v then ⟨BitVec.ofNat 32 (m.signed s 0), false, true, false⟩
    else if ov != .ieee && m.overflows rm v then ⟨BitVec.ofNat 32 (m.signed s m.top), true, ftz, false⟩
    else ⟨BitVec.ofNat 32 (m.round rm v), false, ftz, false⟩

/-- Into an integer format with limits lo and hi, `w` bits wide. -/
def intoInt (lo hi : Int) (w : Nat) (rm : Rm) (v : Val) (ftz : Bool) : Conv :=
  let out := fun (x : Int) => BitVec.ofNat 32 (BitVec.ofInt w x).toNat
  match v with
  | .nan => ⟨0, false, false, true⟩
  | .inf s => ⟨out (if s then lo else hi), true, ftz, false⟩
  | .fin s n d =>
    let x := signedNat s (roundInt rm s n d)
    if x < lo then ⟨out lo, true, ftz, false⟩
    else if hi < x then ⟨out hi, true, ftz, false⟩
    else ⟨out x, false, ftz, false⟩

/-- Into q32 (Table 2.6, R292). -/
def intoRational (mode : Word) (v : Val) (ftz : Bool) : Conv :=
  ⟨qWord mode v, false, ftz && !v.isNan, v.isNan⟩

/-- The conversions of Table 2.6. -/
def convert (fl : Flush) (mode : Word) (rm : Rm) (code : BitVec 6) (x : Word) : Conv :=
  let src := fun (m : Fmt) => readFlushed fl m x.toNat
  let f := src .f32
  let i32 := Val.ofInt x.toInt
  match code.toNat with
  | 0x00 => intoInt (-2147483648) 2147483647 32 rm f.1 f.2
  | 0x01 => intoInt 0 4294967295 32 rm f.1 f.2
  | 0x02 => intoFloat fl .f32 rm .ieee i32 false
  | 0x03 => intoFloat fl .f32 rm .ieee (.fin false x.toNat 1) false
  | 0x04 => intoFloat fl .f16 rm .ieee f.1 f.2
  | 0x05 => intoFloat fl .f32 rm .ieee (src .f16).1 (src .f16).2
  | 0x06 => intoFloat fl .bf16 rm .ieee f.1 f.2
  | 0x07 => intoFloat fl .f32 rm .ieee (src .bf16).1 (src .bf16).2
  | 0x08 => intoFloat fl .e4m3 rm .all f.1 f.2
  | 0x09 => intoFloat fl .f32 rm .ieee (src .e4m3).1 (src .e4m3).2
  | 0x0A => intoFloat fl .e5m2 rm .finite f.1 f.2
  | 0x0B => intoFloat fl .f32 rm .ieee (src .e5m2).1 (src .e5m2).2
  | 0x0C => intoFloat fl .e2m1 rm .all f.1 f.2
  | 0x0D => intoFloat fl .f32 rm .ieee (src .e2m1).1 (src .e2m1).2
  | 0x0E => intoRational mode f.1 f.2
  | 0x0F => intoFloat fl .f32 rm .ieee (qVal x) false
  | 0x10 => intoRational mode i32 false
  | 0x11 => intoInt (-128) 127 8 rm f.1 f.2
  | 0x12 => intoInt (-8) 7 4 rm f.1 f.2
  | _ => intoFloat fl .f32 rm .ieee (.ofInt (x.extractLsb' 0 8).toInt) false

/-- The value of an E8M0 scale byte below 0xFF: 2^(e − 127) (R37). -/
def scaleVal (e : BitVec 8) : Val := .dyadic false 1 ((e.toNat : Int) - 127)

/-- ScaledNarrow (R38): into e4m3, e5m2, e2m1, i8 or i4 (codes as CVT's), nearest even. `fno` is CVTS's alone. -/
def scaledNarrow (fno : Bool) (code : Nat) (scale : BitVec 8) (v : Val) (ftz : Bool) : Conv :=
  let fl := { Flush.none with fno := fno }
  let q := if scale = 0xFF then Val.nan else Val.div v (scaleVal scale)
  let r := match code with
    | 0x08 => intoFloat fl .e4m3 .rne .all q ftz
    | 0x0A => intoFloat fl .e5m2 .rne .all q ftz
    | 0x0C => intoFloat fl .e2m1 .rne .all q ftz
    | 0x11 => intoInt (-128) 127 8 .rne q ftz
    | _ => intoInt (-8) 7 4 .rne q ftz
  { r with ftz := r.ftz || (ftz && !v.isNan) }

/-- A narrow element times its scale, rounded once to f32 (R39). -/
def scaledWide (fso : Bool) (scale : BitVec 8) (v : Val) (ftz : Bool) : Conv :=
  let p := if scale = 0xFF then Val.nan else Val.mul v (scaleVal scale)
  let r := intoFloat { Flush.none with fso := fso } .f32 .rne .ieee p ftz
  { r with ftz := r.ftz || (ftz && !v.isNan) }

/-! ## Counters (R41, R42) -/

/-- One counting addition at offset `off` of the job control block: the new value stays at 2^64 − 1; the result says
whether the limit was crossed (DEDUCED, log entry 15). -/
def State.addCounter (s : State) (core cid : Nat) (jcb : DWord) (i n : Nat) : Except AccFault (State × Bool) :=
  if n = 0 then .ok (s, false)
  else
    let at_ := jcb + BitVec.ofNat 64 (0x30 + 8 * i)
    match s.ctxRead64 core cid at_, s.ctxRead64 core cid (jcb + BitVec.ofNat 64 (0x50 + 8 * i)) with
    | .error f, _ => .error f
    | _, .error f => .error f
    | .ok old, .ok lim =>
      let new := Nat.min (old.toNat + n) (2 ^ 64 - 1)
      match (s.noteCtxHome core cid (jcb + BitVec.ofNat 64 (0x50 + 8 * i)) 8).ctxWrite core cid at_ (bytes64 (BitVec.ofNat 64 new)) with
      | .error f => .error f
      | .ok t => .ok (t, lim != 0 && decide (old.toNat ≤ lim.toNat) && decide (lim.toNat < new))

def State.addCounters (s : State) (core cid : Nat) (jcb : DWord) : (i : Nat) → List Nat →
    Except AccFault (State × BitVec 8)
  | _, [] => .ok (s, 0)
  | i, n :: l =>
    match s.addCounter core cid jcb i n with
    | .error f => .error f
    | .ok (t, b) =>
      match t.addCounters core cid jcb (i + 1) l with
      | .error f => .error f
      | .ok (u, m) => .ok (u, if b then m ||| (1#8 <<< i) else m)

/-- Add events to SATCNT, FTZCNT, NANCNT, TRUNCNT, in that order; the mask of limits crossed. An addition that does not
go through terminates the context (R358). -/
def State.countEvents (s : State) (core cid : Nat) (counts : List Nat) : State × BitVec 8 :=
  if counts.all (· == 0) then (s, 0)
  else match (s.ctx cid).job with
    | none => (s, 0)
    | some j => match s.addCounters core cid j.jcb 0 counts with
      | .ok r => r
      | .error f => ((s.noteFault f).terminate cid f.cause, 0)

/-- A crossing to be delivered to the warp at a run boundary: masks are joined, the earliest clause is kept (R42)
(DEDUCED, log entry 17). -/
def Warp.cross (w : Warp) (mask : BitVec 8) (hdr : DWord) : Warp :=
  if mask = 0 then w
  else match w.crossing with
    | some p => { w with crossing := some { p with cause := p.cause ||| mask } }
    | none => { w with crossing := some ⟨mask, hdr⟩ }

/-- The events of a conversion of the executing warp: one per active non-helper lane and counter (R41)
(DEDUCED, log entry 17). -/
def State.countLanes (s : State) (lanes : Lanes) (f : Nat → Conv) : State :=
  let cs := (lanesOf lanes).map f
  let num := fun (p : Conv → Bool) => (cs.filter p).length
  let w := s.self
  let (t, mask) := s.countEvents w.core w.cid [num Conv.sat, num Conv.ftz, num Conv.nan, 0]
  t.updWarp s.focus.wid fun x => x.cross mask (s.focus.hdr.zeroExtend 64)

/-! ## CVT, CVTS, CVTX -/

/-- CVT (R230). -/
def execCvt (o : VCV) (s : State) : Host.Outcome State Fault Refusal :=
  let mode := s.self.mode
  let f := fun l => convert (flushOf mode) mode (rmOf mode o.x) o.code (s.rdV o.a l)
  .next ((s.vecSet o.x (s.active o.g) o.d fun l => (f l).res).countLanes (s.activeThreads o.g) f)

/-- Element j's byte of a CVTS (R231) (DEDUCED, log entry 15). -/
def State.cvtsLane (s : State) (a : Reg) (wb : Word) (l : Nat) : Conv :=
  let x := s.rdV a l
  let fl := flushOf s.self.mode
  let (v, ftz) := readFlushed { Flush.none with fsi := fl.fsi } .f32 x.toNat
  scaledNarrow fl.fno (wb.extractLsb' 8 6).toNat (wb.extractLsb' 0 8) v ftz

/-- The word a quad's lanes receive: one byte per lane, 0x00 from a lane that is not active (R231). -/
def State.cvtsQuad (s : State) (act : Lanes) (a : Reg) (wb : Word) (q : Nat) : Word :=
  let byte := fun (j : Nat) => if act.getLsbD (4 * q + j) then (s.cvtsLane a wb (4 * q + j)).res.truncate 8 else 0#8
  byte 3 ++ (byte 2 ++ (byte 1 ++ byte 0))

/-- DEDUCED, log entry 16. -/
def cvtsCodeOk (wb : Word) : Bool :=
  wb.extractLsb' 14 18 == 0 && [0x08, 0x0A, 0x0C, 0x11, 0x12].contains (wb.extractLsb' 8 6).toNat

/-- CVTS (R231): a bad scale word is an illegal instruction at issue (DEDUCED, log entry 16). -/
def execCvts (o : VAW) (s : State) : Host.Outcome State Fault Refusal :=
  let wb := s.rdW o.w
  let act := s.active o.g
  .next (if cvtsCodeOk wb then
      (s.vecSet o.x act o.d fun l => s.cvtsQuad act o.a wb (l / 4)).countLanes (s.activeThreads o.g) (s.cvtsLane o.a wb)
    else s.trapWord 2 0 none none)

def cvtxCodeOk (wb : Word) : Bool :=
  wb.extractLsb' 14 18 == 0 && [0x09, 0x0B, 0x0D, 0x13].contains (wb.extractLsb' 8 6).toNat

/-- One lane of CVTX.bN (R232): FNI applies to the narrow element, FSO to the product. -/
def cvtxLane (mode wb : Word) (n : Nat) (x : Word) : Conv :=
  let fl := flushOf mode
  let b := x.toNat / 2 ^ (8 * n) % 256
  let (v, ftz) := match (wb.extractLsb' 8 6).toNat with
    | 0x09 => readFlushed { Flush.none with fni := fl.fni } .e4m3 b
    | 0x0B => readFlushed { Flush.none with fni := fl.fni } .e5m2 b
    | 0x0D => readFlushed { Flush.none with fni := fl.fni } .e2m1 b
    | _ => (.ofInt (BitVec.ofNat 8 b).toInt, false)
  scaledWide fl.fso (wb.extractLsb' 0 8) v ftz

def State.cvtx (s : State) (o : VAW) (n : Nat) : State :=
  let wb := s.rdW o.w
  let f := fun l => cvtxLane s.self.mode wb n (s.rdV o.a l)
  if cvtxCodeOk wb then
    (s.vecSet o.x (s.active o.g) o.d fun l => (f l).res).countLanes (s.activeThreads o.g) f
  else s.trapWord 2 0 none none

def execCvtxB0 (o : VAW) (s : State) : Host.Outcome State Fault Refusal := .next (s.cvtx o 0)
def execCvtxB1 (o : VAW) (s : State) : Host.Outcome State Fault Refusal := .next (s.cvtx o 1)
def execCvtxB2 (o : VAW) (s : State) : Host.Outcome State Fault Refusal := .next (s.cvtx o 2)
def execCvtxB3 (o : VAW) (s : State) : Host.Outcome State Fault Refusal := .next (s.cvtx o 3)

end Sys2Proof.Machine
end

