-- ==== Sys2Proof/Machine/Scalar.lean ====
section
/-! DEFINITION. Class S (R207, R213, R216 to R219, R221, R224, R227, R230, R297): once for the warp, under the uniform
guard. -/

namespace Sys2Proof.Machine

/-! ## Shapes -/

/-- Write `x` to wd if the guard holds. -/
def State.sSet (s : State) (g : UGuard) (d : Reg) (x : Word) : State := if s.uholds g then s.wr (.w d.toNat) 0 x else s

/-- wd := f wa wb. -/
def State.sBin (s : State) (o : SRR) (f : Word → Word → Word) : State := s.sSet o.g o.d (f (s.rdW o.a) (s.rdW1 o.b))
def State.sUn (s : State) (o : SR1) (f : Word → Word) : State := s.sSet o.g o.d (f (s.rdW o.a))
def State.sImm (s : State) (o : SRI) (f : Word → Word) : State := s.sSet o.g o.d (f (s.rdW o.a))

/-- Write a pair (R210). -/
def State.sBin64 (s : State) (o : SRR) (f : DWord → DWord → DWord) : State :=
  if s.uholds o.g then s.wr64 o.d.toNat (f (s.rdW64 o.a) (s.rdW641 o.b)) else s

/-- Write kd if the guard holds. -/
def State.kSet (s : State) (g : UGuard) (t : BitVec 3) (b : Bool) : State :=
  if s.uholds g then s.wr (.k t.toNat) 0 (boolWord b) else s

/-! ## Integer results -/

/-- A register shift count is b[7:0] (R212). -/
def shiftCount (b : Word) : Nat := (b.extractLsb' 0 8).toNat
def shlBy (a : Word) (n : Nat) : Word := a <<< n
def shrBy (a : Word) (n : Nat) : Word := a >>> n
def sarBy (a : Word) (n : Nat) : Word := a.sshiftRight n

def mulHighI (a b : Word) : Word := BitVec.ofInt 32 (a.toInt * b.toInt / 2 ^ 32)
def mulHighN (a b : Word) : Word := BitVec.ofNat 32 (a.toNat * b.toNat / 2 ^ 32)
def minI (a b : Word) : Word := if a.slt b then a else b
def maxI (a b : Word) : Word := if a.slt b then b else a
def minN (a b : Word) : Word := if a.ult b then a else b
def maxN (a b : Word) : Word := if a.ult b then b else a
def popCount (a : Word) : Word := BitVec.ofNat 32 (countBits a 32)
/-- Leading zero bits; 32 for 0. -/
def leadingZeros (a : Word) : Word := BitVec.ofNat 32 (32 - bitLen a.toNat)

/-! ## Table 8.2 -/

def execMovw (o : SR1) (s : State) : Host.Outcome State Fault Refusal := .next (s.sUn o id)
def execLiw (o : SRL) (s : State) : Host.Outcome State Fault Refusal := .next (s.sSet o.g o.d o.lit)
def execAddw (o : SRR) (s : State) : Host.Outcome State Fault Refusal := .next (s.sBin o (· + ·))
def execAddwi (o : SRI) (s : State) : Host.Outcome State Fault Refusal :=
  .next (s.sImm o (· + o.imm.signExtend 32))
def execSubw (o : SRR) (s : State) : Host.Outcome State Fault Refusal := .next (s.sBin o (· - ·))
def execMulw (o : SRR) (s : State) : Host.Outcome State Fault Refusal := .next (s.sBin o (· * ·))
def execMulhwI (o : SRR) (s : State) : Host.Outcome State Fault Refusal := .next (s.sBin o mulHighI)
def execMulhwN (o : SRR) (s : State) : Host.Outcome State Fault Refusal := .next (s.sBin o mulHighN)
def execShlw (o : SRR) (s : State) : Host.Outcome State Fault Refusal :=
  .next (s.sBin o fun a b => shlBy a (shiftCount b))
def execShrw (o : SRR) (s : State) : Host.Outcome State Fault Refusal :=
  .next (s.sBin o fun a b => shrBy a (shiftCount b))
def execSarw (o : SRR) (s : State) : Host.Outcome State Fault Refusal :=
  .next (s.sBin o fun a b => sarBy a (shiftCount b))
def execShlwi (o : SRI) (s : State) : Host.Outcome State Fault Refusal := .next (s.sImm o (shlBy · o.imm.toNat))
def execShrwi (o : SRI) (s : State) : Host.Outcome State Fault Refusal := .next (s.sImm o (shrBy · o.imm.toNat))
def execSarwi (o : SRI) (s : State) : Host.Outcome State Fault Refusal := .next (s.sImm o (sarBy · o.imm.toNat))
def execAndw (o : SRR) (s : State) : Host.Outcome State Fault Refusal := .next (s.sBin o (· &&& ·))
def execOrw (o : SRR) (s : State) : Host.Outcome State Fault Refusal := .next (s.sBin o (· ||| ·))
def execXorw (o : SRR) (s : State) : Host.Outcome State Fault Refusal := .next (s.sBin o (· ^^^ ·))
def execNotw (o : SR1) (s : State) : Host.Outcome State Fault Refusal := .next (s.sUn o (~~~ ·))
def execMinwI (o : SRR) (s : State) : Host.Outcome State Fault Refusal := .next (s.sBin o minI)
def execMaxwI (o : SRR) (s : State) : Host.Outcome State Fault Refusal := .next (s.sBin o maxI)
def execMinwN (o : SRR) (s : State) : Host.Outcome State Fault Refusal := .next (s.sBin o minN)
def execMaxwN (o : SRR) (s : State) : Host.Outcome State Fault Refusal := .next (s.sBin o maxN)
def execAdd64w (o : SRR) (s : State) : Host.Outcome State Fault Refusal := .next (s.sBin64 o (· + ·))
def execSub64w (o : SRR) (s : State) : Host.Outcome State Fault Refusal := .next (s.sBin64 o (· - ·))
def execBcntw (o : SR1) (s : State) : Host.Outcome State Fault Refusal := .next (s.sUn o popCount)
def execClzw (o : SR1) (s : State) : Host.Outcome State Fault Refusal := .next (s.sUn o leadingZeros)

/-! ## Compare, select, V2W (R216, R218, R219) -/

def execCmpwI (o : SCS) (s : State) : Host.Outcome State Fault Refusal :=
  .next (s.kSet o.g o.t (cmpInt true (.ofCode o.cond) (s.rdW o.a) (s.rdW1 o.b)))
def execCmpwN (o : SCS) (s : State) : Host.Outcome State Fault Refusal :=
  .next (s.kSet o.g o.t (cmpInt false (.ofCode o.cond) (s.rdW o.a) (s.rdW1 o.b)))

/-- SELW: the selector is kN XOR S; there is no guard (R122). -/
def execSelw (o : SSel) (s : State) : Host.Outcome State Fault Refusal :=
  .next (s.wr (.w o.d.toNat) 0 (if s.rdK o.k.toNat != o.s then s.rdW o.a else s.rdW1 o.b))

/-- V2W reads lane wb[4:0] of va whatever that lane's state. -/
def execV2w (o : SRR) (s : State) : Host.Outcome State Fault Refusal :=
  .next (s.sSet o.g o.d (s.rdV o.a ((s.rdW o.b).extractLsb' 0 5).toNat))

/-! ## Floats: f32 under FRM, or q32 as a long-latency operation when QM is set (R221, R297) -/

/-- MODE.QM. -/
def Warp.qm (w : Warp) : Bool := w.mode.getLsbD 3

/-- A long-latency class S operation: sources wa, wb and the further ones given, one destination. -/
def State.issueLongS (s : State) (i : Instr) (g : UGuard) (srcs : List Reg) (d : RegName) : State :=
  if s.uholds g then
    s.pushOp { s.newOp i 1 with caps := srcs.zipIdx.map fun r => ⟨.w r.1.toNat, [s.rdAt r.2 (.w r.1.toNat) 0]⟩, dests := [⟨d, 1⟩], helpers := 0 }
  else s

def fAdd (rm : Rm) (a b : Word) : Word := f32Word rm (Val.add rm (f32Val a) (f32Val b))
def fSub (rm : Rm) (a b : Word) : Word := f32Word rm (Val.add rm (f32Val a) (f32Val b).neg)
def fMul (rm : Rm) (a b : Word) : Word := f32Word rm (Val.mul (f32Val a) (f32Val b))
def fFma (rm : Rm) (a b c : Word) : Word := f32Word rm (Val.fma rm (f32Val a) (f32Val b) (f32Val c))
def fDiv (rm : Rm) (a b : Word) : Word := f32Word rm (Val.div (f32Val a) (f32Val b))

def State.sFloat (s : State) (i : Instr) (o : SRR) (f : Rm → Word → Word → Word) : State :=
  if s.self.qm then s.issueLongS i o.g [o.a, o.b] (.w o.d.toNat) else s.sBin o (f (frmOf s.self.mode))

def execFaddw (o : SRR) (s : State) : Host.Outcome State Fault Refusal := .next (s.sFloat (.faddw o) o fAdd)
def execFsubw (o : SRR) (s : State) : Host.Outcome State Fault Refusal := .next (s.sFloat (.fsubw o) o fSub)
def execFmulw (o : SRR) (s : State) : Host.Outcome State Fault Refusal := .next (s.sFloat (.fmulw o) o fMul)

/-- FFMAW always adds wd (R130). -/
def execFfmaw (o : SRR) (s : State) : Host.Outcome State Fault Refusal :=
  .next (if s.self.qm then s.issueLongS (.ffmaw o) o.g [o.a, o.b, o.d] (.w o.d.toNat)
    else s.sBin o fun a b => fFma (frmOf s.self.mode) a b (s.rdW2 o.d))

/-- FDIVW is long-latency in both modes; with QM a zero divisor may trap (R227, R295). -/
def execFdivw (o : SRR) (s : State) : Host.Outcome State Fault Refusal :=
  .next (if s.uholds o.g && s.self.qm && s.self.qze && zeroDivisor (qVal (s.rdW o.a)) (qVal (s.rdW1 o.b)) then
      s.trapWord 9 0 none none
    else s.issueLongS (.fdivw o) o.g [o.a, o.b] (.w o.d.toNat))

/-- FCMPW (R224, R297). -/
def execFcmpw (o : SCS) (s : State) : Host.Outcome State Fault Refusal :=
  .next (if s.self.qm then s.issueLongS (.fcmpw o) o.g [o.a, o.b] (.k o.t.toNat)
    else s.kSet o.g o.t ((Cond.ofCode o.cond).holdsVal (f32Val (s.rdW o.a)) (f32Val (s.rdW1 o.b))))

/-- CVTW (R230): CVT's conversions with no flush bit and no counting. -/
def execCvtw (o : SCV) (s : State) : Host.Outcome State Fault Refusal :=
  .next (s.sSet o.g o.d (convert Flush.none s.self.mode (frmOf s.self.mode) o.code (s.rdW o.a)).res)

end Sys2Proof.Machine
end

