-- ==== Sys2Proof/Machine/Vector.lean ====
section
/-! DEFINITION. Class V (R208, R214 to R220): in each active lane, under the write mask. -/

namespace Sys2Proof.Machine

/-! ## Shapes -/

def State.vBin (s : State) (o : VRR) (f : Word → Word → Word) : State :=
  s.vecSet o.x (s.active o.g) o.d fun l => f (s.rdV o.a l) (s.rdV1 o.b l)
/-- With the fourth operand (R130). -/
def State.vTri (s : State) (o : VRR) (f : Word → Word → Word → Word) : State :=
  s.vecSet o.x (s.active o.g) o.d fun l => f (s.rdV o.a l) (s.rdV1 o.b l) (s.rdV2 (fourth o.x o.d) l)
def State.vUn (s : State) (o : VR1) (f : Word → Word) : State :=
  s.vecSet o.x (s.active o.g) o.d fun l => f (s.rdV o.a l)
def State.vImm (s : State) (o : VRI) (f : Word → Word) : State :=
  s.vecSet o.x (s.active o.g) o.d fun l => f (s.rdV o.a l)
/-- Pairs to a pair. -/
def State.vBin64 (s : State) (o : VRR) (f : DWord → DWord → DWord) : State :=
  s.vecSet2 o.x (s.active o.g) o.d fun l => f (s.rdV64 o.a l) (s.rdV641 o.b l)
/-- Words to a pair. -/
def State.vWide (s : State) (o : VRR) (f : Word → Word → DWord) : State :=
  s.vecSet2 o.x (s.active o.g) o.d fun l => f (s.rdV o.a l) (s.rdV1 o.b l)
/-- A comparison to a predicate, combined as field m says (R217). -/
def State.vSetp (s : State) (o : VCP) (f : Word → Word → Bool) : State :=
  s.predSet o.x (s.active o.g) o.t fun l => s.combine o.m o.t l (f (s.rdV o.a l) (s.rdV1 o.b l))

/-! ## Results -/

/-- Bit i of the result is bit 31 − i of a. -/
def bitReverse (a : Word) : Word := a.reverse

/-- The field b selects: position and length (R215). -/
def fieldPos (b : Word) : Nat := (b.extractLsb' 0 5).toNat
def fieldLen (b : Word) : Nat := Nat.min (b.extractLsb' 8 6).toNat (32 - fieldPos b)

/-- BFE (R215). -/
def bfeOf (a b : Word) : Word :=
  let len := fieldLen b
  let f := a.toNat / 2 ^ fieldPos b % 2 ^ len
  if len = 0 then 0
  else if b.getLsbD 16 && f.testBit (len - 1) then BitVec.ofInt 32 ((f : Int) - 2 ^ len)
  else BitVec.ofNat 32 f

/-- BFI (R215). -/
def bfiOf (a b c : Word) : Word :=
  let mask := BitVec.ofNat 32 ((2 ^ fieldLen b - 1) * 2 ^ fieldPos b)
  (c &&& ~~~mask) ||| ((a <<< fieldPos b) &&& mask)

/-- |signed a|, wrapping. -/
def absI (a : Word) : Word := if a.getLsbD 31 then 0 - a else a

/-! ## Table 8.3 -/

def execIadd (o : VRR) (s : State) : Host.Outcome State Fault Refusal := .next (s.vBin o (· + ·))
def execIaddi (o : VRI) (s : State) : Host.Outcome State Fault Refusal := .next (s.vImm o (· + o.imm.signExtend 32))
def execIsub (o : VRR) (s : State) : Host.Outcome State Fault Refusal := .next (s.vBin o (· - ·))
def execImul (o : VRR) (s : State) : Host.Outcome State Fault Refusal := .next (s.vBin o (· * ·))
def execImulhI (o : VRR) (s : State) : Host.Outcome State Fault Refusal := .next (s.vBin o mulHighI)
def execImulhN (o : VRR) (s : State) : Host.Outcome State Fault Refusal := .next (s.vBin o mulHighN)
def execImad (o : VRR) (s : State) : Host.Outcome State Fault Refusal := .next (s.vTri o fun a b c => a * b + c)
def execIabs (o : VR1) (s : State) : Host.Outcome State Fault Refusal := .next (s.vUn o absI)
def execIneg (o : VR1) (s : State) : Host.Outcome State Fault Refusal := .next (s.vUn o (0 - ·))
def execIminI (o : VRR) (s : State) : Host.Outcome State Fault Refusal := .next (s.vBin o minI)
def execImaxI (o : VRR) (s : State) : Host.Outcome State Fault Refusal := .next (s.vBin o maxI)
def execIminN (o : VRR) (s : State) : Host.Outcome State Fault Refusal := .next (s.vBin o minN)
def execImaxN (o : VRR) (s : State) : Host.Outcome State Fault Refusal := .next (s.vBin o maxN)
def execShl (o : VRR) (s : State) : Host.Outcome State Fault Refusal :=
  .next (s.vBin o fun a b => shlBy a (shiftCount b))
def execShr (o : VRR) (s : State) : Host.Outcome State Fault Refusal :=
  .next (s.vBin o fun a b => shrBy a (shiftCount b))
def execSar (o : VRR) (s : State) : Host.Outcome State Fault Refusal :=
  .next (s.vBin o fun a b => sarBy a (shiftCount b))
def execShli (o : VRI) (s : State) : Host.Outcome State Fault Refusal := .next (s.vImm o (shlBy · o.imm.toNat))
def execShri (o : VRI) (s : State) : Host.Outcome State Fault Refusal := .next (s.vImm o (shrBy · o.imm.toNat))
def execSari (o : VRI) (s : State) : Host.Outcome State Fault Refusal := .next (s.vImm o (sarBy · o.imm.toNat))
def execVand (o : VRR) (s : State) : Host.Outcome State Fault Refusal := .next (s.vBin o (· &&& ·))
def execVor (o : VRR) (s : State) : Host.Outcome State Fault Refusal := .next (s.vBin o (· ||| ·))
def execVxor (o : VRR) (s : State) : Host.Outcome State Fault Refusal := .next (s.vBin o (· ^^^ ·))
def execVnot (o : VR1) (s : State) : Host.Outcome State Fault Refusal := .next (s.vUn o (~~~ ·))
def execPopc (o : VR1) (s : State) : Host.Outcome State Fault Refusal := .next (s.vUn o popCount)
def execClz (o : VR1) (s : State) : Host.Outcome State Fault Refusal := .next (s.vUn o leadingZeros)
def execBrev (o : VR1) (s : State) : Host.Outcome State Fault Refusal := .next (s.vUn o bitReverse)
def execBfe (o : VRR) (s : State) : Host.Outcome State Fault Refusal := .next (s.vBin o bfeOf)
def execBfi (o : VRR) (s : State) : Host.Outcome State Fault Refusal := .next (s.vTri o bfiOf)
def execIadd64 (o : VRR) (s : State) : Host.Outcome State Fault Refusal := .next (s.vBin64 o (· + ·))
def execIsub64 (o : VRR) (s : State) : Host.Outcome State Fault Refusal := .next (s.vBin64 o (· - ·))
def execImulwI (o : VRR) (s : State) : Host.Outcome State Fault Refusal :=
  .next (s.vWide o fun a b => a.signExtend 64 * b.signExtend 64)
def execImulwN (o : VRR) (s : State) : Host.Outcome State Fault Refusal :=
  .next (s.vWide o fun a b => a.zeroExtend 64 * b.zeroExtend 64)

/-! ## ISETP (R217) -/

def execIsetpEq (o : VCP) (s : State) : Host.Outcome State Fault Refusal := .next (s.vSetp o (cmpInt true .eq))
def execIsetpNe (o : VCP) (s : State) : Host.Outcome State Fault Refusal := .next (s.vSetp o (cmpInt true .ne))
def execIsetpLt (o : VCP) (s : State) : Host.Outcome State Fault Refusal := .next (s.vSetp o (cmpInt true .lt))
def execIsetpLe (o : VCP) (s : State) : Host.Outcome State Fault Refusal := .next (s.vSetp o (cmpInt true .le))
def execIsetpGt (o : VCP) (s : State) : Host.Outcome State Fault Refusal := .next (s.vSetp o (cmpInt true .gt))
def execIsetpGe (o : VCP) (s : State) : Host.Outcome State Fault Refusal := .next (s.vSetp o (cmpInt true .ge))
def execIsetpLtN (o : VCP) (s : State) : Host.Outcome State Fault Refusal := .next (s.vSetp o (cmpInt false .lt))
def execIsetpLeN (o : VCP) (s : State) : Host.Outcome State Fault Refusal := .next (s.vSetp o (cmpInt false .le))
def execIsetpGtN (o : VCP) (s : State) : Host.Outcome State Fault Refusal := .next (s.vSetp o (cmpInt false .gt))
def execIsetpGeN (o : VCP) (s : State) : Host.Outcome State Fault Refusal := .next (s.vSetp o (cmpInt false .ge))

/-! ## Select, moves, predicates (R218 to R220) -/

/-- SEL: every lane of the run executes it, under a write mask if there is one. -/
def execSel (o : VSel) (s : State) : Host.Outcome State Fault Refusal :=
  .next (s.vecSet o.x s.focus.lanes o.d fun l => if s.rdP o.q.toNat l != o.s then s.rdV o.a l else s.rdV1 o.b l)

def execMov (o : VR1) (s : State) : Host.Outcome State Fault Refusal := .next (s.vUn o id)

def execLi (o : VRL) (s : State) : Host.Outcome State Fault Refusal :=
  .next (s.vecSet o.x (s.active o.g) o.d fun _ => o.lit)

def execW2v (o : VRW) (s : State) : Host.Outcome State Fault Refusal :=
  .next (s.vecSet o.x (s.active o.g) o.d fun _ => s.rdW o.w)

/-- p15..p0 of a lane as a word. -/
def State.predWord (s : State) (l : Nat) : Word :=
  (List.range 16).foldl (fun m i => if s.rdP i l then m ||| (1#32 <<< i) else m) 0#32

def execPmov (o : VD) (s : State) : Host.Outcome State Fault Refusal :=
  .next (s.vecSet o.x (s.active o.g) o.d s.predWord)

/-- VMOVP writes all sixteen predicates of the lane. -/
def execVmovp (o : VA) (s : State) : Host.Outcome State Fault Refusal :=
  .next ((List.range 16).foldl
    (fun t i => (lanesOf (s.active o.g)).foldl (fun u l => putLane s o.x (.p i) l
      (boolWord ((s.rdV o.a l).getLsbD i)) u) t) s)

/-- The special registers (Table 5.13). -/
def State.sregValue (s : State) (code : BitVec 6) (l : Nat) : Word :=
  let w := s.self
  let n := BitVec.ofNat 32
  let b? := s.blocks.get? w.blk
  let g? := s.gridOf? w
  let lin := (b?.map (·.lin)).getD 0
  let nx := (g?.map (·.gr.nx)).getD 1
  let ny := (g?.map (·.gr.ny)).getD 1
  match code.toNat with
  | 0x00 => n l
  | 0x01 => n (l / 4)
  | 0x02 => n w.index
  | 0x03 => n (roleNum w.role)
  | 0x04 => n (lin % nx)
  | 0x05 => n (lin / nx % ny)
  | 0x06 => n (lin / nx / ny)
  | 0x07 => n nx
  | 0x08 => n ny
  | 0x09 => n ((g?.map (·.gr.nz)).getD 1)
  | 0x0A => n ((b?.map (·.rank)).getD 0)
  | 0x0B => n ((g?.map (·.kernel.gangb)).getD 1)
  | 0x0C => n ((b?.map (·.lcore)).getD 0)
  | 0x0D => n w.core
  | 0x0E => n (dieOfCore w.core)
  | 0x0F => n (if s.det w.cid then 128 else nCores)
  | 0x10 => n w.cid
  | 0x11 => n w.grid
  | _ => s.time.truncate 32

def execSreg (o : VSr) (s : State) : Host.Outcome State Fault Refusal :=
  .next (s.vecSet o.x (s.active o.g) o.d (s.sregValue o.code))

end Sys2Proof.Machine
end

