-- ==== Sys2Proof/Machine/FloatOps.lean ====
section
/-! DEFINITION. Class F arithmetic (R221 to R227): f32, packed f16 and bf16, comparisons; FDIV is long-latency. -/

namespace Sys2Proof.Machine

/-- The rounding mode of the executing instruction. -/
def State.rm (s : State) (x : Option VPfx) : Rm := rmOf s.self.mode x

def execFadd (o : VRR) (s : State) : Host.Outcome State Fault Refusal := .next (s.vBin o (fAdd (s.rm o.x)))
def execFsub (o : VRR) (s : State) : Host.Outcome State Fault Refusal := .next (s.vBin o (fSub (s.rm o.x)))
def execFmul (o : VRR) (s : State) : Host.Outcome State Fault Refusal := .next (s.vBin o (fMul (s.rm o.x)))
def execFfma (o : VRR) (s : State) : Host.Outcome State Fault Refusal := .next (s.vTri o (fFma (s.rm o.x)))
def execFmin (o : VRR) (s : State) : Host.Outcome State Fault Refusal := .next (s.vBin o (fminmax false))
def execFmax (o : VRR) (s : State) : Host.Outcome State Fault Refusal := .next (s.vBin o (fminmax true))
def execFabs (o : VR1) (s : State) : Host.Outcome State Fault Refusal := .next (s.vUn o (· &&& 0x7FFFFFFF))
def execFneg (o : VR1) (s : State) : Host.Outcome State Fault Refusal := .next (s.vUn o (· ^^^ 0x80000000))

/-- FSETP (R224, Table 8.6). -/
def State.fSetp (s : State) (o : VCP) (c : Cond) : State := s.vSetp o fun a b => c.holdsVal (f32Val a) (f32Val b)

def execFsetpEq (o : VCP) (s : State) : Host.Outcome State Fault Refusal := .next (s.fSetp o .eq)
def execFsetpNe (o : VCP) (s : State) : Host.Outcome State Fault Refusal := .next (s.fSetp o .ne)
def execFsetpLt (o : VCP) (s : State) : Host.Outcome State Fault Refusal := .next (s.fSetp o .lt)
def execFsetpLe (o : VCP) (s : State) : Host.Outcome State Fault Refusal := .next (s.fSetp o .le)
def execFsetpGt (o : VCP) (s : State) : Host.Outcome State Fault Refusal := .next (s.fSetp o .gt)
def execFsetpGe (o : VCP) (s : State) : Host.Outcome State Fault Refusal := .next (s.fSetp o .ge)
def execFsetpNan (o : VCP) (s : State) : Host.Outcome State Fault Refusal :=
  .next (s.vSetp o fun a b => (f32Val a).isNan || (f32Val b).isNan)

def execFclass (o : VR1) (s : State) : Host.Outcome State Fault Refusal := .next (s.vUn o fclassOf)

/-! ## Packed 16-bit arithmetic (R226) -/

def execHadd2 (o : VRR) (s : State) : Host.Outcome State Fault Refusal :=
  .next (s.vBin o fun a b => half2 .f16 (fun x y _ => Val.add (s.rm o.x) x y) (s.rm o.x) a b 0)
def execHmul2 (o : VRR) (s : State) : Host.Outcome State Fault Refusal :=
  .next (s.vBin o fun a b => half2 .f16 (fun x y _ => Val.mul x y) (s.rm o.x) a b 0)
def execHfma2 (o : VRR) (s : State) : Host.Outcome State Fault Refusal :=
  .next (s.vTri o (half2 .f16 (Val.fma (s.rm o.x)) (s.rm o.x)))
def execBadd2 (o : VRR) (s : State) : Host.Outcome State Fault Refusal :=
  .next (s.vBin o fun a b => half2 .bf16 (fun x y _ => Val.add (s.rm o.x) x y) (s.rm o.x) a b 0)
def execBmul2 (o : VRR) (s : State) : Host.Outcome State Fault Refusal :=
  .next (s.vBin o fun a b => half2 .bf16 (fun x y _ => Val.mul x y) (s.rm o.x) a b 0)
def execBfma2 (o : VRR) (s : State) : Host.Outcome State Fault Refusal :=
  .next (s.vTri o (half2 .bf16 (Val.fma (s.rm o.x)) (s.rm o.x)))

/-- FDIV (R227): long-latency. -/
def execFdiv (o : VRR) (s : State) : Host.Outcome State Fault Refusal :=
  .next (s.issueLong (.fdiv o) o.x (s.active o.g) [o.a, o.b] [.v o.d.toNat])

/-! ## Results of the long-latency operations of classes S and F (R113) -/

/-- A masked-off lane of a long-latency operation receives zero (R131): `i` is where its mask was captured. -/
def maskedBy (x : Option VPfx) (o : Op) (i l : Nat) (r : Word) : Word :=
  match x with
  | some p => if p.wme && o.cap i l == 0 then 0 else r
  | none => r

/-- What lane `l` of the operation's destination receives, from its sources and the MODE it sampled (R31). -/
def Op.result (o : Op) (l : Nat) : Word :=
  let a := o.cap 0 l
  let b := o.cap 1 l
  let c := o.cap 2 l
  let q2 := fun (x : Option VPfx) (f : Word → Word → Word → Word) => maskedBy x o 2 l (f o.mode a b)
  let q1 := fun (x : Option VPfx) (f : Word → Word → Word) => maskedBy x o 1 l (f o.mode a)
  let cmp := fun (x : VCP) (k : Cond) =>
    let t := k.holdsVal (qVal a) (qVal b)
    let old := c != 0
    maskedBy x.x o 3 l (boolWord (if x.m = 0 then t else if x.m = 1 then old && t else old || t))
  let sp := fun (f : Special) (x : VR1) => q1 x.x fun m w => f.result m w
  match o.ins with
  | .faddw _ => qAdd o.mode a b
  | .fsubw _ => qSub o.mode a b
  | .fmulw _ => qMul o.mode a b
  | .ffmaw _ => qFma o.mode a b c
  | .fdivw _ => if o.mode.getLsbD 3 then qDiv o.mode a b else fDiv (frmOf o.mode) a b
  | .fcmpw x => boolWord ((Cond.ofCode x.cond).holdsVal (qVal a) (qVal b))
  | .fdiv x => maskedBy x.x o 2 l (fDiv (rmOf o.mode x.x) a b)
  | .rcp x => sp .rcp x
  | .rsq x => sp .rsq x
  | .sqrt x => sp .sqrt x
  | .ex2 x => sp .ex2 x
  | .lg2 x => sp .lg2 x
  | .sin x => sp .sin x
  | .cos x => sp .cos x
  | .tanh x => sp .tanh x
  | .qadd x => q2 x.x qAdd
  | .qsub x => q2 x.x qSub
  | .qmul x => q2 x.x qMul
  | .qdiv x => q2 x.x qDiv
  | .qcvt x => q1 x.x qCvt
  | .qfrom x => q2 x.x qFrom
  | .qnum x => q1 x.x fun _ w => qNum w
  | .qden x => q1 x.x fun _ w => qDen w
  | .qmed x => q2 x.x qMed
  | .qrnd x => q2 x.x qRnd
  | .qsetpEq x => cmp x .eq
  | .qsetpNe x => cmp x .ne
  | .qsetpLt x => cmp x .lt
  | .qsetpLe x => cmp x .le
  | .qsetpGt x => cmp x .gt
  | .qsetpGe x => cmp x .ge
  | .qrec x => q1 x.x qRec
  | .qclass x => q1 x.x fun _ w => qClass w
  | _ => 0

/-- The operation is one whose result LONG_LATENCY_RESULT writes. -/
def Op.isAlu (o : Op) : Bool :=
  match Instr.cls o.ins with
  | some .s => true
  | some .f => true
  | _ => false

end Sys2Proof.Machine
end

