-- ==== Sys2Proof/Machine/Store.lean ====
section
/-! DEFINITION. Memory operations in flight (12): store-queue forwarding, the L1 and what the core sees of its own
writes, the binding of loads in program order (DEDUCED, log entry 8), the core's order point (R317), the performance of atomics
(R163, R164), the completion of an operation and the trap of a denied one (R149). -/

namespace Sys2Proof.Machine

/-! ## Atomic operations (Table 6.4) -/

inductive AtomOp where
  | add
  | minI
  | maxI
  | minN
  | maxN
  | and
  | or
  | xor
  | exch
  | cas
  | fadd
  deriving DecidableEq, Repr

/-- The new value of the location, `size` bytes wide: `x` is the operand, for cas the compared value, and `y` the new
value of cas. fadd rounds to nearest even (R162). -/
def AtomOp.apply (op : AtomOp) (size : Nat) (old x y : DWord) : DWord :=
  let o := old.truncate 32
  let w := x.truncate 32
  let n := fun (r : Word) => r.zeroExtend 64
  match op with
  | .add => if size = 8 then old + x else n (o + w)
  | .minI => n (Sys2Proof.Machine.minI o w)
  | .maxI => n (Sys2Proof.Machine.maxI o w)
  | .minN => n (Sys2Proof.Machine.minN o w)
  | .maxN => n (Sys2Proof.Machine.maxN o w)
  | .and => n (o &&& w)
  | .or => n (o ||| w)
  | .xor => n (o ^^^ w)
  | .exch => x
  | .cas => if o = w then n (y.truncate 32) else n o
  | .fadd => n (fAdd .rne o w)

/-- The operation of a class L opcode from 0x16 to 0x34 (Table 6.4). -/
def AtomOp.ofCode (c : Nat) : AtomOp :=
  match c with
  | 0x16 | 0x17 | 0x23 | 0x24 | 0x30 => .add
  | 0x18 | 0x25 | 0x31 => .minI
  | 0x19 | 0x26 | 0x32 => .maxI
  | 0x1A | 0x27 => .minN
  | 0x1B | 0x28 => .maxN
  | 0x1C | 0x29 => .and
  | 0x1D | 0x2A => .or
  | 0x1E | 0x2B => .xor
  | 0x1F | 0x22 | 0x33 => .exch
  | 0x20 | 0x34 => .cas
  | _ => .fadd

/-- The opcode of an atomic instruction (Table 6.1). -/
def atomCode : Instr → Nat
  | .atomAddN32 _ => 0x16
  | .atomAddN64 _ => 0x17
  | .atomMinI32 _ => 0x18
  | .atomMaxI32 _ => 0x19
  | .atomMinN32 _ => 0x1A
  | .atomMaxN32 _ => 0x1B
  | .atomAnd _ => 0x1C
  | .atomOr _ => 0x1D
  | .atomXor _ => 0x1E
  | .atomExch _ => 0x1F
  | .atomCas _ => 0x20
  | .atomFaddF32 _ => 0x21
  | .atomExch64 _ => 0x22
  | .redAddN32 _ => 0x23
  | .redAddN64 _ => 0x24
  | .redMinI32 _ => 0x25
  | .redMaxI32 _ => 0x26
  | .redMinN32 _ => 0x27
  | .redMaxN32 _ => 0x28
  | .redAnd _ => 0x29
  | .redOr _ => 0x2A
  | .redXor _ => 0x2B
  | .redFaddF32 _ => 0x2C
  | .atomtAddN32 _ => 0x30
  | .atomtMinI32 _ => 0x31
  | .atomtMaxI32 _ => 0x32
  | .atomtExch _ => 0x33
  | .atomtCas _ => 0x34
  | _ => 0

/-- Performed by PCIe AtomicOps: add, exchange, compare and swap (R167). -/
def AtomOp.onHost : AtomOp → Bool
  | .add | .exch | .cas => true
  | _ => false

/-- In the scale-up atomic subset (Table 15.8a). -/
def AtomOp.onPeer : AtomOp → Bool
  | .fadd => false
  | _ => true

/-! ## Range locks (R150, R329) -/

/-- The lowest-numbered entry of the core's table, and its lowest-numbered range, that stops the access: a load is stopped
by destination ranges, a store by any. -/
def State.lockHit (s : State) (w : Warp) (sp : Space) (lo hi : Nat) (load : Bool) : Option (Lock × LockRange) :=
  let hit := fun (r : LockRange) => r.space == sp && (r.dst || !load) && decide (lo ≤ r.hi) && decide (r.lo ≤ hi)
  (List.range 64).findSome? fun n =>
    (s.core w.core).locks.findSome? fun e =>
      if e.entry = n && (if sp = .global then e.cid == w.cid else e.blk == w.blk) then
        ((List.range 7).findSome? fun i => e.ranges.find? fun r => r.idx == i && hit r).map fun r => (e, r)
      else none

/-! ## The block's own stores -/

/-- Bytes of the block's tile allocation (R67). -/
def Kernel.tileBytes (k : Kernel) : Nat := (k.tile + 4095) / 4096 * 4096

/-- Bytes of the issuing block's tile allocation, its banks, its grid's parameters (R147). -/
def State.tileSize (s : State) (w : Warp) : Nat := ((s.gridOf? w).map fun g => g.kernel.tileBytes).getD 0
def State.accBanks (s : State) (w : Warp) : Nat := ((s.gridOf? w).map (·.kernel.acc)).getD 0

/-- A tile byte; one that no one has written since launch is unspecified (DEDUCED, log entry 24). -/
def State.tileByte (s : State) (blk off : Nat) : Byte :=
  match (s.blocks.get? blk).bind fun b => Sparse.get none b.tile off with
  | some x => x
  | none => s.freeByte (2000000 + off)

def State.tileBytes (s : State) (blk off n : Nat) : List Byte := (List.range n).map fun i => s.tileByte blk (off + i)

def State.tileWrite (s : State) (blk off : Nat) (bs : List Byte) : State :=
  s.updBlock blk fun b => { b with tile := Sparse.setList none b.tile off (bs.map some) }

/-- An accumulator element; one that holds no specified value is free (R70) (DEDUCED, log entry 24). -/
def Bank.elem (b : Bank) (i : Nat) : Option Word := Sparse.get b.dflt b.cells i
def Bank.setElem (b : Bank) (i : Nat) (x : Option Word) : Bank := { b with cells := Sparse.set b.dflt b.cells i x }

def State.accWord (s : State) (blk bank i : Nat) : Word :=
  match ((s.blocks.get? blk).bind fun b => b.acc[bank]?).bind fun k => k.elem i with
  | some x => x
  | none => s.freeWord (4000000 + 32768 * bank + i)

def State.accWrite (s : State) (blk bank i : Nat) (x : Word) : State :=
  s.updBlock blk fun b => { b with acc := b.acc.modify bank fun k => k.setElem i (some x) }

/-! ## Operations and program order -/

def Warp.op? (w : Warp) (id : Nat) : Option Op := findKey? id w.ops

def State.updOp (s : State) (wid id : Nat) (f : Op → Op) : State :=
  s.updWarp wid fun w => { w with ops := w.ops.map fun e => if e.1 = id then (e.1, f e.2) else e }

/-- The operation is over: what it owed is readable once its clause has ended and its flag has cleared (R113). -/
def State.dropOp (s : State) (wid id : Nat) : State :=
  s.updWarp wid fun w =>
    { w with
      ops := w.ops.filter fun e => e.1 != id
      dues := w.dues.map fun (d : Due) => if d.op = id then { d with written := true } else d }.prune

/-- The warp's operations before `id`, oldest first. -/
def Warp.before (w : Warp) (id : Nat) : List (Nat × Op) := w.ops.filter fun e => decide (e.1 < id)

/-- The operation returns values of memory. -/
def Op.reads (o : Op) : Bool := o.isLoad || (o.isAtomic && !o.dests.isEmpty)
def Op.bound (o : Op) : Bool := o.accesses.all fun a => a.done || a.denied

/-- The operation passes through the store queue: stores, atomics, and releases without an access (R317, R322). -/
def Op.queued (o : Op) : Bool := o.isStore || o.isAtomic || (o.release && !o.isLoad)

/-- An acquire that has still to take effect: a load's does when it has its values. -/
def Op.acquiring (o : Op) : Bool := o.acquire && !(o.isLoad && o.bound)

/-- DRAIN: an acquire if it receives an item (R319). -/
def Op.isDrain (o : Op) : Bool :=
  match o.ins with
  | .drain _ => true
  | _ => false

/-- Loads are performed in program order, after older acquires (R317, R320; DEDUCED, log entry 8). -/
def Warp.mayRead (w : Warp) (id : Nat) : Bool :=
  (w.before id).all fun e => (!e.2.reads || e.2.bound) && !e.2.acquiring && !e.2.isDrain

/-- The bytes lane `l` stores or operates with. -/
def Op.laneBytes (o : Op) (l : Nat) : List Byte :=
  ((List.range ((o.size + 3) / 4)).flatMap fun i => bytes32 (o.cap i l)).take o.size

def Access.covers (a : Access) (k : Nat) (n : Nat) : Bool := decide (a.key ≤ k) && decide (k < a.key + n)

/-- The byte at `k` that an older store of the same warp, still in its queue, will write (R156, R317). -/
def forwardByte (older : List (Nat × Op)) (sp : Space) (k : Nat) : Option Byte :=
  older.foldl (fun r e =>
    if e.2.isStore && !e.2.atOrder && e.2.space == sp then
      e.2.accesses.foldl (fun r a =>
        if a.covers k e.2.size then (e.2.laneBytes a.lane)[k - a.key]? else r) r
    else r) none

/-- An older atomic of the same warp on those bytes has still to be performed. -/
def atomicAhead (older : List (Nat × Op)) (sp : Space) (k n : Nat) : Bool :=
  older.any fun e => e.2.isAtomic && e.2.space == sp
    && e.2.accesses.any fun a => !a.done && !a.denied && decide (a.key < k + n) && decide (k < a.key + e.2.size)

/-- An atomic of the core that passed the order point under a number below `ord` has still to be performed on those bytes:
whatever comes after it there waits for its value (R311, R317). -/
def State.atomicsAhead (s : State) (core : Nat) (sp : Space) (blk ord k n : Nat) : Bool :=
  s.warps.any fun w => w.2.core == core && (sp == .global || w.2.blk == blk)
    && atomicAhead (w.2.ops.filter fun e => e.2.atOrder && decide (e.2.ord < ord)) sp k n

/-- The same of one that is performed on the core itself, in tile memory or in L1 (R163): no later store or atomic of those
bytes reaches the order point before it is. -/
def State.localAhead (s : State) (core : Nat) (sp : Space) (blk k n : Nat) : Bool :=
  s.warps.any fun w => w.2.core == core && (sp == .global || w.2.blk == blk)
    && w.2.ops.any fun e => e.2.isAtomic && e.2.atOrder && e.2.space == sp
      && e.2.accesses.any fun a => !a.done && !a.denied && decide (a.key < k + n) && decide (k < a.key + e.2.size)
        && (sp != .global || (e.2.scope == 0 && !a.bypass))

/-! ## What a core sees of global memory -/

def State.l1Byte (s : State) (core k : Nat) : Option Byte := Sparse.get none (s.core core).l1 k

/-- Memory, as reader `who` gets it, with the core's own writes that are past its order point (R317). -/
def State.coreViewAs (s : State) (who core key n : Nat) : List Byte :=
  (List.range n).map fun i =>
    ((s.core core).outbound.foldl (fun (r : Option Byte) e =>
      if e.2.key ≤ key + i ∧ key + i < e.2.key + e.2.data.length then e.2.data[key + i - e.2.key]? else r) none).getD
      (s.seen who (key + i) (Memory.get s.mem (key + i)))

/-- The same for a copy of the bytes: an unspecified one is so for whoever reads the copy (`State.seen`). -/
def State.coreView (s : State) (core key n : Nat) : List Byte := s.coreViewAs 2 core key n

/-- Ask for the fill of a line, if none is on its way. -/
def State.requestFill (s : State) (core line cid : Nat) (m : Mark) : State :=
  s.updCore core fun c =>
    if c.fills.any fun f => f.line == line then c else { c with fills := c.fills ++ [⟨line, cid, m, false⟩] }

/-! ## The answer of a target (R83 to R87, R149, R412) -/

/-- The target refuses an access that has reached it: its access table denies it, or a scale-up peer does. -/
def State.refused (s : State) (m : Nat) (kind : Kind) (key n : Nat) : Bool :=
  (s.denial m kind key n).isSome || match placeOf key with
    | .peer _ => s.freeBool (8 * 10 ^ 12 + key)
    | _ => false

/-- A refused access as its target records it (R405). -/
def State.noteDenial (s : State) (m : Nat) (kind : Kind) (key n : Nat) : State :=
  match s.denial m kind key n with
  | some t => s.capture m kind t
  | none => s

/-- A read from the die's side is refused; one that its RDC serves reaches no target (R83). -/
def State.readRefused (s : State) (die m key n : Nat) : Bool := !s.inRdc die key n && s.refused m .read key n

/-! ## Binding the accesses of a load -/

/-- A load of bytes that a command of the core has as a source is not served by an older line of the L1: it returns what the
command reads or a later value (R327) (DEDUCED, log entry 67). -/
def State.sourceLocked (s : State) (w : Warp) (o : Op) (a : Access) : Bool :=
  (s.core w.core).locks.any fun l => l.cid == w.cid && l.ranges.any fun r =>
    r.space == .global && !r.dst && decide (r.lo ≤ a.addr.toNat + o.size - 1) && decide (a.addr.toNat ≤ r.hi)

/-- The access of a load does not look up the L1 (R157, R327) (DEDUCED, log entry 67). -/
def State.passesL1 (s : State) (w : Warp) (o : Op) (a : Access) : Bool :=
  a.bypass || (o.space == .global && s.sourceLocked w o a)

def Op.isLdc (o : Op) : Bool :=
  match o.ins with
  | .ldc _ => true
  | _ => false

/-- The value of a load's access now, if it can have one: forwarded bytes, then the L1 unless it is bypassed, or what the
core sees of memory; an L1 miss waits for its fill. Forwarded to an LDC, a byte has been stored to its parameter block, and
is unspecified (R160). -/
def State.readAccess (s : State) (wid id : Nat) (o : Op) (a : Access) : Option (List Byte) :=
  let w := s.warp wid
  let older := w.before id
  let who := 10 + a.lane
  let fwd := fun i => (forwardByte older o.space (a.key + i)).map fun b =>
    if o.isLdc then s.freeByte (6000000 + 16 * a.lane + i) else b
  if atomicAhead older o.space a.key o.size || s.atomicsAhead w.core o.space w.blk s.nextId a.key o.size then none
  else match o.space with
    | .tile => some ((List.range o.size).map fun i => (fwd i).getD (s.tileByte w.blk (a.key + i)))
    | .acc => match fwd 0, fwd 1, fwd 2, fwd 3 with
      | some b0, some b1, some b2, some b3 => some [b0, b1, b2, b3]
      | _, _, _, _ => some (bytes32 (s.accWord w.blk (a.key / 4 / 32768) (a.key / 4 % 32768)))
    | .global =>
      if s.passesL1 w o a then
        if s.graftHolds (dieOfCore w.core) a.key o.size then none
        else some ((List.range o.size).zipWith (fun i b => (fwd i).getD b) (s.coreViewAs who w.core a.key o.size))
      else
        (List.range o.size).mapM fun i => match fwd i with
          | some b => some b
          | none => (s.l1Byte w.core (a.key + i)).map (s.seen who (a.key + i))

/-- A 16-byte access over the host link or a scale-up port is two 8-byte accesses in no fixed order (R155). -/
def splitLink (size key : Nat) : Bool := decide (size = 16) && !inModule key

/-- The access receives `bs`: the whole of it, or of a split one the half that comes first and later the other (R155). -/
def Access.receive (a : Access) (bs : List Byte) (split high : Bool) : Access :=
  match a.part with
  | some (true, half) => { a with done := true, data := bs.take 8 ++ half, part := none }
  | some (false, half) => { a with done := true, data := half ++ bs.drop 8, part := none }
  | none =>
    if split then { a with part := some (high, if high then bs.drop 8 else bs.take 8) }
    else { a with done := true, data := bs }

/-- Bytes of the parameter block that were stored to since its grid runs are unspecified (R160). -/
def State.paramBytes (s : State) (w : Warp) (key : Nat) (bs : List Byte) : List Byte :=
  match s.gridOf? w with
  | none => bs
  | some g => bs.zipIdx.map fun e => if Sparse.get false g.paramWritten (key + e.2) then s.freeByte (5000000 + e.2) else e.1

/-- The target of an access to module memory may answer that it permits it when the access has reached it, before it is
performed (R149): a free choice. A peer answers with the access alone (R412). What the target answers is its answer: a later
change to its table applies to what reaches it later (R84) (DEDUCED, log entry 66). -/
def State.answers (s : State) (m : Nat) (kind : Kind) (a : Access) (size : Nat) : Bool :=
  decide (a.key < 2 ^ 46) && s.freeBool (9 * 10 ^ 12 + a.key) && !s.refused m kind a.key size

/-- The access of a load is at its target now: nothing the core, the RDC or Graft holds keeps it from there (R61, R83,
R313). -/
def State.loadArrives (s : State) (w : Warp) (o : Op) (a : Access) : Bool :=
  let die := dieOfCore w.core
  o.space == .global && !s.inRdc die a.key o.size && !s.graftHolds die a.key o.size
    && (s.passesL1 w o a || (List.range o.size).any fun i => (s.l1Byte w.core (a.key + i)).isNone)

/-- Bind access number `i` of a load if it can be bound; else ask for the fill of its line. One that reaches its target is
answered there (R83, R149); one that meets an uncorrectable error terminates the context (R389). -/
def State.bindAccess (s : State) (wid id i : Nat) : State :=
  let w := s.warp wid
  match w.op? id with
  | none => s
  | some o => match o.accesses[i]? with
    | none => s
    | some a =>
      let die := dieOfCore w.core
      let set := fun (s : State) (a : Access) => s.updOp wid id fun o => { o with accesses := o.accesses.set i a }
      let below := o.space == .global && s.passesL1 w o a
      if a.done || a.denied then s
      else match s.readAccess wid id o a with
        | some bs =>
          if below && !a.granted && s.readRefused die w.cid a.key o.size then
            (set s { a with denied := true }).noteDenial w.cid .read a.key o.size
          else if below && s.isBad a.key o.size then s.terminate w.cid 0x10
          else
            let bs := if o.isLdc then s.paramBytes w a.key bs else bs
            let split := below && splitLink o.size a.key && s.freeBool (3 * 10 ^ 12 + a.lane)
            let s := set s (a.receive bs split (s.freeBool (3 * 10 ^ 12 + 32 + a.lane)))
            if below then (s.dropL1 w.core a.key o.size).noteRead die a.key o.size a.first else s
        | none =>
          let t := if s.loadArrives w o a && s.answers w.cid .read a o.size then set s { a with granted := true } else s
          if o.space == .global && !below then t.requestFill w.core (lineOf a.key) w.cid o.mark else t

/-! ## Addresses from overwritten registers (R113) -/

/-- The address of a lane whose address register was overwritten before it was read is an unspecified one, of those that no
check of Table 6.3 refuses (R2, R113) (DEDUCED, log entry 9). -/
def State.strayAccess (s : State) (w : Warp) (o : Op) (a : Access) : Access :=
  let x := (s.free (10 ^ 13 + a.lane)).toNat / o.size * o.size
  let free := fun (lo : Nat) => (s.lockHit w o.space lo (lo + o.size - 1) o.isLoad).isNone
  match o.space with
  | .tile =>
    if decide (x + o.size ≤ s.tileSize w) && free x then { a with addr := BitVec.ofNat 64 x, key := x } else a
  | .acc =>
    let idx := x / 4 % 32768
    { a with addr := BitVec.ofNat 64 idx, key := 4 * (a.key / 4 / 32768 * 32768 + idx) }
  | .global =>
    let g := s.gridOf? w
    let psize := (g.map (·.gr.psize)).getD 0
    let va := if o.isLdc then (g.map (·.gr.param)).getD 0 + BitVec.ofNat 64 (x % (psize / 4 * 4)) else BitVec.ofNat 64 x
    if o.isLdc && psize < 4 then a
    else match s.translate w.core w.cid va (if o.isLoad then .read else .write) with
      | .error _ => a
      | .ok (key, byp) => if (o.isLdc || free va.toNat) && !(a.granted && s.refused w.cid (if o.isLoad then .read else .write) key o.size) then { a with addr := va, key := key, bypass := byp || o.bypass, first := o.mark = .stream && !byp } else a

/-- The operation's addresses as it uses them; of a lane that has used its own already the mark stays (DEDUCED, log entry
9). -/
def State.settleStray (s : State) (wid id : Nat) : State :=
  let w := s.warp wid
  match w.op? id with
  | none => s
  | some o =>
    if o.stray = 0 then s
    else s.updOp wid id fun o => { o with
      stray := o.stray &&& maskOf o.usedAt
      accesses := o.accesses.map fun a => if o.stray.getLsbD a.lane && !a.done then s.strayAccess w o a else a }

/-- An acquire whose operation is done: at .gang and wider the core's L1 is invalidated (R57)
(DEDUCED, log entry 21). -/
def State.acquireOf (s : State) (wid : Nat) (o : Op) : State :=
  if o.acquire then s.acquire (s.warp wid).core o.scope else s

/-- Acquires without an access take effect once the older reads have their values (R320, R322)
(DEDUCED, log entry 21). -/
def State.settleAcquires (s : State) (wid : Nat) : (fuel : Nat) → State
  | 0 => s
  | fuel + 1 =>
    let w := s.warp wid
    match w.ops.find? fun e => e.2.acquiring && !e.2.release && !e.2.isAtomic && !e.2.isLoad with
    | none => s
    | some (id, o) =>
      if w.mayRead id then ((s.dropOp wid id).acquireOf wid o).settleAcquires wid fuel else s

def State.settleAll (s : State) (wid : Nat) : State := s.settleAcquires wid (s.warp wid).ops.length

/-- Bind what can be bound of a load (DEDUCED, log entry 8). -/
def State.bindLoad (s : State) (wid id : Nat) : State :=
  match (s.warp wid).op? id with
  | none => s
  | some o =>
    if !o.isLoad || !(s.warp wid).mayRead id then s
    else
      let s := s.settleStray wid id
      let t := (List.range o.accesses.length).foldl (fun t i => t.bindAccess wid id i) s
      match (t.warp wid).op? id with
      | none => t
      | some o' => if o'.bound && !o.bound then (t.acquireOf wid o').settleAll wid else t

/-! ## Completion -/

/-- An operation's result reaches a register: one that was overwritten while it was pending stays unspecified (R113). -/
def Warp.deliver (w : Warp) (n : RegName) (l : Nat) (x fr : Word) : Warp :=
  let w := if w.unspec.contains (n.place l) then w else w.setRaw n l x
  { w with ops := w.overwriteOps n l fr, spent := w.overwriteSpent n l fr, dirty := n.dirties w.dirty }

def State.deliver (s : State) (wid : Nat) (n : RegName) (l : Nat) (x : Word) : State :=
  s.updWarp wid fun w => w.deliver n l x (s.freeWord (12 * 10 ^ 11 + n.tag l))

/-- The operation is over and its sources are its clause's still, or what was done to them is settled at once (R113). -/
def State.spend (s : State) (wid id : Nat) (o : Op) : State :=
  if o.setA.isSome && (s.warp wid).ownsSources o then s.updWarp wid fun w => { w with spent := w.spent ++ [(id, o)] }
  else s.blame wid o

/-- The operation completes: destination `i` receives `f i l` in its lanes (R113); its flags may clear. -/
def State.finishOp (s : State) (wid id : Nat) (f : Nat → Nat → Word) : State :=
  match (s.warp wid).op? id with
  | none => s
  | some o =>
    let s := (s.dropOp wid id).spend wid id o
    let s := o.dests.zipIdx.foldl (fun s d =>
      (lanesOf d.1.lanes).foldl (fun s l => s.deliver wid d.1.reg l (f d.2 l)) s) s
    (s.settleOpt wid o.setA).settleOpt wid o.setB

/-- A run of the warp that is in progress ends: something asynchronous has trapped it (R115). -/
def State.abandonRun (s : State) (wid : Nat) : State :=
  match s.runs.find? fun e => e.2.wid == wid with
  | none => s
  | some (k, r) =>
    let t := { s with runs := s.runs.erase k, focus := { r with atClause := true } }
    { (if r.atClause then t else t.releaseFlags r).endRun with focus := s.focus }

/-- The operation was denied at its target: no destination is written and the threads that issued it trap (R149)
(DEDUCED, log entry 14). -/
def State.denyOp (s : State) (wid id : Nat) : State :=
  match (s.warp wid).op? id with
  | none => s
  | some o =>
    match o.accesses.find? (·.denied) with
    | none => s
    | some a =>
      let s := ((s.dropOp wid id).abandonRun wid).settleAll wid
      let s := (s.settleOpt wid o.setA).settleOpt wid o.setB
      s.trap wid ⟨6, 0, a.addr, none, some o.word, some a.lane, false, o.threads, .rpc⟩

/-- Register `i` of a load's destination, from the bytes it read (R153, R158 to R160). -/
def loadWord (ins : Instr) (bs : List Byte) (i : Nat) : Word :=
  let n := ofBytes bs
  match ins with
  | .ldI8 _ => (BitVec.ofNat 8 n).signExtend 32
  | .ldI16 _ => (BitVec.ofNat 16 n).signExtend 32
  | _ => BitVec.ofNat 32 (n / 2 ^ (32 * i))

/-- What register `i` of the destination receives in lane `l`: the read bytes, and zero in a helper lane (R151). -/
def Op.loaded (o : Op) (i l : Nat) : Word :=
  match o.accesses.find? fun a => a.lane == l with
  | some a => loadWord o.ins a.data i
  | none => 0

/-- A load with every response in: it completes, or traps if a lane was denied. -/
def State.finishLoad (s : State) (wid id : Nat) : State :=
  match (s.warp wid).op? id with
  | none => s
  | some o =>
    if !o.bound then s
    else if o.accesses.any (·.denied) then s.denyOp wid id
    else s.finishOp wid id o.loaded

/-! ## The order point (R317) -/

/-- A store's lane leaves the core: a hit in L1 is updated in place (R57), the write goes to its place of performance; over
a link a 16-byte one goes as two (R155). `first`: what it allocates below L1 is first to evict (R59). -/
def State.sendWrite (s : State) (wid id : Nat) (lane : Nat) (va : DWord) (key : Nat) (bs : List Byte) (first : Bool) : State :=
  let w := s.warp wid
  let s := s.noteStore key bs.length
  let parts := if splitLink bs.length key then [(0, bs.take 8), (8, bs.drop 8)] else [(0, bs)]
  let s := s.updCore w.core fun c =>
    { c with l1 := bs.zipIdx.foldl (fun m e =>
        if (Sparse.get none m (key + e.2)).isSome then Sparse.set none m (key + e.2) (some e.1) else m) c.l1
             outbound := c.outbound ++ parts.zipIdx.map fun p =>
               (s.nextId + p.2, ⟨wid, id, lane, w.cid, va, key + p.1.1, p.1.2, first⟩) }
  { s with nextId := s.nextId + parts.length }

/-- The operation's writes have all been performed at their places (R316). -/
def State.performedAll (s : State) (wid op : Nat) : Bool :=
  !((s.core (s.warp wid).core).outbound.any fun e => e.2.wid == wid && e.2.op == op)

/-- The fence of a release is sent, if everything it comes after has reached the order point (R314). -/
def State.noteCut (s : State) (wid id : Nat) : State :=
  if s.sent wid ((s.warp wid).before id) then
    s.updOp wid id fun o => { o with cut := some (o.cut.getD s.nextId) }
  else s

/-- The release of operation `id` completes now (R312 to R315); a .dev or .sys one has had its fence reported. -/
def State.releasedOp (s : State) (wid id : Nat) (o : Op) : Bool :=
  s.releaseMet wid o.scope ((s.warp wid).before id) id (s.cutAt o.cut) && (decide (o.scope < 3) || o.fenceDone)

/-- One lane of a store at the order point. -/
def State.storeLane (s : State) (wid id : Nat) (o : Op) (a : Access) : State :=
  let blk := (s.warp wid).blk
  match o.space with
  | .tile => s.tileWrite blk a.key (o.laneBytes a.lane)
  | .acc => s.accWrite blk (a.key / 4 / 32768) (a.key / 4 % 32768) (o.cap 0 a.lane)
  | .global => s.sendWrite wid id a.lane a.addr a.key (o.laneBytes a.lane) a.first

/-- An ATOM that leaves the core now is at its target (R83, R163): its home's, or, where the L1 is to perform it and holds not
all its bytes, that of the line the L1 fetches; Graft may hold it (R313, R314). -/
def State.atomArrives (s : State) (w : Warp) (o : Op) (a : Access) : Bool :=
  let die := dieOfCore w.core
  o.space == .global && !o.dests.isEmpty &&
    if o.scope = 0 && !a.bypass then
      ((List.range o.size).any fun i => (s.l1Byte w.core (a.key + i)).isNone) && !s.graftHolds die a.key o.size
    else !remoteTo die a.key || s.graftAccepts w.core s.nextId

/-- The oldest operation in the warp's store queue reaches the order point, if it may: older loads have their values,
older acquires have taken effect, its release is complete (R317, R320), no atomic on its bytes is being performed on the
core. -/
def State.orderPoint (s : State) (wid : Nat) : State :=
  match (s.warp wid).ops.find? fun e => e.2.queued && !e.2.atOrder with
  | none => s
  | some (id, _) =>
    let s := s.settleStray wid id
    let w := s.warp wid
    match w.op? id with
    | none => s
    | some o =>
      let fence := match o.ins with
        | .fence _ => true
        | _ => false
      let waits := o.accesses.any fun a => s.localAhead w.core o.space w.blk a.key o.size
      if fence || !w.mayRead id || waits then s
      else if o.release && !s.releasedOp wid id o then s.noteCut wid id
      else if o.isStore then
        let s := s.updOp wid id fun x => { x with
          atOrder := true, srcPending := false
          accesses := if x.space = .global then x.accesses else x.accesses.map fun a => { a with done := true } }
        o.accesses.foldl (fun s a => s.storeLane wid id o a) s
      else if o.isAtomic then
        { s.updOp wid id fun x => { x with
            atOrder := true, srcPending := false, ord := s.nextId
            accesses := x.accesses.map fun a => { a with granted := s.atomArrives w x a && s.answers w.cid .atomic a x.size } } with
          nextId := s.nextId + 1 }
      else ((s.dropOp wid id).acquireOf wid o).settleAll wid

/-! ## Performing an atomic (R163, R164) -/

/-- The lanes of one location, in ascending order: the old value each receives, and the location's last value. -/
def Op.combined (o : Op) (v : DWord) : List Access → List (Nat × DWord) × DWord
  | [] => ([], v)
  | a :: l =>
    let x := o.cap 1 a.lane ++ o.cap 0 a.lane
    let y := (o.cap 1 a.lane).zeroExtend 64
    let op := AtomOp.ofCode (atomCode o.ins)
    let new := op.apply o.size v x y
    let (olds, last) := o.combined new l
    ((a.lane, v) :: olds, last)

/-- The accesses of the location `key`, performed together. -/
def Op.atLocation (o : Op) (key : Nat) : List Access := o.accesses.filter fun a => a.key == key && !a.done && !a.denied

/-- The lanes of `olds` have been performed with these old values. -/
def Op.performed (o : Op) (olds : List (Nat × DWord)) : Op :=
  { o with accesses := o.accesses.map fun a => match olds.find? fun e => e.1 == a.lane with
      | some e => { a with done := true, data := bytes64 e.2 }
      | none => a }

/-- The lanes of the location are refused at their target (R149). -/
def Op.refuse (o : Op) (key : Nat) : Op :=
  { o with accesses := o.accesses.map fun b => if b.key = key && !b.done then { b with denied := true } else b }

/-- The L1 holds the whole line of `key` (R163): what it lacks comes from memory as the core sees it, under the policy. -/
def State.l1Fetch (s : State) (core key : Nat) (m : Mark) : State :=
  let base := key / 128 * 128
  let line := s.coreView core base 128
  let pick := s.pick .l1 (lineOf key)
  let s := s.updCore core fun c =>
    let c := c.l1Alloc (lineOf key) pick m
    { c with l1 := line.zipIdx.foldl (fun l e =>
        if (Sparse.get none l (base + e.2)).isSome then l else Sparse.set none l (base + e.2) (some e.1)) c.l1 }
  s.noteRead (dieOfCore core) base 128 (decide (m = .stream))

/-- The combined request of location `key` is performed where R163 says: in tile memory, in the core's L1, or at the
location's home. A request to an L1 that does not hold the line brings it in; one to a home waits for the core's older
writes of those bytes and, over Graft, for a port that accepts it (R314), and may be refused there (R149, R412); each waits
for the core's older atomics of the location (R317), and one over Graft for what other cores of the die have had accepted
before it (R313, R324); an uncorrectable error terminates the context (R389) (DEDUCED, log entry 22). Lanes that reach one
address by a normal page and by an L1-bypass page, of which R164 makes one request and R163 two, are performed together, in
the place of the lane that the event names (DESIGN CHOICE, log entry 75). -/
def State.performAtomic (s : State) (wid id : Nat) (o : Op) (a : Access) : State :=
  let w := s.warp wid
  let group := o.atLocation a.key
  let first := group.headD a
  let size := o.size
  let die := dieOfCore w.core
  let val := fun (bs : List Byte) => BitVec.ofNat 64 (ofBytes bs)
  let out := fun (x : DWord) => toBytes size x.toNat
  let deny := (s.updOp wid id fun x => x.refuse a.key).noteDenial w.cid .atomic a.key size
  let before := fun (e : Nat × Outbound) => decide (e.1 < o.ord) && sameBytes a.key size e.2.key e.2.data.length
  if s.atomicsAhead w.core o.space w.blk o.ord a.key size then s
  else match o.space with
  | .tile =>
    let (olds, last) := o.combined (val (s.tileBytes w.blk a.key size)) group
    (s.tileWrite w.blk a.key (out last)).updOp wid id fun x => x.performed olds
  | _ =>
    if o.scope = 0 && !a.bypass then
      let held := (List.range size).all fun i => (s.l1Byte w.core (a.key + i)).isSome
      if !held && s.graftHolds die a.key size then s
      else if !held && !a.granted && s.refused w.cid .atomic a.key size then deny
      else if !held && s.isBad (a.key / 128 * 128) 128 then s.terminate w.cid 0x10
      else
        let s := if held then s else s.l1Fetch w.core a.key o.mark
        let bs := (List.range size).map fun i => s.seen 3 (a.key + i) ((s.l1Byte w.core (a.key + i)).getD 0)
        let (olds, last) := o.combined (val bs) group
        (s.sendWrite wid id first.lane first.addr a.key (out last) a.first).updOp wid id fun x => x.performed olds
    else if (s.core w.core).outbound.any before || s.acceptedBefore false w.core o.ord a.key size
        || remoteTo die a.key && !s.graftAccepts w.core o.ord then s
    else if !a.granted && s.refused w.cid .atomic a.key size then deny
    else if s.isBad a.key size then s.terminate w.cid 0x10
    else
      let (olds, last) := o.combined (val (s.bytesAt 3 a.key size)) group
      ((s.homeWriteAs a.first a.key (out last)).dropL1 w.core a.key size).updOp wid id fun x => x.performed olds

/-- An ATOM or ATOMT with every lane performed, and every write that an L1 forwards for it performed too, writes its old
values and takes its acquire effect, or traps for a denied lane (R149); a RED keeps its place until STORE_PERFORMED. -/
def State.finishAtomic (s : State) (wid id : Nat) : State :=
  match (s.warp wid).op? id with
  | none => s
  | some o =>
    if !o.isAtomic || !o.bound || o.dests.isEmpty || !s.performedAll wid id then s
    else if o.accesses.any (·.denied) then s.denyOp wid id
    else ((s.finishOp wid id o.loaded).acquireOf wid o).settleAll wid

end Sys2Proof.Machine
end

