-- ==== Sys2Proof/Machine/Tensor.lean ====
section
/-! DEFINITION. Tensor forms (04): entries of the Tensor Form Table and their validity, dense, scaled and codebook
elements, terms (R45), term-list records as they are read (R102) and as ENC writes them (R97 to R99), and the accesses an
engine command makes in the three spaces. -/

namespace Sys2Proof.Machine

/-- Engine fault `cause` with no address. -/
def cause (c : BitVec 8) : AccFault := ⟨c, 0, 0, none⟩

/-! ## Entries (Table 4.2) -/

/-- An entry of the Tensor Form Table as sampled: its number and its eight words. -/
structure Tensor where
  num : Nat
  words : List DWord
  deriving DecidableEq, Repr

def Tensor.field (t : Tensor) (i lo n : Nat) : Nat := ((t.words.getD i 0).extractLsb' lo n).toNat
def Tensor.bit (t : Tensor) (i k : Nat) : Bool := (t.words.getD i 0).getLsbD k

def Tensor.v (t : Tensor) : Bool := t.bit 0 63
def Tensor.lt (t : Tensor) : Bool := t.bit 0 62
def Tensor.oa (t : Tensor) : Bool := t.bit 0 61
def Tensor.rankM1 (t : Tensor) : Nat := t.field 0 56 3
def Tensor.spaceCode (t : Tensor) : Nat := t.field 0 54 2
def Tensor.fmt (t : Tensor) : Nat := t.field 0 48 6
def Tensor.base (t : Tensor) : Nat := t.field 0 0 48
def Tensor.dim (t : Tensor) (j : Nat) : Nat := t.field (1 + j / 2) (32 * (j % 2)) 32
/-- Slot size S of a term list. -/
def Tensor.slot (t : Tensor) : Nat := 16 * (t.field 3 40 2 + 1)
def Tensor.stride1 (t : Tensor) : Nat := t.field 3 0 40
def Tensor.stride2 (t : Tensor) : Nat := t.field 4 0 40
def Tensor.bsel (t : Tensor) : Nat := t.field 5 53 8
def Tensor.sfmt (t : Tensor) : Nat := t.field 5 51 2
def Tensor.sblk (t : Tensor) : Nat := t.field 5 48 3
def Tensor.sbase (t : Tensor) : Nat := t.field 5 0 48
def Tensor.ovcap (t : Tensor) : Nat := t.field 6 32 32
def Tensor.ovoff (t : Tensor) : Nat := t.field 6 0 32
def Tensor.xfmt (t : Tensor) : Nat := t.field 7 56 6
/-- Rank r of a latent tensor. -/
def Tensor.lr (t : Tensor) : Nat := t.field 7 48 7 + 1
def Tensor.tv (t : Tensor) : Nat := t.field 7 40 8
def Tensor.tk (t : Tensor) : Nat := t.field 7 32 8
def Tensor.ovcur (t : Tensor) : Nat := t.field 7 0 32
def Tensor.scaled (t : Tensor) : Bool := t.sfmt == 1
def Tensor.rows (t : Tensor) : Nat := t.dim 1 * t.dim 2 * t.dim 3

/-- The space an entry lies in. -/
def Tensor.space (t : Tensor) : Space :=
  match t.spaceCode with
  | 0 => .global
  | 1 => .tile
  | _ => .acc

def ceilDiv (a b : Nat) : Nat := (a + b - 1) / b

/-! ## Formats (Table 4.3) -/

/-- Element size in bits of a dense format. -/
def denseBits (f : Nat) : Option Nat :=
  match f with
  | 0x01 | 0x02 | 0x04 | 0x05 => some 8
  | 0x03 | 0x06 => some 4
  | 0x07 | 0x08 => some 16
  | 0x09 | 0x0A | 0x0B => some 32
  | _ => none

def isTerms (f : Nat) : Bool := decide (0x10 ≤ f) && decide (f ≤ 0x14)
def isCb2 (f : Nat) : Bool := f == 0x18
/-- Source format of a term list; another format is its own. -/
def sourceFmt (f : Nat) : Nat :=
  match f with
  | 0x10 => 0x04
  | 0x11 => 0x05
  | 0x12 => 0x06
  | 0x13 => 0x01
  | 0x14 => 0x08
  | _ => f

def isMmaA (f : Nat) : Bool := [0x01, 0x03, 0x04, 0x05, 0x06, 0x07, 0x08].contains f || isTerms f
def isMmaB (f : Nat) : Bool := [0x01, 0x03, 0x04, 0x05, 0x06, 0x08, 0x18].contains f
def isXfmt (f : Nat) : Bool := f == 0x04 || f == 0x05 || f == 0x08

/-- The floating format of a code; integers have none. -/
def floatFmt (f : Nat) : Option Fmt :=
  match f with
  | 0x04 => some .e4m3
  | 0x05 => some .e5m2
  | 0x06 => some .e2m1
  | 0x07 => some .f16
  | 0x08 => some .bf16
  | 0x09 => some .f32
  | _ => none

/-- The exact value of a dense element's code. -/
def denseVal (f x : Nat) : Val :=
  match floatFmt f with
  | some m => m.value x
  | none => match f with
    | 0x01 => .ofInt (BitVec.ofNat 8 x).toInt
    | 0x02 => .fin false (x % 256) 1
    | 0x03 => .ofInt (BitVec.ofNat 4 x).toInt
    | 0x0B => qVal (BitVec.ofNat 32 x)
    | _ => .ofInt (BitVec.ofNat 32 x).toInt

/-! ## Validity (R90, R91, R94, R95, R105) -/

def Tensor.reservedZero (t : Tensor) : Bool :=
  t.field 0 59 2 == 0 && t.field 3 42 22 == 0 && t.field 4 40 24 == 0 && t.field 5 61 3 == 0 && t.field 7 62 2 == 0
    && t.field 7 55 1 == 0

/-- Fields that an entry of its kind does not use are 0; OA and its three fields are taken as used in an entry of any format
(DEDUCED, log entry 27). -/
def Tensor.unusedZero (t : Tensor) : Bool :=
  (isTerms t.fmt || t.field 3 40 2 == 0) && (isCb2 t.fmt || t.bsel == 0) && decide (t.sfmt ≤ 1)
    && (t.sfmt != 0 || t.sblk == 0 && t.sbase == 0)
    && (t.oa || t.ovcap == 0 && t.ovoff == 0 && t.ovcur == 0)
    && (t.lt || t.xfmt == 0 && t.field 7 48 7 == 0 && t.tv == 0 && t.tk == 0)

def Tensor.aligned (t : Tensor) (n : Nat) : Bool := t.base % n == 0 && t.stride1 % n == 0 && t.stride2 % n == 0

/-- The layout rules of its format. -/
def Tensor.layout (t : Tensor) : Bool :=
  if t.spaceCode = 2 then
    (t.fmt == 0x09 || t.fmt == 0x0A) && t.rankM1 == 1 && t.dim 0 == 512 && t.dim 1 == 64 && t.stride1 == 0
      && t.stride2 == 0 && decide (t.base ≤ 5)
  else if isTerms t.fmt then
    t.aligned 16 && decide (ceilDiv (t.dim 0) 16 * t.slot ≤ t.stride1)
      && (t.sfmt != 1 || decide (t.sblk ≤ 3) || t.sblk == 7)
  else if isCb2 t.fmt then t.aligned 2 && t.dim 0 % 64 == 0 && t.sfmt == 1 && t.sblk == 0
  else t.aligned (Nat.max 1 ((denseBits t.fmt).getD 8 / 8))

/-- The entry is valid as far as its own words say (DEDUCED, log entry 27). -/
def Tensor.valid (t : Tensor) : Bool :=
  t.v && t.reservedZero && ((denseBits t.fmt).isSome || isTerms t.fmt || isCb2 t.fmt) && decide (t.spaceCode ≤ 2)
    && decide (t.rankM1 ≤ 3)
    && (List.range 4).all (fun j => decide (1 ≤ t.dim j) && (decide (j ≤ t.rankM1) || t.dim j == 1))
    && t.unusedZero && t.layout
    && (!t.lt || (isMmaB t.fmt || isTerms t.fmt) && t.dim 0 == t.lr && isXfmt t.xfmt)

/-- Entry `n` among those a command sampled. -/
def tensorOf (tft : Tbl (List DWord)) (n : Nat) : Tensor := ⟨n, (tft.get? n).getD []⟩

def Tensor.isBough (t : Tensor) : Bool :=
  t.valid && t.fmt == 0x0A && t.rankM1 == 0 && t.dim 0 == 256 && decide (t.spaceCode ≤ 1)

/-- A projection of rank `r` (R105). -/
def Tensor.isProjection (t : Tensor) (r : Nat) : Bool :=
  t.valid && t.fmt == 0x08 && t.rankM1 == 1 && t.dim 0 == r && decide (t.dim 1 ≤ 512) && decide (t.spaceCode ≤ 1)

/-- The entry is valid with the entries it names. -/
def Tensor.sound (tft : Tbl (List DWord)) (t : Tensor) : Bool :=
  t.valid && (!isCb2 t.fmt || (tensorOf tft t.bsel).isBough)
    && (!t.lt || (tensorOf tft t.tk).isProjection t.lr && (tensorOf tft t.tv).isProjection t.lr)

/-- Entries an entry names (R89). -/
def Tensor.names (t : Tensor) : List Nat :=
  (if isCb2 t.fmt then [t.bsel] else []) ++ (if t.lt then [t.tk, t.tv] else [])

/-! ## Accesses in the three spaces -/

/-- Bytes that memory holds at `va`, those the command has read already as they were then (R327). -/
def Cmd.early (c : Cmd) (va : DWord) (bs : List Byte) : List Byte :=
  bs.zipIdx.map fun x => (Sparse.get none c.staged (va.toNat + x.2)).getD x.1

/-- Bytes at an address of a space, as an engine command of block `blk` reads them (R178, R327). -/
def State.spaceRead (s : State) (c : Cmd) (sp : Space) (bank : Nat) (a : Int) (n : Nat) : Except AccFault (List Byte) :=
  let size := ((s.grid? c.cid c.grid).map fun g => g.kernel.tileBytes).getD 0
  match sp with
  | .global => (s.ctxRead c.core c.cid (BitVec.ofInt 64 a) n).map (c.early (BitVec.ofInt 64 a))
  | .tile => if a < 0 ∨ (size : Int) < a + n then .error ⟨6, 0, BitVec.ofInt 64 a, none⟩
    else .ok (s.tileBytes c.blk a.toNat n)
  | .acc => .ok (bytes32 (s.accWord c.blk bank (a.toNat / 4)))

def State.spaceWrite (s : State) (c : Cmd) (sp : Space) (bank : Nat) (a : Int) (bs : List Byte) : Except AccFault State :=
  let size := ((s.grid? c.cid c.grid).map fun g => g.kernel.tileBytes).getD 0
  match sp with
  | .global => s.ctxWrite c.core c.cid (BitVec.ofInt 64 a) bs
  | .tile => if a < 0 ∨ (size : Int) < a + bs.length then .error ⟨6, 0, BitVec.ofInt 64 a, none⟩
    else .ok (s.tileWrite c.blk a.toNat bs)
  | .acc => .ok (s.accWrite c.blk bank (a.toNat / 4) (BitVec.ofNat 32 (ofBytes bs)))

/-- Where `n` bytes of global or tile memory lie, so that two names of one byte are the same there: system addresses, a tile's
bytes beyond them all. -/
def State.placesOf (s : State) (c : Cmd) (tile : Bool) (a : Int) (n : Nat) : List (Nat × Nat) :=
  if tile then [(2 ^ 80 + a.toNat, n)]
  else match s.ctxSegments c.core c.cid .read (BitVec.ofInt 64 a) n, s.ctxSegments c.core c.cid .write (BitVec.ofInt 64 a) n with
    | .ok l, _ => l
    | _, .ok l => l
    | _, _ => []

/-- Two lists of places have a byte in common. -/
def meet (a b : List (Nat × Nat)) : Bool := a.any fun x => b.any fun y => sameBytes x.1 x.2 y.1 y.2

/-- The places hold unspecified values from here on (R2). -/
def State.blurPlaces (s : State) (blk : Nat) (l : List (Nat × Nat)) : State :=
  l.foldl (fun s x =>
    if 2 ^ 80 ≤ x.1 then s.updBlock blk fun b => { b with tile := Sparse.setList none b.tile (x.1 - 2 ^ 80) (List.replicate x.2 none) }
    else s.blur x.1 x.2) s

def State.tRead (s : State) (c : Cmd) (t : Tensor) (a n : Nat) : Except AccFault (List Byte) :=
  s.spaceRead c t.space (t.base % 8) a n

/-- What such a read leaves in the caches (R21, R60, R61). -/
def State.noteSpace (s : State) (c : Cmd) (sp : Space) (a : Int) (n : Nat) : State :=
  if sp = .global then s.noteCtxRead c.core c.cid (BitVec.ofInt 64 a) n else s

def State.noteT (s : State) (c : Cmd) (t : Tensor) (a n : Nat) : State := s.noteSpace c t.space a n

/-! ## Addresses (R92, R93, R95) -/

/-- (i1, i2, i3) of flat row f. -/
def Tensor.split (t : Tensor) (f : Nat) : Nat × Nat × Nat :=
  (f % t.dim 1, f / t.dim 1 % t.dim 2, f / t.dim 1 / t.dim 2)

def Tensor.rowAddr (t : Tensor) (f : Nat) : Nat :=
  let (i1, i2, i3) := t.split f
  t.base + i1 * t.stride1 + i2 * t.stride2 + i3 * t.stride2 * t.dim 2

/-- Block extents of a scale block code (Table 4.4); 7 is the whole tensor. -/
def scaleBlock (code : Nat) : Nat × Nat :=
  match code with
  | 0 => (64, 1)
  | 1 => (32, 1)
  | 2 => (16, 1)
  | 3 => (8, 1)
  | 4 => (1, 16)
  | 5 => (1, 32)
  | _ => (1, 64)

def Tensor.scaleIndex (t : Tensor) (i0 f : Nat) : Nat :=
  let (i1, i2, i3) := t.split f
  let (b0, b1) := scaleBlock t.sblk
  if t.sblk = 7 then 0
  else ((i3 * t.dim 2 + i2) * ceilDiv (t.dim 1) b1 + i1 / b1) * ceilDiv (t.dim 0) b0 + i0 / b0

/-- The scale byte of an element; 0x7F (a scale of 1) where the tensor has none. -/
def State.scaleByte (s : State) (c : Cmd) (t : Tensor) (i0 f : Nat) : Except AccFault (BitVec 8) :=
  if t.scaled then
    match s.tRead c t (t.sbase + t.scaleIndex i0 f) 1 with
    | .error e => .error e
    | .ok bs => .ok (bs.headD 0)
  else .ok 0x7F

/-! ## The Bough code (R44) -/

/-- Weight i of a codeword with its table entry, in units of one half: sign and magnitude 2 m + h. -/
def boughWeight (cw : Nat) (entry i : Nat) : Bool × Nat :=
  let sgn := fun (k : Nat) => cw.testBit k
  let s0 := (sgn 1 != sgn 2) != ((sgn 3 != sgn 4) != ((sgn 5 != sgn 6) != sgn 7))
  (if i = 0 then s0 else sgn i, 2 * (entry / 2 ^ (3 * i) % 8) + cw % 2)

/-! ## Elements -/

/-- The unscaled value of a dense or codebook element. -/
def State.rawElem (s : State) (c : Cmd) (tft : Tbl (List DWord)) (t : Tensor) (i0 f : Nat) : Except AccFault Val :=
  let row := t.rowAddr f
  if isCb2 t.fmt then
    match s.tRead c t (row + 2 * (i0 / 8)) 2 with
    | .error e => .error e
    | .ok bs =>
      let cw := ofBytes bs
      let tab := tensorOf tft t.bsel
      match s.tRead c tab (tab.base + 4 * (cw / 256)) 4 with
      | .error e => .error e
      | .ok es =>
        let (neg, m) := boughWeight cw (ofBytes es) (i0 % 8)
        .ok (.fin neg m 2)
  else
    let bits := (denseBits t.fmt).getD 8
    if bits = 4 then
      match s.tRead c t (row + i0 / 2) 1 with
      | .error e => .error e
      | .ok bs => .ok (denseVal t.fmt (ofBytes bs / 16 ^ (i0 % 2) % 16))
    else
      match s.tRead c t (if t.space = .acc then 4 * (512 * f + i0) else row + i0 * (bits / 8)) (bits / 8) with
      | .error e => .error e
      | .ok bs => .ok (denseVal t.fmt (ofBytes bs))

/-- An element at its exact value with its scale (R93); the NaN scale is `nan`. -/
def State.element (s : State) (c : Cmd) (tft : Tbl (List DWord)) (t : Tensor) (nan : Except AccFault Val) (i0 f : Nat) :
    Except AccFault Val :=
  match s.rawElem c tft t i0 f, s.scaleByte c t i0 f with
  | .error e, _ => .error e
  | _, .error e => .error e
  | .ok v, .ok e => if e = 0xFF then nan else .ok (if t.scaled then Val.mul v (scaleVal e) else v)

/-! ## Terms (R45) -/

/-- A term: sign and exponent. -/
abbrev Term := Bool × Int

/-- Canonical non-adjacent form of m × 2^e, lowest digit first (fuel: one more than the bits of m). -/
def nafLow : (fuel : Nat) → (m : Nat) → (sg : Bool) → (e : Int) → List Term
  | 0, _, _, _ => []
  | n + 1, m, sg, e =>
    if m = 0 then []
    else if m % 2 = 0 then nafLow n (m / 2) sg (e + 1)
    else if m % 4 = 1 then (sg, e) :: nafLow n (m / 2) sg (e + 1)
    else (!sg, e) :: nafLow n ((m + 1) / 2) sg (e + 1)

/-- The terms of a finite value with a power of two below, highest first; none for a NaN or an infinity. -/
def termsOf : Val → Option (List Term)
  | .fin sg n d => some (nafLow (Nat.log2 n + 3) n sg (-(Nat.log2 d : Int))).reverse
  | _ => none

def termVal (t : Term) : Val := .dyadic t.1 1 t.2

/-- The exact sum of terms (R102). -/
def termSum (ts : List Term) : Val := ts.foldl (fun v t => Val.add .rne v (termVal t)) (.fin false 0 1)

/-! ## Chunk records as they are read (R96, R102) -/

/-- Term bytes split after each one with X set. -/
def splitTerms : List Byte → List Byte → List (List Byte)
  | _, [] => []
  | cur, b :: bs => if b.getLsbD 6 then (cur ++ [b]) :: splitTerms [] bs else splitTerms (cur ++ [b]) bs

def rising : List Nat → Bool
  | a :: b :: l => decide (a < b) && rising (b :: l)
  | _ => true

/-- The number of term bytes of a record's slot, its overflow pointer, and the overflow units they name (R99). -/
def recordUnits (size : Nat) (raw : List Byte) : Nat × Nat × Nat :=
  let count := (raw.getD 3 0).toNat % 128
  (count, ofBytes (raw.drop (size - 4)), ceilDiv (count - (size - 8)) 16)

/-- What reading a record leaves in the caches. -/
def State.noteRecord (s : State) (c : Cmd) (t : Tensor) (f ch : Nat) : State :=
  let at_ := t.rowAddr f + ch * t.slot
  match s.tRead c t at_ t.slot with
  | .error _ => s
  | .ok raw =>
    let (_, ptr, units) := recordUnits t.slot raw
    let s := s.noteT c t at_ t.slot
    if (raw.getD 3 0).getLsbD 7 then s.noteT c t (t.base + 16 * (t.ovoff + ptr)) (16 * units) else s

/-- A record's sixteen elements as terms, unscaled; malformed is cause 0x13 (DEDUCED, log entry 28). Where its continuation
cannot be read, that is reported, malformed or not, but for the two checks that need no continuation, of OVF and of OVPTR + U
(DESIGN CHOICE, log entry 28). -/
def State.readRecord (s : State) (c : Cmd) (t : Tensor) (f ch : Nat) : Except AccFault (List (List Term)) :=
  let size := t.slot
  match s.tRead c t (t.rowAddr f + ch * size) size with
  | .error e => .error e
  | .ok raw =>
    let z := ofBytes (raw.take 2)
    let basex := (raw.getD 2 0).toNat
    let ovf := (raw.getD 3 0).getLsbD 7
    let (count, ptr, units) := recordUnits size raw
    if ovf != decide (size - 4 < count) || (ovf && decide (t.ovcap < ptr + units)) then .error (cause 0x13)
    else
      let rest := if ovf then s.tRead c t (t.base + 16 * (t.ovoff + ptr)) (16 * units) else .ok []
      match rest with
      | .error e => .error e
      | .ok more =>
        let bytes := ((if ovf then (raw.drop 4).take (size - 8) ++ more else raw.drop 4)).take count
        let groups := splitTerms [] bytes
        let present := (List.range 16).filter fun i => !z.testBit i
        let sound := groups.length == present.length
          && (count == 0 || (bytes.getD (count - 1) 0).getLsbD 6)
          && present.all (fun i => decide (16 * ch + i < t.dim 0))
          && groups.all fun g => decide (g.length ≤ 8) && rising (g.map fun b => b.toNat % 64)
        if !sound then .error (cause 0x13)
        else .ok ((List.range 16).map fun i =>
          if z.testBit i then []
          else (groups.getD ((present.takeWhile (· < i)).length) []).map fun b =>
            (b.getLsbD 7, (basex : Int) - 128 - (b.toNat % 64 : Nat)))

/-! ## Chunk records as ENC writes them (R97 to R99) -/

/-- The events a record makes: SATCNT, FTZCNT, NANCNT, TRUNCNT. -/
abbrev Events := List Nat
def Events.plus (a b : Events) : Events := (List.range 4).map fun i => a.getD i 0 + b.getD i 0

/-- An element's value into the source format F of a term list (R195), and its terms with the scale: SAT and NAN counted;
the ceiling of R98 (DEDUCED, log entry 29). -/
def encElem (f : Nat) (scale : BitVec 8) (scaled : Bool) (v : Val) : List Term × Bool × Bool :=
  let q := if scaled then Val.div v (scaleVal scale) else v
  let r : Conv := match floatFmt f with
    | some m => intoFloat Flush.none m .rne .all q false
    | none => intoInt (-128) 127 8 .rne q false
  if r.nan then ([], false, true)
  else
    let ts := (termsOf (denseVal f r.res.toNat)).getD []
    match ts with
    | (sg, e) :: _ =>
      if 128 ≤ e then ([(sg, 127), (sg, 125), (sg, 123), (sg, 121)], true, false) else (ts, r.sat, false)
    | [] => ([], r.sat, false)

/-- The first S bytes of a record and its overflow bytes in whole units, before the overflow pointer is known; with its
FTZ and TRUNC events (DEDUCED, log entry 28). -/
def packRecord (size : Nat) (els : List (List Term)) : List Byte × List Byte × Nat × Nat :=
  let none_ : List Byte := [0xFF, 0xFF] ++ List.replicate (size - 2) 0
  match (els.filterMap fun ts => ts.head?.map (·.2)) with
  | [] => (none_, [], 0, 0)
  | e :: es =>
    let top := es.foldl (fun a b => if a < b then b else a) e
    if top < -128 then (none_, [], 1, 0)
    else
      let kept := els.map fun ts => ts.filter fun x => decide (top - x.2 ≤ 63)
      let dropped := (els.map List.length).foldl (· + ·) 0 - (kept.map List.length).foldl (· + ·) 0
      let z := (List.range 16).foldl (fun m i => if (kept.getD i []).isEmpty then m + 2 ^ i else m) 0
      let bytes := kept.flatMap fun ts => ts.zipIdx.map fun x =>
        BitVec.ofNat 8 ((if x.1.1 then 128 else 0) + (if x.2 + 1 = ts.length then 64 else 0) + (top - x.1.2).toNat)
      let n := bytes.length
      let head := toBytes 2 z ++ [BitVec.ofNat 8 (top + 128).toNat]
      if n ≤ size - 4 then
        (head ++ [BitVec.ofNat 8 n] ++ bytes ++ List.replicate (size - 4 - n) 0, [], 0, dropped)
      else
        let more := bytes.drop (size - 8)
        (head ++ [BitVec.ofNat 8 (128 + n)] ++ bytes.take (size - 8) ++ List.replicate 4 0,
          more ++ List.replicate (16 * ceilDiv more.length 16 - more.length) 0, 0, dropped)

end Sys2Proof.Machine
end

