-- ==== Sys2Proof/Machine/Engine.lean ====
section
/-! DEFINITION. What engine commands have in common (R175 to R181, R281, R282): issue, the range-lock table, the sampling
of structures and Tensor Form Table entries, completion, faults, event records. -/

namespace Sys2Proof.Machine

/-! ## Opcodes and literals -/

/-- Class C or class M opcode (Tables 7.1, 10.5). -/
def cmdOpc : Instr → Nat
  | .cpy _ => 0x01
  | .cpym _ => 0x02
  | .enc _ => 0x03
  | .dect _ => 0x04
  | .sread _ => 0x06
  | .swrite _ | .swriteFua _ => 0x07
  | .append _ => 0x08
  | .drain _ => 0x09
  | .quiesce _ => 0x0A
  | .tfset _ | .tfsetOvcur _ => 0x0B
  | .tfget _ => 0x0C
  | .mma _ => 0x01
  | .mbound _ => 0x02
  | .mzero _ | .mzeroX4 _ => 0x03
  | .mlatK _ | .mlatV _ => 0x04
  | .mstat _ => 0x05
  | _ => 0

/-- The X field of word 0, as an event record carries it (Table 7.4). -/
def cmdTag : Instr → BitVec 8
  | .cpy o => o.tag
  | .cpym o => o.tag
  | .enc o => o.src
  | .dect o => o.src
  | _ => 0

/-- EQ of the literal. -/
def cmdEq : Instr → Bool
  | .cpy o => o.eq
  | .cpym o => o.eq
  | .enc o => o.eq
  | .dect o => o.eq
  | _ => false

def unitOwner : EngineUnit → LockOwner
  | .matrix => .matrix
  | .storage => .storage
  | _ => .copy

/-! ## Issue -/

/-- The command the executing word issues, with the operands it reads. -/
def State.newCmd (s : State) (i : Instr) (u : EngineUnit) (ops : List Word) : Cmd :=
  let w := s.self
  { ins := i, wid := s.focus.wid, cid := w.cid, blk := w.blk, grid := w.grid, core := w.core, unit := u, st := .queued
    setA := s.focus.setA, setB := s.focus.setB, loose := s.focus.loose, srcPending := true, clause := s.focus.hdr, word := s.focus.idx
    rpcs := (lanesOf s.focus.threads).map fun l => (l, w.rpcOf l), ops := ops, lanes := s.focus.threads, words := [], wordsVa := 0
    tft := [], proj := none, det := s.det w.cid
    consumer := ((ringOf i).map fun r => w.side.getLsbD r).getD false
    lcore := ((s.blocks.get? w.blk).map (·.lcore)).getD 0, windex := w.index, fault := none, crossed := 0, subs := 0
    ranks := [], walked := [], signalDue := false, moved := [], events := [], units := none, staged := [], cut := none
    groups := [], ordinal := w.appendOrd, hazy := [] }

/-- The lowest-numbered free range-lock entry (DESIGN CHOICE, log entry 26). -/
def Core.freeEntry (k : Core) : Nat := ((List.range 32).find? fun n => k.locks.all fun l => l.entry != n).getD 32

/-- The command takes its range-lock entry (R177) (DESIGN CHOICE, log entry 26). -/
def State.takeLock (s : State) (id : Nat) (c : Cmd) (ranges : List LockRange) : State :=
  let slot := (s.warp c.wid).slot
  s.updCore c.core fun k => { k with locks := k.locks ++
    [⟨k.freeEntry, id, id, c.cid, c.blk, unitOwner c.unit, BitVec.ofNat 8 (cmdOpc c.ins), slot, ranges⟩] }

/-- The command takes a range-lock entry (R177, R280, R285). -/
def takesLock : Instr → Bool
  | .append _ | .drain _ | .quiesce _ | .mbound _ => false
  | _ => true

/-- The command is in flight from here on: its registers among the warp's operations, its ranges in the table. -/
def State.pushCmd (s : State) (c : Cmd) (caps : List Cap) (dests : List Dest) (ranges : List LockRange) : State :=
  let id := s.nextId
  let s := s.pushOp { s.newOp c.ins c.lanes with caps := caps, dests := dests, setB := none }
  let s := { (if c.unit = .bound then s else s.noteActive c.blk) with cmds := s.cmds.put id c }
  if takesLock c.ins then s.takeLock id c ranges else s

/-! ## What a command reads at issue (R176, R89) -/

/-- Bytes of the issuing context's memory with the warp's own earlier stores (R317, R323) (DEDUCED, log entry 42). -/
def State.ownRead (s : State) (wid : Nat) (va : DWord) (n : Nat) : Except AccFault (List Byte) :=
  let w := s.warp wid
  match s.ctxSegments w.core w.cid .read va n with
  | .error e => .error e
  | .ok l =>
    if l.any fun x => s.isBad x.1 x.2 then .error ⟨0x10, 0, va, none⟩
    else .ok (l.flatMap fun x => (s.coreView w.core x.1 x.2).zipIdx.map fun b =>
      (forwardByte w.ops .global (x.1 + b.2)).getD b.1)

def words64 (bs : List Byte) : List DWord :=
  (List.range (bs.length / 8)).map fun i => BitVec.ofNat 64 (ofBytes ((bs.drop (8 * i)).take 8))

/-- The structure at `va`, `n` words; a misaligned address is cause 0x04. -/
def State.readStruct (s : State) (wid : Nat) (va : DWord) (n : Nat) : Except AccFault (List DWord) :=
  if va.toNat % 64 ≠ 0 then .error ⟨4, 0, va, none⟩
  else match s.ownRead wid va (8 * n) with
    | .error e => .error e
    | .ok bs => .ok (words64 bs)

/-- Address of entry `n` of a context's Tensor Form Table (R88, Table 13.4). -/
def State.tftVa (s : State) (cid n : Nat) : DWord := (s.desc cid 3 &&& 0x0000FFFFFFFFFFC0) + BitVec.ofNat 64 (64 * n)

def setsEntry : Instr → Option Nat
  | .tfset o => some o.t.toNat
  | .tfsetOvcur o => some o.t.toNat
  | _ => none

/-- The TFSET writes OVCUR alone. -/
def setsCursor : Instr → Bool
  | .tfsetOvcur _ => true
  | _ => false

/-- Word `i` of the entry that a TFSET writes over `old`: mode 01 changes the lower half of word 7 alone (R198)
(DEDUCED, log entry 30). -/
def Cmd.newWord (c : Cmd) (i : Nat) (old : DWord) : DWord :=
  let new := c.words.getD i old
  if !setsCursor c.ins then new
  else if i = 7 then (old.extractLsb' 32 32) ++ (new.extractLsb' 0 32) else old

/-- A TFSET of the entry is under way: a word of it is the old one or the new (R198) (DEDUCED, log entry 30). -/
def State.mixEntry (s : State) (cid n : Nat) (old : List DWord) : List DWord :=
  match s.cmds.find? fun e => e.2.cid == cid && e.2.st == .started && setsEntry e.2.ins == some n with
  | none => old
  | some e => old.zipIdx.map fun x =>
      if s.freeBool (11000000 + 8 * n + x.2) then e.2.newWord x.2 x.1 else x.1

/-- Sample an entry: the core's copy, or the memory image, which the core then holds (DEDUCED, log entry 30). -/
def State.sampleEntry (s : State) (core cid n : Nat) : Except AccFault (State × List DWord) :=
  match (s.core core).tft.get? (256 * cid + n) with
  | some ws => .ok (s, s.mixEntry cid n ws)
  | none => match s.ctxRead64s core cid (s.tftVa cid n) 8 with
    | .error e => .error e
    | .ok ws =>
      .ok ((s.noteCtxRead core cid (s.tftVa cid n) 64).updCore core fun k => { k with tft := k.tft.put (256 * cid + n) ws },
        s.mixEntry cid n ws)

/-- Sample the entries listed that are not there yet. -/
def State.sampleList (s : State) (c : Cmd) : List Nat → Except AccFault (State × Cmd)
  | [] => .ok (s, c)
  | n :: l =>
    if (c.tft.get? n).isSome then s.sampleList c l
    else match s.sampleEntry c.core c.cid n with
      | .error e => .error e
      | .ok (t, ws) => t.sampleList { c with tft := c.tft.put n ws } l

/-- Sample entries and those that they name (R89). -/
def State.sampleAll (s : State) (c : Cmd) (ns : List Nat) : Except AccFault (State × Cmd) :=
  match s.sampleList c ns with
  | .error e => .error e
  | .ok (t, c) => t.sampleList c (ns.flatMap fun n => (tensorOf c.tft n).names)

/-- Graft holds the read of an entry that the core has no copy of, of those listed and of those that they name (R313). -/
def State.samplesHeld (s : State) (c : Cmd) (ns : List Nat) : Bool :=
  let held := fun (n : Nat) => ((s.core c.core).tft.get? (256 * c.cid + n)).isNone && s.readHeld c.core c.cid (s.tftVa c.cid n) 64
  ns.any held || match s.sampleAll c ns with
    | .error _ => false
    | .ok (_, d) => d.tft.keys.any held

/-- An acquire of the executing warp has still to take effect: what the warp reads waits for it (R320). -/
def State.acquirePending (s : State) : Bool := s.self.ops.any fun e => e.2.acquiring || e.2.isDrain

/-! ## Order (R175, R177, R178) -/

/-- The ranges stand in each other's way. -/
def LockRange.meets (a b : LockRange) : Bool := a.space == b.space && decide (a.lo ≤ b.hi) && decide (b.lo ≤ a.hi)

def Lock.blocks (e f : Lock) : Bool :=
  f.ranges.any fun a => e.ranges.any fun b =>
    a.meets b && (a.dst || b.dst) && (if a.space = .global then e.cid == f.cid else e.blk == f.blk)

/-- No earlier entry of the table holds the command back; inbound multicast never does (R191). -/
def State.lockClear (s : State) (id : Nat) (c : Cmd) : Bool :=
  match (s.core c.core).locks.find? fun l => l.cmd == id && l.owner != .multicast with
  | none => true
  | some f => (s.core c.core).locks.all fun e => decide (f.seq ≤ e.seq) || e.owner == .multicast || !e.blocks f

/-- A write of `n` bytes at `va` waits for what Graft has accepted for those bytes before number `id` (R311, R313). -/
def State.writeHeld (s : State) (core cid id : Nat) (va : DWord) (n : Nat) : Bool :=
  match s.ctxSegments core cid .write va n with
  | .ok l => l.any fun x => s.acceptedBefore true core id x.1 x.2
  | .error _ => false

/-- Graft holds a read of the command's source ranges, or what it has accepted before the command has still to be written to
its destinations, or an atomic that came before it has still to be performed on tile bytes that it reads or writes (R311,
R313, R328) (DEDUCED, log entry 7). -/
def State.rangesHeld (s : State) (id : Nat) (c : Cmd) : Bool :=
  (s.core c.core).locks.any fun l => l.cmd == id && l.owner != .multicast && l.ranges.any fun r =>
    match r.space with
    | .global => if r.dst then s.writeHeld c.core c.cid id (BitVec.ofNat 64 r.lo) (r.hi + 1 - r.lo)
      else s.readHeld c.core c.cid (BitVec.ofNat 64 r.lo) (r.hi + 1 - r.lo)
    | .tile => s.atomicsAhead c.core .tile c.blk id r.lo (r.hi + 1 - r.lo)
    | .acc => false

/-- The warp's older stores and atomics have been performed, its older loads and acquires have their values (R178, R320,
R324), and nothing holds the command's reads (DEDUCED, log entry 33). -/
def State.storesDone (s : State) (id : Nat) (c : Cmd) : Bool :=
  let w := s.warp c.wid
  w.mayRead id && (w.before id).all (fun e => !(e.2.isStore || e.2.isAtomic) || s.opMet w.core 4 e.2)
    && s.outboundMet c.wid 4 id && !s.rangesHeld id c

/-- Every earlier command of the core's copy engine is complete: its event record is in the queue, its signal made (R175,
R179, R192). -/
def State.copyTurn (s : State) (id : Nat) (c : Cmd) : Bool :=
  c.unit != .copy || s.cmds.all fun e => decide (id ≤ e.1) || e.2.core != c.core || e.2.unit != .copy

/-- The command's release at `scope`: what its warp issued before it, and what the other warps of the core had sent when it
was made (R314, R319). -/
def State.releasedBefore (s : State) (scope id : Nat) (c : Cmd) : Bool :=
  s.releaseMet c.wid scope ((s.warp c.wid).before id) id (s.cutAt c.cut)

/-! ## The end of a command (R179, R180, R281, R282) -/

/-- An engine cause as its flag reports it (R112). -/
def faultCode (cause : BitVec 8) : BitVec 8 := if cause = 0x11 then 0x11 else 0x08

/-- Flag `f` takes an error status of a command of the clause at `clause`. One that carries a status already, of another
command of the clause or of this one's crossing of a limit, holds one still, and R42 says only that no crossing is lost: the
masks of two crossings are joined, of a fault and a crossing the flag keeps the fault and the crossing is delivered as an
instruction's, of two faults the flag keeps the first (DESIGN CHOICE, log entry 31). -/
def Warp.flagStatus (w : Warp) (f : Nat) (e : FlagErr) (clause : DWord) : Warp :=
  match w.ferr.get? f with
  | none => { w with ferr := w.ferr.put f e }
  | some old =>
    if old.code = 0x0A ∧ e.code = 0x0A then { w with ferr := w.ferr.put f { old with cause := old.cause ||| e.cause } }
    else if e.code = 0x0A then w.cross e.cause clause
    else if old.code = 0x0A then ({ w with ferr := w.ferr.put f e } : Warp).cross old.cause clause
    else w

/-- The command's SETB flag takes an error status and clears at that moment (R110). With no flag the status is kept for the
warp's end (R111), under number 12 (DEDUCED, log entry 31; DEDUCED, log entry 43). -/
def State.flagError (s : State) (c : Cmd) (e : FlagErr) : State :=
  let f := c.setB.getD 12
  let s := s.updWarp c.wid fun w => w.flagStatus f e (c.clause.zeroExtend 64)
  if c.setB.isSome then s.loosen c.wid f else s

def State.dropLock (s : State) (id : Nat) (c : Cmd) : State :=
  s.updCore c.core fun k => { k with locks := k.locks.filter fun l => !(l.cmd == id && l.owner != .multicast) }

/-- The command is no longer there. -/
def State.dropCmd (s : State) (id : Nat) : State := { s with cmds := s.cmds.erase id }

/-- Its registers are written and its flags may clear; its range-lock entry clears (R111, R179). -/
def State.clearCmd (s : State) (id : Nat) (c : Cmd) : State :=
  let s := (s.dropOp c.wid id).dropLock id c
  let s := s.updCmd id fun x => { x with st := .finishing, srcPending := false }
  (s.settleOpt c.wid c.setA).settleOpt c.wid c.setB

/-- The event record without its TIME (Table 7.4). -/
def Cmd.record (c : Cmd) (cause : BitVec 8) : List Byte :=
  [2, BitVec.ofNat 8 (cmdOpc c.ins), cause, cmdTag c.ins] ++ toBytes 2 c.lcore ++ [BitVec.ofNat 8 c.windex, 0]
    ++ toBytes 4 c.grid

/-- Step 5: the event record joins the queue of those waiting to be written (R355); with none the command is over. -/
def State.tailCmd (s : State) (id : Nat) (c : Cmd) (cause : BitVec 8) : State :=
  if cmdEq c.ins then s.updCtx c.cid fun x => { x with evq := x.evq ++ [⟨c.record cause, some id, none⟩] }
  else s.dropCmd id

/-- Steps 2 to 5 for a command whose writes have been performed, with the events it counts. Its ring release, of .blk scope,
comes after everything older, which was performed before the command's first access (R178, R319). -/
def State.finishCmd (s : State) (id : Nat) (counts : Events) : State :=
  match s.cmds.get? id with
  | none => s
  | some c =>
    let (s, mask) := s.countEvents c.core c.cid counts
    if (s.cmds.get? id).isNone then s
    else
      let s := if mask = 0 then s else s.flagError c ⟨0x0A, mask, 0, 0⟩
      let s := s.clearCmd id c
      let s := match ringOf c.ins with
        | some r => s.ringRelease c.blk r c.consumer
        | none => s
      let cause : BitVec 8 := if mask = 0 then 0 else 0x0A
      let sent := s.nextId
      let s := s.updCmd id fun x => { x with cut := some sent }
      if c.signalDue then s.updCmd id fun x => { x with crossed := mask.truncate 4 } else s.tailCmd id c cause

/-- The command stops with a fault (R180): counted events are added, a limit crossed by them falls due at a run
boundary (R42) (DEDUCED, log entry 31). An uncorrectable error terminates the context (R389). -/
def State.failCmd (s : State) (id : Nat) (f : AccFault) (counts : Events) : State :=
  match s.cmds.get? id with
  | none => s
  | some c =>
    let (s, mask) := (s.noteFault f).countEvents c.core c.cid counts
    if (s.cmds.get? id).isNone then s
    else if f.cause = 0x10 then s.terminate c.cid 0x10
    else
      let s := s.updWarp c.wid fun w => w.cross mask (c.clause.zeroExtend 64)
      let s := s.flagError c ⟨faultCode f.cause, f.cause, f.reason, f.addr⟩
      (s.clearCmd id c).tailCmd id c f.cause

end Sys2Proof.Machine
end

