-- ==== Sys2Proof/Machine/Shape.lean ====
section
/-! DEFINITION. CPY and CPYM: the shape record and its validity (R183, R184), the walk (R186, R187), the conversion of an
element (R185), the bounding ranges (R189). -/

namespace Sys2Proof.Machine

/-! ## The shape record (Tables 7.6, 7.7) -/

/-- A shape record as its 24 words. -/
abbrev Shape := List DWord

def Shape.ctrl (r : Shape) (lo n : Nat) : Nat := ((r.getD 2 0).extractLsb' lo n).toNat
def Shape.sbase (r : Shape) : DWord := r.getD 0 0
def Shape.dbase (r : Shape) : DWord := r.getD 1 0
def Shape.scbase (r : Shape) : DWord := r.getD 3 0
def Shape.n (r : Shape) (j : Nat) : Nat := ((r.getD (4 + j / 2) 0).extractLsb' (32 * (j % 2)) 32).toNat
def Shape.s (r : Shape) (j : Nat) : Int := (r.getD (8 + j) 0).toInt
def Shape.d (r : Shape) (j : Nat) : Int := (r.getD (16 + j) 0).toInt
def Shape.mcast (r : Shape) : Nat := r.ctrl 48 16
def Shape.srcTile (r : Shape) : Bool := r.ctrl 42 2 == 1
def Shape.dstTile (r : Shape) : Bool := r.ctrl 40 2 == 1
def Shape.code (r : Shape) : Nat := r.ctrl 32 8
def Shape.cven (r : Shape) : Bool := r.ctrl 31 1 == 1
def Shape.scm (r : Shape) : Nat := r.ctrl 29 2
def Shape.sb0 (r : Shape) : Nat := 8 * 2 ^ r.ctrl 27 2
def Shape.esz (r : Shape) : Nat := r.ctrl 24 3
def Shape.rank (r : Shape) : Nat := r.ctrl 21 3 + 1
def Shape.perm (r : Shape) (j : Nat) : Nat := r.ctrl (3 * j) 3

/-- Source and destination sizes of a conversion code in bits (Table 2.6). -/
def codeBits (code : Nat) : Nat × Nat :=
  match code with
  | 0x04 | 0x06 => (32, 16)
  | 0x05 | 0x07 => (16, 32)
  | 0x08 | 0x0A | 0x11 => (32, 8)
  | 0x09 | 0x0B | 0x13 => (8, 32)
  | 0x0C | 0x12 => (32, 4)
  | 0x0D => (4, 32)
  | _ => (32, 32)

/-- Element sizes of the two sides in bits. -/
def Shape.bits (r : Shape) : Nat × Nat := if r.cven then codeBits r.code else (8 * 2 ^ r.esz, 8 * 2 ^ r.esz)
def Shape.srcBytes (r : Shape) : Nat := Nat.max 1 (r.bits.1 / 8)
def Shape.dstBytes (r : Shape) : Nat := Nat.max 1 (r.bits.2 / 8)

/-- PERM is a permutation below the rank and the identity above. -/
def Shape.permOk (r : Shape) : Bool :=
  (List.range r.rank).all (fun j => decide (r.perm j < r.rank)
      && (List.range j).all fun i => r.perm i != r.perm j)
    && (List.range 7).all fun j => decide (j < r.rank) || r.perm j == j

/-- Invalid by R184, apart from what depends on the command. -/
def Shape.bad (r : Shape) : Bool :=
  let all7 := fun (f : Nat → Bool) => (List.range 7).all f
  let inRange := fun (x : Int) => decide (-(2 ^ 47 : Int) ≤ x) && decide (x ≤ 2 ^ 47 - 1)
  let sN := r.srcBytes
  let dN := r.dstBytes
  let s4 := r.bits.1 == 4
  let d4 := r.bits.2 == 4
  r.ctrl 44 4 != 0 || decide (2 ≤ r.ctrl 42 2) || decide (2 ≤ r.ctrl 40 2) || r.scm == 3 || r.ctrl 21 3 == 7
    || (r.getD 7 0) >>> 32 != 0 || r.getD 15 0 != 0 || r.getD 23 0 != 0
    || !r.permOk
    || !all7 (fun j => decide (1 ≤ r.n j) && (decide (j < r.rank) || r.n j == 1))
    || !all7 (fun j => decide (j < r.rank) || (r.s j == 0 && r.d j == 0))
    || !all7 (fun j => inRange (r.s j) && inRange (r.d j))
    || (!r.cven && (r.code != 0 || r.scm != 0))
    || (r.cven && r.esz != 0) || decide (5 ≤ r.esz)
    || (r.scm == 0 && r.scbase != 0)
    || r.code == 0x0E || r.code == 0x0F || r.code == 0x10 || decide (0x13 < r.code)
    || (r.scm == 1 && !([0x08, 0x0A, 0x0C, 0x11, 0x12] : List Nat).contains r.code)
    || (r.scm == 2 && !([0x09, 0x0B, 0x0D, 0x13] : List Nat).contains r.code)
    || (s4 && r.s 0 != 0) || (d4 && r.d 0 != 0)
    || (d4 && (r.perm 0 != 0 || r.n 0 % 2 != 0))
    || r.sbase.toNat % sN != 0 || r.dbase.toNat % dN != 0
    || !all7 (fun j => (s4 && j == 0) || r.s j % (sN : Int) == 0)
    || !all7 (fun j => (d4 && j == 0) || r.d j % (dN : Int) == 0)

/-- Invalid for CPY (`gang` none) or for CPYM in a gang of the size given. -/
def Shape.invalid (r : Shape) (gang : Option Nat) : Bool :=
  r.bad || match gang with
    | none => r.mcast != 0
    | some n => r.mcast == 0 || !r.dstTile || decide (2 ^ n ≤ r.mcast)

/-! ## The walk -/

/-- Index tuples of the extents, the first index fastest. -/
def tuples : List Nat → List (List Nat)
  | [] => [[]]
  | n :: ns => (tuples ns).flatMap fun t => (List.range n).map fun i => i :: t

/-- `lo`, `lo + step`, … below `hi`. -/
def stepsFrom (hi step : Nat) : List Nat := (List.range (ceilDiv hi step)).map (· * step)

/-- A list in twos. -/
def inPairs {α : Type} : List α → List (List α)
  | a :: b :: l => [a, b] :: inPairs l
  | [] => []
  | [a] => [[a]]

/-- The passes of the walk: the elements in the order a pass reads them, and its writes in order, each with the elements it
carries. Without the tile buffer each write is a pass of its own (R186), a 4-bit destination's the pair of elements that
fills a byte (R184): both are read before the byte is written, and of a fault of the second one's read and one of the byte's
write the read's is reported (DESIGN CHOICE, log entry 76). With the buffer a pass fills it and drains it (R187). -/
def Shape.passes (r : Shape) : List (List (List Nat) × List (List (List Nat))) :=
  let q := r.perm 0
  let ns := (List.range 7).map r.n
  if q = 0 then
    (if r.bits.2 = 4 then inPairs (tuples ns) else (tuples ns).map fun e => [e]).map fun g => (g, [g])
  else
    let others := ns.zipIdx.map fun x => if x.2 = 0 ∨ x.2 = q then 1 else x.1
    (tuples others).flatMap fun t =>
      (stepsFrom (r.n 0) 16).flatMap fun b0 => (stepsFrom (r.n q) 64).map fun bq =>
        let i0s := ((List.range 16).map (b0 + ·)).filter fun i => decide (i < r.n 0)
        let iqs := ((List.range 64).map (bq + ·)).filter fun i => decide (i < r.n q)
        (iqs.flatMap fun iq => i0s.map fun i0 => (t.set 0 i0).set q iq,
          i0s.flatMap fun i0 => iqs.map fun iq => [(t.set 0 i0).set q iq])

/-- The writes of the walk in write order, each with the elements it carries. -/
def Shape.order (r : Shape) : List (List (List Nat)) := r.passes.flatMap (·.2)

/-- Σ i[j] × stride j, with a packed 4-bit side's nibbles two to a byte. -/
def dot7 (i : Nat → Nat) (st : Nat → Int) : Int := (List.range 7).foldl (fun a j => a + (i j : Int) * st j) 0

def Shape.srcAddr (r : Shape) (e : List Nat) : Int :=
  (r.sbase.toNat : Int) + dot7 (fun j => e.getD j 0) r.s + (if r.bits.1 = 4 then (e.getD 0 0 / 2 : Nat) else 0)

def Shape.dstAddr (r : Shape) (e : List Nat) : Int :=
  (r.dbase.toNat : Int) + dot7 (fun j => e.getD (r.perm j) 0) r.d + (if r.bits.2 = 4 then (e.getD 0 0 / 2 : Nat) else 0)

/-- Flat index over source dimensions 1 to 6, i1 fastest. -/
def Shape.flat (r : Shape) (e : List Nat) : Nat :=
  (List.range 6).foldr (fun j a => a * r.n (j + 1) + e.getD (j + 1) 0) 0

def Shape.scaleAddr (r : Shape) (e : List Nat) : Int :=
  (r.scbase.toNat : Int) + (r.flat e * ceilDiv (r.n 0) r.sb0 + e.getD 0 0 / r.sb0 : Nat)

/-- Lowest and highest byte a side's walk reaches (R189). -/
def sideRange (base : Int) (ext : Nat → Nat) (st : Nat → Int) (bits : Nat) : Int × Int :=
  let reach := fun (j : Nat) => if bits = 4 ∧ j = 0 then (((ext 0 - 1) / 2 : Nat) : Int) else ((ext j - 1 : Nat) : Int) * st j
  let xs := (List.range 7).map reach
  (xs.foldl (fun a x => if x < 0 then a + x else a) base,
    xs.foldl (fun a x => if 0 < x then a + x else a) base + (Nat.max 1 (bits / 8) : Nat) - 1)

def Shape.srcRange (r : Shape) : Int × Int := sideRange r.sbase.toNat r.n r.s r.bits.1
def Shape.dstRange (r : Shape) : Int × Int := sideRange r.dbase.toNat (fun j => r.n (r.perm j)) r.d r.bits.2
def Shape.scaleRange (r : Shape) : Int × Int :=
  (r.scbase.toNat, r.scaleAddr ((List.range 7).map fun j => r.n j - 1))

/-- The copy's range-lock ranges (R189): the destination of a CPYM only if the issuing block is a target. The spec numbers the
ranges of the matrix engine alone; here the source is range 0, the scales 1, the destination 2
(DESIGN CHOICE, log entry 26). -/
def Shape.ranges (r : Shape) (ownTarget : Bool) : List LockRange :=
  let mk := fun (i : Nat) (tile dst : Bool) (p : Int × Int) =>
    (⟨i, if tile then .tile else .global, dst, p.1.toNat, p.2.toNat⟩ : LockRange)
  [mk 0 r.srcTile false r.srcRange] ++ (if r.scm = 0 then [] else [mk 1 false false r.scaleRange])
    ++ (if ownTarget then [mk 2 r.dstTile true r.dstRange] else [])

/-- A tile side lies within an allocation of `size` bytes (R186): the first address that does not. -/
def Shape.outside (r : Shape) (size : Nat) : Option Int :=
  let out := fun (tile : Bool) (p : Int × Int) => tile && (decide (p.1 < 0) || decide ((size : Int) ≤ p.2))
  if out r.srcTile r.srcRange then some r.srcRange.1
  else if out r.dstTile r.dstRange then some r.dstRange.1
  else none

/-! ## Elements -/

/-- One write of the walk: its number, address and bytes, whether these are unspecified (R188), and how many of its elements
saturated or were NaNs. -/
structure Put where
  num : Nat
  addr : Int
  bytes : List Byte
  vague : Bool
  sat : Nat
  nan : Nat
  deriving DecidableEq, Repr

/-- Conversion of an element read as `x` under scale byte `e` (R185). -/
def Shape.convert (r : Shape) (x : Nat) (e : BitVec 8) : Nat × Bool × Bool :=
  let out := fun (c : Conv) => (c.res.toNat, c.sat, c.nan)
  let src := fun (f : Nat) => denseVal f x
  if !r.cven then (x, false, false)
  else if r.scm = 1 then out (scaledNarrow false r.code e (f32Val (BitVec.ofNat 32 x)) false)
  else if r.scm = 2 then
    out (scaledWide false e (src (match r.code with
      | 0x09 => 0x04
      | 0x0B => 0x05
      | 0x0D => 0x06
      | _ => 0x01)) false)
  else out (Sys2Proof.Machine.convert Flush.none 0 .rne (BitVec.ofNat 6 r.code) (BitVec.ofNat 32 x))

/-- The places of an element's source bytes, its scale byte among them (R189). -/
def State.sourcesOf (s : State) (c : Cmd) (r : Shape) (e : List Nat) : List (Nat × Nat) :=
  s.placesOf c r.srcTile (r.srcAddr e) r.srcBytes ++ (if r.scm = 0 then [] else s.placesOf c false (r.scaleAddr e) 1)

/-- The places of the writes of the walk, in write order. -/
def State.putPlaces (s : State) (c : Cmd) (r : Shape) : List (List (Nat × Nat)) :=
  r.order.map fun g => s.placesOf c r.dstTile (r.dstAddr (g.headD [])) r.dstBytes

/-- The bytes that the command writes, of those between its lowest and its highest source byte. -/
def State.ownWrites (s : State) (c : Cmd) (r : Shape) : List (Nat × Nat) :=
  let src := r.order.flatten.flatMap (s.sourcesOf c r)
  let lo := src.foldl (fun m x => Nat.min m x.1) ((src.headD (0, 0)).1)
  let hi := src.foldl (fun m x => Nat.max m (x.1 + x.2)) 0
  ((s.putPlaces c r).flatten.filter fun d => decide (d.1 < hi) && decide (lo < d.1 + d.2)).eraseDups

/-- One element read and converted, with its SAT and NAN events, or the fault of its reads. -/
def State.readElem (s : State) (c : Cmd) (r : Shape) (e : List Nat) : Except AccFault (Nat × Bool × Bool) :=
  match s.spaceRead c (if r.srcTile then .tile else .global) 0 (r.srcAddr e) r.srcBytes with
  | .error f => .error f
  | .ok bs =>
    let x := if r.bits.1 = 4 then ofBytes bs / 16 ^ (e.getD 0 0 % 2) % 16 else ofBytes bs
    match if r.scm = 0 then .ok [0x7F] else s.spaceRead c .global 0 (r.scaleAddr e) 1 with
    | .error f => .error f
    | .ok sc => .ok (r.convert x (sc.headD 0x7F))

/-- What reading the elements leaves in the caches (R21). -/
def State.noteElems (s : State) (c : Cmd) (r : Shape) (es : List (List Nat)) : State :=
  es.foldl (fun s e =>
    let s := s.noteSpace c (if r.srcTile then .tile else .global) (r.srcAddr e) r.srcBytes
    if r.scm = 0 then s else s.noteSpace c .global (r.scaleAddr e) 1) s

/-- Write number `k` of the walk: its elements `es` read and converted, an element whose source is among the bytes `own`
that the command writes having an unspecified value (R188), or the fault of its accesses. -/
def State.copyWrite (s : State) (c : Cmd) (r : Shape) (own : List (Nat × Nat)) (k : Nat) (es : List (List Nat)) :
    Except AccFault Put :=
  let d := r.dstAddr (es.headD [])
  match es.mapM (s.readElem c r) with
  | .error f => .error f
  | .ok ys =>
    match if r.dstTile then .ok [] else s.ctxSegments c.core c.cid .write (BitVec.ofInt 64 d) r.dstBytes with
    | .error f => .error f
    | .ok _ =>
      let vals := (ys.zip es).zipIdx.map fun y =>
        if meet (s.sourcesOf c r y.1.2) own then
          (s.free (12000000 + 4 * k + 2 * y.2)).toNat + 2 ^ 64 * (s.free (12000001 + 4 * k + 2 * y.2)).toNat
        else y.1.1.1
      let bytes := if r.bits.2 = 4 then toBytes 1 (vals.getD 0 0 % 16 + 16 * (vals.getD 1 0 % 16))
        else toBytes r.dstBytes (vals.getD 0 0)
      .ok ⟨k, d, bytes, es.all fun e => meet (s.sourcesOf c r e) own, (ys.filter (·.2.1)).length, (ys.filter (·.2.2)).length⟩

/-- The issuing block is written by the copy: always by CPY, by CPYM if its own rank bit is set (R189). -/
def State.ownTarget (s : State) (c : Cmd) (r : Shape) : Bool :=
  r.mcast == 0 || ((s.blocks.get? c.blk).map fun b => r.mcast.testBit b.rank).getD false

/-- The passes with their writes numbered from `k` on. -/
def numberWrites {α β : Type} : (k : Nat) → List (α × List β) → List (α × List (Nat × β))
  | _, [] => []
  | k, p :: l => (p.1, p.2.zipIdx.map fun x => (k + x.2, x.1)) :: numberWrites (k + p.2.length) l

/-- What comes before the first error of a list, and that error. -/
def untilError {ε α : Type} : List (Except ε α) → List α × Option ε
  | [] => ([], none)
  | .error e :: _ => ([], some e)
  | .ok a :: l => ((a :: (untilError l).1), (untilError l).2)

/-- The walk, but for the writes that have been made already (R186, R187): the writes before its first fault, a pass reading
all its elements before it writes any, that fault, and every write whose accesses go through. -/
def State.copyWalk (s : State) (c : Cmd) (r : Shape) : List Put × Option AccFault × List Put :=
  let own := if s.ownTarget c r then s.ownWrites c r else []
  let write := fun (x : Nat × List (List Nat)) => s.copyWrite c r own x.1 x.2
  let passes := (numberWrites 0 r.passes).map fun p => (p.1, p.2.filter fun x => !c.moved.contains x.1)
  let all := passes.flatMap fun p => p.2.filterMap fun x => (write x).toOption
  let run := passes.foldl (fun (acc : List Put × Option AccFault) p =>
    if acc.2.isSome then acc
    else
      let left := p.1.filter fun e => p.2.any fun x => x.2.contains e
      match (untilError (left.map (s.readElem c r))).2 with
      | some f => (acc.1, some f)
      | none => let w := untilError (p.2.map write); (acc.1 ++ w.1, w.2)) ([], none)
  (run.1, run.2, all)

/-- Write `k` may be made: it has not been, and every write before it to one of its bytes has (R188). -/
def State.mayMove (s : State) (c : Cmd) (r : Shape) (k : Nat) : Bool :=
  let ds := s.putPlaces c r
  decide (k < ds.length) && !c.moved.contains k && (List.range k).all fun j =>
    c.moved.contains j || !meet (ds.getD j []) (ds.getD k [])

/-- The bytes of a write that no later write of the walk writes too, by their place in it: the others the complete command
would not leave with its values (R180, R188, R327). -/
def State.lasting (s : State) (c : Cmd) (r : Shape) (p : Put) : List Nat :=
  let later := ((s.putPlaces c r).drop (p.num + 1)).flatten
  (List.range p.bytes.length).filter fun i => !meet (s.placesOf c r.dstTile (p.addr + (i : Int)) 1) later

/-- Events of elements delivered (R185): SATCNT and NANCNT. -/
def putEvents (ps : List Put) : Events :=
  [ps.foldl (fun n p => n + p.sat) 0, 0, ps.foldl (fun n p => n + p.nan) 0, 0]

/-- Make a write, or some bytes of it, in the space of the command's block. -/
def State.putBytes (s : State) (c : Cmd) (tile : Bool) (a : Int) (bs : List Byte) (vague : Bool) : State :=
  match s.spaceWrite c (if tile then .tile else .global) 0 a bs with
  | .error _ => s
  | .ok t => if vague then t.blurPlaces c.blk (t.placesOf c tile a bs.length) else t

def State.putElem (s : State) (c : Cmd) (r : Shape) (p : Put) : State := s.putBytes c r.dstTile p.addr p.bytes p.vague

/-- The bytes of a write that last, each made or not as a free value says where `all` does not hold; all of them together are
one write. -/
def State.putSome (s : State) (c : Cmd) (r : Shape) (all : Bool) (p : Put) : State :=
  let made := (s.lasting c r p).filter fun i => all || s.freeBool (13000000 + 16 * p.num + i)
  if made.length = p.bytes.length then s.putElem c r p
  else made.foldl (fun t (i : Nat) => t.putBytes c r.dstTile (p.addr + (i : Int)) ((p.bytes.drop i).take 1) p.vague) s

/-- CPY (R190): the state with the writes left to make, their events, its fault. After a fault each byte is the old one or
the one that the complete command would have left (R180). -/
def State.runCopy (s : State) (c : Cmd) (r : Shape) : State × Events × Option AccFault :=
  let s := s.noteElems c r (r.order.flatten)
  match s.copyWalk c r with
  | (done, none, _) => (done.foldl (fun t p => t.putElem c r p) s, putEvents done, none)
  | (done, some f, all) => (all.foldl (fun t p => t.putSome c r false p) s, putEvents done, some f)

/-- One write of a CPY is made, in any order but for those of the same bytes; a byte that a later write of the walk writes
too is left to that one, since another core finds it old or as the command leaves it (R178, R327) (DESIGN CHOICE, log entry
25). -/
def State.moveElem (s : State) (c : Cmd) (r : Shape) (k : Nat) : Option (State × Events) :=
  let es := r.order.getD k []
  if !s.mayMove c r k then none
  else match s.copyWrite c r (s.ownWrites c r) k es with
    | .error _ => none
    | .ok p => some ((s.noteElems c r es).putSome c r true p, putEvents [p])

/-! ## CPYM (R191 to R193) -/

/-- The block of the issuing block's gang with rank `g`. -/
def State.gangBlock? (s : State) (c : Cmd) (g : Nat) : Option Nat :=
  match s.blocks.get? c.blk with
  | none => none
  | some b => (s.blocks.find? fun e => e.2.cid == b.cid && e.2.grid == b.grid && e.2.gang == b.gang && e.2.rank == g).map
      (·.1)

/-- What the one walk of a CPYM writes, as tile offsets and bytes, none for an unspecified one; of bytes written twice the
later one (R188). -/
def walkedBytes (ps : List Put) : List (Nat × Option Byte) :=
  ps.foldl (fun m p =>
    (m.filter fun e => !(decide (p.addr.toNat ≤ e.1) && decide (e.1 < p.addr.toNat + p.bytes.length)))
      ++ p.bytes.zipIdx.map fun b => (p.addr.toNat + b.2, if p.vague then none else some b.1)) []

/-- The writes of a CPYM that meets a fault, each without the bytes that a later write of the walk writes too (R180). -/
def State.lastingPuts (s : State) (c : Cmd) (r : Shape) (ps : List Put) : List Put :=
  ps.flatMap fun p => (s.lasting c r p).map fun (i : Nat) =>
    { p with addr := p.addr + (i : Int), bytes := (p.bytes.drop i).take 1 }

end Sys2Proof.Machine
end

