-- ==== Sys2Proof/Machine/Encode.lean ====
section
/-! DEFINITION. ENC and DECT (R194 to R197): accumulator rows to term-list records and term-list records to dense rows,
with the overflow allocation of R100 and the scales of R195. -/

namespace Sys2Proof.Machine

/-- A region as the tile literal and the origins give it: rows and chunks, and the four uniform registers. -/
structure Region where
  src : Tensor
  dst : Tensor
  rows : Nat
  chunks : Nat
  o0 : Nat
  o1 : Nat
  o2 : Nat
  o3 : Nat
  deriving DecidableEq, Repr

def regionOf (c : Cmd) (o : CTile) : Region :=
  ⟨tensorOf c.tft o.src.toNat, tensorOf c.tft o.dst.toNat, o.rowsm1.toNat + 1, o.chm1.toNat + 1, (c.ops.getD 0 0).toNat,
    (c.ops.getD 1 0).toNat, (c.ops.getD 2 0).toNat, (c.ops.getD 3 0).toNat⟩

/-- CeilLog2 of n / d (R9). -/
def ceilLog2 (n d : Nat) : Int :=
  let k := floorLog2 n d
  let (a, b) := scaleRatio n d (-k)
  if a = b then k else k + 1

/-- Banks of the block's `.acc` allocation. -/
def State.cmdBanks (s : State) (c : Cmd) : Nat := ((s.grid? c.cid c.grid).map (·.kernel.acc)).getD 0
/-- Tile bytes of the block. -/
def State.cmdTile (s : State) (c : Cmd) : Nat := ((s.grid? c.cid c.grid).map fun g => g.kernel.tileBytes).getD 0

/-- Largest finite value of a term list's source format (R195), as a ratio. -/
def fmtMax (f : Nat) : Nat :=
  match f with
  | 0x04 => 448
  | 0x05 => 57344
  | 0x06 => 6
  | 0x08 => 255 * 2 ^ 120
  | _ => 127

/-! ## ENC -/

/-- Region of the destination along dimension 0, up to DIM0. -/
def Region.lo0 (r : Region) : Nat := 16 * r.o3
def Region.hi0 (r : Region) : Nat := Nat.min (16 * (r.o3 + r.chunks)) (r.dst.dim 0)

/-- The region covers every scale block it touches (R195). -/
def Region.covers (r : Region) : Bool :=
  if r.dst.sblk = 7 then
    r.o2 == 0 && r.rows == r.dst.rows && r.o3 == 0 && r.chunks == ceilDiv (r.dst.dim 0) 16
  else
    let b0 := (scaleBlock r.dst.sblk).1
    decide (r.lo0 % b0 = 0) && (r.hi0 % b0 == 0 || r.hi0 == r.dst.dim 0)

def Region.encValid (r : Region) : Bool :=
  r.src.space == .acc && isTerms r.dst.fmt
    && decide (r.o0 + r.rows ≤ 64) && r.o1 % 16 == 0 && decide (r.o1 + 16 * r.chunks ≤ 512)
    && decide (r.o2 + r.rows ≤ r.dst.rows) && decide (r.o3 + r.chunks ≤ ceilDiv (r.dst.dim 0) 16)
    && (!r.dst.scaled || r.covers)

def minOf (l : List Nat) : Nat := l.foldl Nat.min (l.headD 0)
def maxOf (l : List Nat) : Nat := l.foldl Nat.max 0

def mkRange (i : Nat) (t : Tensor) (dst : Bool) (lo hi : Nat) : LockRange := ⟨i, t.space, dst, lo, hi⟩

/-- Bounding bytes of the record slots of rows f0.. and chunks c0... -/
def slotRange (t : Tensor) (f0 rows c0 chunks : Nat) : Nat × Nat :=
  let as := (List.range rows).map fun r => t.rowAddr (f0 + r)
  (minOf as + c0 * t.slot, maxOf as + (c0 + chunks) * t.slot - 1)

def scaleSpan (t : Tensor) (f0 rows i0 i1 : Nat) : Nat × Nat :=
  let as := (List.range rows).flatMap fun r => [t.sbase + t.scaleIndex i0 (f0 + r), t.sbase + t.scaleIndex i1 (f0 + r)]
  (minOf as, maxOf as)

def overflowArea (t : Tensor) : Nat × Nat := (t.base + 16 * t.ovoff, t.base + 16 * (t.ovoff + t.ovcap) - 1)

/-- The ranges of an ENC (R196): the spec numbers the ranges of the matrix engine alone; here the bank's rows are range 0, the
slots 1, the scales 2, the overflow area 3 (DESIGN CHOICE, log entry 26). -/
def Region.encRanges (r : Region) : List LockRange :=
  let sl := slotRange r.dst r.o2 r.rows r.o3 r.chunks
  let sc := scaleSpan r.dst r.o2 r.rows r.lo0 (Nat.max r.lo0 (r.hi0 - 1))
  let ov := overflowArea r.dst
  [⟨0, .acc, false, r.src.base, r.src.base⟩, mkRange 1 r.dst true sl.1 sl.2]
    ++ (if r.dst.scaled then [mkRange 2 r.dst true sc.1 sc.2] else [])
    ++ (if r.dst.oa && decide (1 ≤ r.dst.ovcap) then [mkRange 3 r.dst true ov.1 ov.2] else [])

/-- A tile range outside the block's allocation. -/
def rangeOutside (size : Nat) (l : List LockRange) : Option Nat :=
  (l.find? fun x => x.space == .tile && decide (size ≤ x.hi)).map (·.lo)

/-- Checks and ranges of an ENC: 0x12 first, then 0x06 (R194). -/
def State.checkEnc (s : State) (c : Cmd) (o : CTile) : Except AccFault (List LockRange) :=
  let r := regionOf c o
  if !(r.src.sound c.tft && r.dst.sound c.tft && r.encValid) then .error (cause 0x12)
  else if s.cmdBanks c ≤ r.src.base then .error (cause 0x06)
  else match rangeOutside (s.cmdTile c) (r.encRanges.filter fun x => x.idx != 3) with
    | some a => .error ⟨6, 0, BitVec.ofNat 64 a, none⟩
    | none => .ok r.encRanges

/-- Source element for destination position i0 of region row k: none at or above DIM0 (R194). ENC reads the accumulator
element's own value: a scale that the source entry names besides is not applied (DEDUCED, log entry 29). -/
def State.encSource (s : State) (c : Cmd) (r : Region) (k i0 : Nat) : Option Val :=
  if r.dst.dim 0 ≤ i0 then none
  else some (denseVal r.src.fmt (s.accWord c.blk r.src.base (512 * (r.o0 + k) + r.o1 + (i0 - r.lo0))).toNat)

/-- The scale of the elements given (R195). -/
def encScale (f : Nat) (vs : List Val) : BitVec 8 :=
  let mags := vs.filterMap fun v => match v with
    | .fin _ n d => if n = 0 then none else some (n, d)
    | _ => none
  match mags with
  | [] => 0x7F
  | m :: ms =>
    let (n, d) := ms.foldl (fun (a : Nat × Nat) b => if a.1 * b.2 < b.1 * a.2 then b else a) m
    let e := 127 + ceilLog2 n (d * fmtMax f)
    if e < 0 then 0 else if 254 < e then 254 else BitVec.ofNat 8 e.toNat

/-- The scale of the block that holds position i0 of region row k. -/
def State.encScaleAt (s : State) (c : Cmd) (r : Region) (k i0 : Nat) : BitVec 8 :=
  let f := sourceFmt r.dst.fmt
  if !r.dst.scaled then 0x7F
  else if r.dst.sblk = 7 then
    encScale f ((List.range r.rows).flatMap fun j => (List.range (r.dst.dim 0)).filterMap (s.encSource c r j))
  else
    let b0 := (scaleBlock r.dst.sblk).1
    encScale f (((List.range b0).map (i0 / b0 * b0 + ·)).filterMap (s.encSource c r k))

/-- AllocUnits (R100). -/
def State.allocUnits (s : State) (c : Cmd) (t : Tensor) (u : Nat) : Except AccFault (State × Nat) :=
  let va := s.tftVa c.cid t.num + 56
  if !t.oa then .error (cause 0x11)
  else match s.ctxRead c.core c.cid va 4 with
    | .error f => .error f
    | .ok bs =>
      let cur := ofBytes bs
      if t.ovcap < cur + u then .error (cause 0x11)
      else match s.ctxWrite c.core c.cid va (toBytes 4 (cur + u)) with
        | .error f => .error f
        | .ok t => .ok (t, cur)

/-- What ENC writes for a record: slot, overflow bytes in whole units, and its events. -/
def State.encBytes (s : State) (c : Cmd) (r : Region) (k ch : Nat) : List Byte × List Byte × Events :=
  let t := r.dst
  let els := (List.range 16).map fun i =>
    let i0 := 16 * (r.o3 + ch) + i
    match s.encSource c r k i0 with
    | none => ([], false, false)
    | some v => encElem (sourceFmt t.fmt) (s.encScaleAt c r k i0) t.scaled v
  let (slot, more, ftz, trunc) := packRecord t.slot (els.map (·.1))
  (slot, more, [(els.filter (·.2.1)).length, ftz, (els.filter (·.2.2)).length, trunc])

/-- Write the record whose overflow bytes, if there are any, begin at unit `cur`. The allocation stands if a write faults:
the device frees no units (R100). -/
def State.encPut (s : State) (c : Cmd) (r : Region) (k ch cur : Nat) : State × Events × Option AccFault :=
  let t := r.dst
  let (slot, more, ev) := s.encBytes c r k ch
  let spilt := if more.isEmpty then .ok s else s.spaceWrite c t.space 0 (t.base + 16 * (t.ovoff + cur) : Nat) more
  match spilt with
  | .error f => (s, [0, 0, 0, 0], some f)
  | .ok u =>
    let bytes := if more.isEmpty then slot else slot.take (t.slot - 4) ++ toBytes 4 cur
    match u.spaceWrite c t.space 0 (t.rowAddr (r.o2 + k) + (r.o3 + ch) * t.slot : Nat) bytes with
    | .error f => (u, [0, 0, 0, 0], some f)
    | .ok u => (u, ev, none)

/-- Write one record; `got` is where its overflow units begin, if it has them already. -/
def State.encRecord (c : Cmd) (r : Region) (got : Option Nat) (s : State) (k ch : Nat) : State × Events × Option AccFault :=
  let more := (s.encBytes c r k ch).2.1
  match got with
  | some cur => s.encPut c r k ch cur
  | none =>
    if more.isEmpty then s.encPut c r k ch 0
    else match s.allocUnits c r.dst (more.length / 16) with
      | .error f => (s, [0, 0, 0, 0], some f)
      | .ok (u, cur) => u.encPut c r k ch cur

/-- The scale bytes of the region (DEDUCED, log entry 29). -/
def State.encScales (s : State) (c : Cmd) (r : Region) : Except AccFault State :=
  if !r.dst.scaled then .ok s
  else
    let b0 := if r.dst.sblk = 7 then Nat.max 1 r.dst.rows * Nat.max 1 (r.dst.dim 0) else (scaleBlock r.dst.sblk).1
    let at_ := (List.range (if r.dst.sblk = 7 then 1 else r.rows)).flatMap fun k =>
      (stepsFrom (r.hi0 - r.lo0) b0).map fun x => (k, r.lo0 + x)
    at_.foldl (fun (acc : Except AccFault State) p => match acc with
      | .error f => .error f
      | .ok t => t.spaceWrite c r.dst.space 0 (r.dst.sbase + r.dst.scaleIndex p.2 (r.o2 + p.1) : Nat)
          [s.encScaleAt c r p.1 p.2]) (.ok s)

/-- Records of a region in record order (R196). -/
def Region.records (r : Region) : List (Nat × Nat) :=
  (List.range r.rows).flatMap fun k => (List.range r.chunks).map fun ch => (k, ch)

/-- Run `f` over records until one faults: the state, the events of the records done, the fault. -/
def overRecords (f : State → Nat → Nat → State × Events × Option AccFault) : List (Nat × Nat) → State → Events →
    State × Events × Option AccFault
  | [], s, ev => (s, ev, none)
  | (k, ch) :: l, s, ev =>
    match f s k ch with
    | (t, e, some x) => (t, ev.plus e, some x)
    | (t, e, none) => overRecords f l t (ev.plus e)

/-- The scales, before the first record (R195). -/
def State.firstScales (s : State) (c : Cmd) (r : Region) : Except AccFault State :=
  if c.moved.isEmpty then s.encScales c r else .ok s

/-- Records left to write or to decode. -/
def Region.left (r : Region) (c : Cmd) : List (Nat × Nat) := r.records.drop c.moved.length

/-- ENC: the records left to write, the first of which may have its overflow units already. -/
def State.runEnc (s : State) (c : Cmd) (o : CTile) : State × Events × Option AccFault :=
  let r := regionOf c o
  match s.firstScales c r with
  | .error f => (s, [0, 0, 0, 0], some f)
  | .ok t =>
    match r.left c with
    | [] => (t, [0, 0, 0, 0], none)
    | x :: l => match State.encRecord c r c.units t x.1 x.2 with
      | (u, ev, some f) => (u, ev, some f)
      | (u, ev, none) => overRecords (State.encRecord c r none) l u ev

/-- A record still to be written needs overflow units that it has not got. -/
def State.encAllocates (s : State) (c : Cmd) (o : CTile) : Bool :=
  let r := regionOf c o
  ((r.left c).drop (if c.units.isSome then 1 else 0)).any fun x => !(s.encBytes c r x.1 x.2).2.1.isEmpty

/-- The next record of an ENC is written; one that needs overflow units has got them before. -/
def State.moveEnc (s : State) (c : Cmd) (o : CTile) : Option (State × Events) :=
  let r := regionOf c o
  match r.left c, s.firstScales c r with
  | x :: _, .ok t =>
    if c.units.isNone && !(s.encBytes c r x.1 x.2).2.1.isEmpty then none
    else match t.encPut c r x.1 x.2 (c.units.getD 0) with
      | (u, ev, none) => some (u, ev)
      | _ => none
  | _, _ => none

/-- The units of the next record are allocated (R100). -/
def State.moveAlloc (s : State) (c : Cmd) (o : CTile) : Option (State × Nat) :=
  let r := regionOf c o
  match r.left c with
  | [] => none
  | x :: _ =>
    let more := (s.encBytes c r x.1 x.2).2.1
    if c.units.isSome || more.isEmpty then none else (s.allocUnits c r.dst (more.length / 16)).toOption

/-! ## DECT -/

/-- A region of source records that lies within the source; every written element within the destination (R197). No DECT
reaches an accumulator bank (R22): such a destination is not one of its role (DEDUCED, log entry 27). -/
def Region.dectValid (r : Region) : Bool :=
  isTerms r.src.fmt && r.dst.sfmt == 0 && [0x01, 0x04, 0x05, 0x08, 0x09].contains r.dst.fmt && r.dst.space != .acc
    && decide (r.o0 + r.rows ≤ r.src.rows) && decide (r.o1 + r.chunks ≤ ceilDiv (r.src.dim 0) 16)
    && decide (r.o2 + r.rows ≤ r.dst.rows)
    && decide (r.o3 + (Nat.min (16 * (r.o1 + r.chunks)) (r.src.dim 0) - 16 * r.o1) ≤ r.dst.dim 0)

/-- Address of a destination element. -/
def Tensor.elemAddr (t : Tensor) (f i0 : Nat) : Nat := t.rowAddr f + i0 * ((denseBits t.fmt).getD 8 / 8)

/-- The ranges of a DECT (R197), numbered as `Region.encRanges` says: the slots 0, the overflow area 1, the scales 2, the
destination 3 (DESIGN CHOICE, log entry 26). -/
def Region.dectRanges (r : Region) : List LockRange :=
  let n := Nat.min (16 * (r.o1 + r.chunks)) (r.src.dim 0) - 16 * r.o1
  let sl := slotRange r.src r.o0 r.rows r.o1 r.chunks
  let sc := scaleSpan r.src r.o0 r.rows (16 * r.o1) (16 * r.o1 + n - 1)
  let ov := overflowArea r.src
  let as := (List.range r.rows).map fun k => r.dst.elemAddr (r.o2 + k) r.o3
  let d := (minOf as, maxOf as + n * ((denseBits r.dst.fmt).getD 8 / 8) - 1)
  [mkRange 0 r.src false sl.1 sl.2]
    ++ (if r.src.oa && decide (1 ≤ r.src.ovcap) then [mkRange 1 r.src false ov.1 ov.2] else [])
    ++ (if r.src.scaled then [mkRange 2 r.src false sc.1 sc.2] else [])
    ++ [mkRange 3 r.dst true d.1 d.2]

def State.checkDect (s : State) (c : Cmd) (o : CTile) : Except AccFault (List LockRange) :=
  let r := regionOf c o
  if !(r.src.sound c.tft && r.dst.sound c.tft && r.dectValid) then .error (cause 0x12)
  else match rangeOutside (s.cmdTile c) (r.dectRanges.filter fun x => x.idx != 1) with
    | some a => .error ⟨6, 0, BitVec.ofNat 64 a, none⟩
    | none => .ok r.dectRanges

/-- A decoded element in the destination format. -/
def dectElem (f : Nat) (scale : BitVec 8) (ts : List Term) : Conv :=
  let v := if scale = 0xFF then Val.nan else Val.mul (termSum ts) (scaleVal scale)
  match floatFmt f with
  | some m => intoFloat Flush.none m .rne (if m = .e4m3 then .all else if m = .e5m2 then .finite else .ieee) v false
  | none => intoInt (-128) 127 8 .rne v false

/-- The byte at `a` belongs to an element of an earlier row of the region too (R92). -/
def Region.twice (r : Region) (k a : Nat) : Bool :=
  let n := Nat.min (16 * (r.o1 + r.chunks)) (r.src.dim 0) - 16 * r.o1
  (List.range k).any fun j =>
    let lo := r.dst.elemAddr (r.o2 + j) r.o3
    decide (lo ≤ a) && decide (a < lo + n * ((denseBits r.dst.fmt).getD 8 / 8))

/-- An element of region row `k` is written; a byte that another row's element is written to as well ends with either (R92)
(DESIGN CHOICE, log entry 69). -/
def State.dectPut (s : State) (c : Cmd) (r : Region) (k a : Nat) (bs : List Byte) : Except AccFault State :=
  match s.spaceWrite c r.dst.space 0 (a : Int) bs with
  | .error f => .error f
  | .ok t =>
    if !((List.range bs.length).any fun i => r.twice k (a + i)) then .ok t
    else .ok (bs.zipIdx.foldl (fun u b =>
      if r.twice k (a + b.2) && s.freeBool (24 * 10 ^ 12 + a + b.2) then u
      else (u.spaceWrite c r.dst.space 0 ((a + b.2 : Nat) : Int) [b.1]).toOption.getD u) s)

/-- One record is decoded. -/
def State.dectRecord (c : Cmd) (r : Region) (s : State) (k ch : Nat) : State × Events × Option AccFault :=
  let none_ : Events := [0, 0, 0, 0]
  match s.readRecord c r.src (r.o0 + k) (r.o1 + ch) with
  | .error f => (s, none_, some f)
  | .ok els =>
    (List.range 16).foldl (fun (acc : State × Events × Option AccFault) i =>
      let i0 := 16 * (r.o1 + ch) + i
      let (t, ev, fault) := acc
      if fault.isSome || decide (r.src.dim 0 ≤ i0) then acc
      else match t.scaleByte c r.src i0 (r.o0 + k) with
        | .error f => (t, ev, some f)
        | .ok e =>
          let t := if r.src.scaled then t.noteT c r.src (r.src.sbase + r.src.scaleIndex i0 (r.o0 + k)) 1 else t
          let v := dectElem r.dst.fmt e (els.getD i [])
          let n := (denseBits r.dst.fmt).getD 8 / 8
          match t.dectPut c r k (r.dst.elemAddr (r.o2 + k) (r.o3 + 16 * ch + i)) (toBytes n v.res.toNat) with
          | .error f => (t, ev, some f)
          | .ok t => (t, ev.plus [if v.sat then 1 else 0, 0, if v.nan then 1 else 0, 0], none))
      (s.noteRecord c r.src (r.o0 + k) (r.o1 + ch), none_, none)

/-- DECT: the records left to decode. -/
def State.runDect (s : State) (c : Cmd) (o : CTile) : State × Events × Option AccFault :=
  let r := regionOf c o
  overRecords (State.dectRecord c r) (r.left c) s [0, 0, 0, 0]

/-- The next record of a DECT is decoded. -/
def State.moveDect (s : State) (c : Cmd) (o : CTile) : Option (State × Events) :=
  let r := regionOf c o
  match r.left c with
  | [] => none
  | x :: _ => match State.dectRecord c r s x.1 x.2 with
    | (t, ev, none) => some (t, ev)
    | _ => none

end Sys2Proof.Machine
end

