-- ==== Sys2Proof/Machine/Plan.lean ====
section
/-! DEFINITION. The matrix engine's operation (10): what an MMA checks (R262 to R266, R275), its effective operands
(Table 10.3), the chunk step (R50 to R52), the term counts and the timing recurrence (R269, R270), the bound (R271). -/

namespace Sys2Proof.Machine

/-! ## The plan of an operation -/

/-- An MMA or MBOUND after its checks from entries, registers and the literal. -/
structure Plan where
  a : Tensor
  b : Tensor
  shape : Nat
  lat : Nat
  vside : Bool
  m0 : Nat
  n0 : Nat
  k0 : Nat
  /-- K and the N extent (R264, Table 10.3). -/
  kk : Nat
  next : Nat
  group : Nat
  depth : Nat
  latCycles : Nat
  /-- Projection entry, its d and the rank r; unused without a latent stage. -/
  proj : Tensor
  d : Nat
  r : Nat
  deriving DecidableEq, Repr

/-- (RowOff, ColOff) of the sub-arrays of a shape (Table 10.1). -/
def shapeOffs (shape : Nat) : List (Nat × Nat) :=
  match shape with
  | 0 => [(0, 0)]
  | 1 => [(0, 0), (0, 512), (0, 1024), (0, 1536)]
  | 2 => [(0, 0), (0, 512), (64, 0), (64, 512)]
  | _ => [(0, 0), (64, 0), (128, 0), (192, 0)]

def shapeRows (shape : Nat) : Nat := if shape = 2 then 128 else if shape = 3 then 256 else 64
def shapeCols (shape : Nat) : Nat := if shape = 1 then 2048 else if shape = 2 then 1024 else 512
def shapeBanks (shape : Nat) : Nat := if shape = 0 then 1 else 4

def groupOf (g : BitVec 2) : Nat := 8 * 2 ^ g.toNat
def depthOf (dc : BitVec 3) : Nat :=
  match dc.toNat with
  | 0 => 1
  | 1 => 2
  | 2 => 4
  | 3 => 8
  | _ => 15

def isIntFmt (f : Nat) : Bool := f == 0x01 || f == 0x03 || f == 0x13

def Plan.chunks (p : Plan) : Nat := ceilDiv p.kk 16
def Plan.intAcc (p : Plan) : Bool := p.lat == 0 && isIntFmt p.a.fmt && isIntFmt p.b.fmt && p.a.sfmt != 1 && p.b.sfmt != 1

/-- t_max (Table 2.10). -/
def tMax (f : Nat) : Nat :=
  match sourceFmt f with
  | 0x04 => 3
  | 0x05 | 0x06 | 0x03 => 2
  | 0x01 => 4
  | 0x08 => 5
  | _ => 6

/-- W of R271 with a given term maximum. -/
def Plan.boundWith (p : Plan) (t : Nat) : Nat := 20 + p.latCycles + p.chunks * (16 * t + 2)
def Plan.bound (p : Plan) : Nat := p.boundWith (tMax p.a.fmt)

/-- The projection an MMA with a latent stage uses: recorded entry and side (R275). -/
def projEntry (proj : Option Proj) : Nat := (proj.map (·.entry)).getD 256

/-- The format that enters the array as B (R262). -/
def arrayFmt (b : Tensor) (lat : Nat) : Nat := if lat = 1 then b.xfmt else sourceFmt b.fmt

/-- Every check of R282's first step: none is cause 0x12. An A operand whose entry is latent is taken as a plain A where the
operation has a latent stage (DESIGN CHOICE, log entry 71: Table 4.1 speaks of a latent B). -/
def planOf (tft : Tbl (List DWord)) (proj : Option Proj) (ta tb : Nat) (shape lat group depth m0 n0 k0 : Nat) :
    Option Plan :=
  let a := tensorOf tft ta
  let b := tensorOf tft tb
  let pj := tensorOf tft (projEntry proj)
  let vside := (proj.map (·.vside)).getD false
  let d := pj.dim 1
  let r := b.lr
  let opA := a.sound tft && isMmaA a.fmt && a.space == .tile && decide (a.rankM1 ≤ 1) && (!a.lt || lat != 0)
  let opB := b.sound tft && b.space == .tile && decide (b.rankM1 ≤ 1)
  let roleB := if lat = 0 then isMmaB b.fmt && !b.lt && b.dim 1 == a.dim 0
    else b.lt && proj.isSome && (if vside then b.tv else b.tk) == projEntry proj && !isIntFmt a.fmt && a.sfmt == 0
      && (if vside then a.dim 0 == b.dim 1 else a.dim 0 == d && (lat != 2 || k0 == 0))
  let ktot := if lat = 0 then a.dim 0 else if vside then b.dim 1 else if lat = 2 then r else d
  let next := if lat = 0 then b.dim 0 else if !vside then b.dim 1 else if lat = 2 then r else d
  let kk := ktot - k0
  let nu := Nat.min (shapeCols shape) (next - n0)
  let mu := Nat.min (shapeRows shape) (a.dim 1 - m0)
  let lc := if lat = 1 then ceilDiv (kk * nu * r) 8192 else if lat = 2 ∧ !vside then ceilDiv (mu * d * r) 8192 else 0
  if opA && opB && roleB && k0 % 16 == 0 && decide (k0 < ktot) && n0 % 8 == 0 && decide (n0 < next)
      && decide (m0 < a.dim 1) && !(arrayFmt b lat == 0x08 && decide (8 ≤ depth)) then
    some ⟨a, b, shape, lat, vside, m0, n0, k0, kk, next, group, depth, lc, pj, d, r⟩
  else none

def planMma (c : Cmd) (o : MMma) : Option Plan :=
  planOf c.tft c.proj o.ta.toNat o.tb.toNat o.shape.toNat o.lat.toNat (groupOf o.grp) (depthOf o.dc)
    (c.ops.getD 0 0).toNat (c.ops.getD 1 0).toNat (c.ops.getD 2 0).toNat

/-! ## Ranges (R280) -/

/-- Bytes of elements i0 to i1 of rows f0 to f1, with the overflow units of a term list. -/
def opSpan (t : Tensor) (f0 f1 i0 i1 : Nat) : Nat × Nat :=
  let lo := t.rowAddr f0
  let hi := t.rowAddr f1
  if isTerms t.fmt then
    let p := (lo + i0 / 16 * t.slot, hi + (i1 / 16 + 1) * t.slot - 1)
    if t.oa && decide (1 ≤ t.ovcap) then (Nat.min p.1 (overflowArea t).1, Nat.max p.2 (overflowArea t).2) else p
  else if isCb2 t.fmt then (lo + 2 * (i0 / 8), hi + 2 * (i1 / 8) + 1)
  else
    let b := (denseBits t.fmt).getD 8
    (lo + i0 * b / 8, hi + ((i1 + 1) * b + 7) / 8 - 1)

def Plan.ranges (p : Plan) (ab : Nat) (tft : Tbl (List DWord)) : List LockRange :=
  let mEnd := Nat.min (p.m0 + shapeRows p.shape) (p.a.dim 1) - 1
  let nEnd := Nat.min (p.n0 + shapeCols p.shape) p.next - 1
  let ak1 := p.a.dim 0 - 1
  let (bf0, bf1, bi0, bi1) := if p.lat = 0 then (p.k0, p.b.dim 1 - 1, p.n0, nEnd)
    else if p.vside then (p.k0, p.b.dim 1 - 1, 0, p.r - 1) else (p.n0, nEnd, 0, p.r - 1)
  let ra := opSpan p.a p.m0 mEnd p.k0 ak1
  let rb := opSpan p.b bf0 bf1 bi0 bi1
  let sa := scaleSpan p.a p.m0 (mEnd - p.m0 + 1) p.k0 ak1
  let sb := scaleSpan p.b bf0 (bf1 - bf0 + 1) bi0 bi1
  let bt := tensorOf tft p.b.bsel
  let rp := opSpan p.proj 0 (p.d - 1) 0 (p.r - 1)
  [mkRange 0 p.a false ra.1 ra.2, mkRange 1 p.b false rb.1 rb.2]
    ++ (if p.a.scaled then [mkRange 2 p.a false sa.1 sa.2] else [])
    ++ (if p.b.scaled then [mkRange 3 p.b false sb.1 sb.2] else [])
    ++ (if isCb2 p.b.fmt then [mkRange 4 bt false bt.base (bt.base + 1023)] else [])
    ++ [⟨5, .acc, true, ab, ab + shapeBanks p.shape - 1⟩]
    ++ (if p.lat = 0 then [] else [mkRange 6 p.proj false rp.1 rp.2])

/-! ## Operand elements -/

/-- An effective A element: its terms, or none for a NaN or an infinity (R51). -/
abbrev AElem := Option (List Term)

def nanScale : Except AccFault Val := .error (cause 0x17)

/-- Scale byte of an element as an exponent; 0xFF is cause 0x17 (R268). -/
def State.scaleExp (s : State) (c : Cmd) (t : Tensor) (i0 f : Nat) : Except AccFault Int :=
  match s.scaleByte c t i0 f with
  | .error e => .error e
  | .ok e => if e = 0xFF then .error (cause 0x17) else .ok ((e.toNat : Int) - 127)

/-- A record's elements as terms with their scales (R93). -/
def State.scaledRecord (s : State) (c : Cmd) (t : Tensor) (f ch : Nat) : Except AccFault (List (List Term)) :=
  match s.readRecord c t f ch with
  | .error e => .error e
  | .ok els => els.zipIdx.mapM fun x =>
      if t.dim 0 ≤ 16 * ch + x.2 then .ok x.1
      else match s.scaleExp c t (16 * ch + x.2) f with
        | .error e => .error e
        | .ok k => .ok (x.1.map fun y => (y.1, y.2 + k))

/-- Elements i0 to i0 + n − 1 of row f of a tensor as values; those at or beyond DIM0 are zero. -/
def State.rowVals (s : State) (c : Cmd) (t : Tensor) (f i0 n : Nat) : Except AccFault (List Val) :=
  if isTerms t.fmt then
    match ((List.range (ceilDiv (i0 + n) 16 - i0 / 16)).map (i0 / 16 + ·)).mapM (s.scaledRecord c t f) with
    | .error e => .error e
    | .ok rs => .ok (((rs.flatten.map termSum).drop (i0 % 16)).take n)
  else ((List.range n).map (i0 + ·)).mapM fun i =>
    if t.dim 0 ≤ i then .ok (.fin false 0 1) else s.element c c.tft t nanScale i f

/-- Elements of row `m` of A itself from k0 on, as terms (R263). -/
def State.aRow (s : State) (c : Cmd) (p : Plan) (m : Nat) : Except AccFault (List AElem) :=
  let n := 16 * p.chunks
  if p.a.dim 1 ≤ m then .ok (List.replicate n (some []))
  else if isTerms p.a.fmt then
    match ((List.range p.chunks).map (p.k0 / 16 + ·)).mapM (s.scaledRecord c p.a m) with
    | .error e => .error e
    | .ok rs => .ok (rs.flatten.map some)
  else match s.rowVals c p.a m p.k0 n with
    | .error e => .error e
    | .ok vs => .ok (vs.map termsOf)

/-- Rounding of the latent stage (R276): e4m3, e5m2 and e2m1 saturate, bf16 and f16 overflow to an infinity. A sum that is
itself an infinity is no overflow: it stays one where the format has infinities, e5m2 among them (DESIGN CHOICE, log entry
38). -/
def latRound (f : Nat) (v : Val) : Val :=
  match floatFmt f with
  | none => v
  | some m =>
    let code := match v with
      | .fin sg _ _ => if m.bits ≤ 8 ∧ m.overflows .rne v then m.signed sg m.top else m.round .rne v
      | _ => m.round .rne v
    m.value code

/-- Exact sum of products; a zero times a finite value adds nothing. -/
def exactDot : List Val → List Val → Val
  | x :: xs, y :: ys => Val.add .rne (Val.mul x y) (exactDot xs ys)
  | _, _ => .fin false 0 1

/-- The effective operands of one operation: rows of A from k0, and rows k of B over the shape's columns. -/
structure Operands where
  a : List (List AElem)
  b : List (List Val)
  deriving DecidableEq, Repr

def zeroVal : Val := .fin false 0 1

/-- Rows of B as stored, over `cols` columns from n0; beyond the extents they are zero. -/
def State.bRows (s : State) (c : Cmd) (p : Plan) : Except AccFault (List (List Val)) :=
  let cols := shapeCols p.shape
  (List.range (16 * p.chunks)).mapM fun j =>
    if p.kk ≤ j then .ok (List.replicate cols zeroVal)
    else match s.rowVals c p.b (p.k0 + j) p.n0 (Nat.min cols (p.next - p.n0)) with
      | .error e => .error e
      | .ok vs => .ok (vs ++ List.replicate (cols - vs.length) zeroVal)

/-- Latent rows `f0` to `f0 + n − 1` (R105). -/
def State.latentRows (s : State) (c : Cmd) (p : Plan) (f0 n : Nat) : Except AccFault (List (List Val)) :=
  ((List.range n).map (f0 + ·)).mapM fun f => s.rowVals c p.b f 0 p.r

/-- Effective operands with the projection's rows `w` (Table 10.3). -/
def State.operands (s : State) (c : Cmd) (p : Plan) (w : List (List Val)) : Except AccFault Operands :=
  let cols := shapeCols p.shape
  let rows := (List.range (shapeRows p.shape)).map (p.m0 + ·)
  let n := 16 * p.chunks
  let at_ := fun (m : List (List Val)) (i j : Nat) => (m.getD i []).getD j zeroVal
  let wRow := fun (e : Nat) => w.getD e []
  if p.lat = 0 then
    match rows.mapM (s.aRow c p), s.bRows c p with
    | .error e, _ => .error e
    | _, .error e => .error e
    | .ok a, .ok b => .ok ⟨a, b⟩
  else if !p.vside then
    let toks := Nat.min cols (p.next - p.n0)
    match s.latentRows c p p.n0 toks with
    | .error e => .error e
    | .ok cs =>
      let beff := fun (k j : Nat) =>
        if p.kk ≤ k ∨ toks ≤ j then zeroVal
        else if p.lat = 1 then latRound p.b.xfmt (exactDot (wRow (p.k0 + k)) (cs.getD j []))
        else at_ cs j (p.k0 + k)
      let b := (List.range n).map fun k => (List.range cols).map (beff k)
      let aRow := fun (m : Nat) =>
        if p.lat = 1 then s.aRow c p m
        else if p.a.dim 1 ≤ m then .ok (List.replicate n (some []))
        else match s.rowVals c p.a m 0 p.d with
          | .error e => Except.error e
          | .ok q => .ok ((List.range n).map fun k =>
              if p.kk ≤ k then some []
              else termsOf (latRound (sourceFmt p.a.fmt) (exactDot ((List.range p.d).map fun e => at_ w e k) q)))
      match rows.mapM aRow with
      | .error e => .error e
      | .ok a => .ok ⟨a, b⟩
  else
    match rows.mapM (s.aRow c p), s.latentRows c p p.k0 p.kk with
    | .error e, _ => .error e
    | _, .error e => .error e
    | .ok a, .ok cs =>
      let beff := fun (k j : Nat) =>
        if p.kk ≤ k ∨ p.next ≤ p.n0 + j then zeroVal
        else if p.lat = 1 then latRound p.b.xfmt (exactDot (wRow (p.n0 + j)) (cs.getD k []))
        else at_ cs k (p.n0 + j)
      .ok ⟨a, (List.range n).map fun k => (List.range cols).map (beff k)⟩

/-! ## The chunk step (R50, R52) -/

/-- Toward zero: the sign's term-product over 2^lsb. -/
def truncProduct (t : Term) (w : Val) (lsb : Int) : Int :=
  match w with
  | .fin sg n d =>
    let (a, b) := scaleRatio n d (t.2 - lsb)
    signedNat (t.1 != sg) (a / b)
  | _ => 0

/-- Sum of a chunk's truncated term-products. -/
def chunkSum (row : List AElem) (col : List Val) (lsb : Int) : Int :=
  (row.zip col).foldl (fun s e => (e.1.getD []).foldl (fun s t => s + truncProduct t e.2 lsb) s) 0

def maxInt : List Int → Option Int
  | [] => none
  | x :: l => some (l.foldl (fun a b => if a < b then b else a) x)

/-- emax of a chunk: none where nothing is contributed. -/
def chunkEmax (row : List AElem) (col : List Val) : Option Int :=
  let acts := row.flatMap fun e => (e.getD []).map (·.2)
  let wts := col.filterMap fun w => match w with
    | .fin _ n d => if n = 0 then none else some (ceilLog2 n d)
    | _ => none
  match maxInt acts, maxInt wts with
  | some a, some b => some (a + b)
  | _, _ => none

/-- Contribute for an FP32 accumulator (R50) and for an INT32 one (R52). -/
def contribute (int : Bool) (acc : Word) (row : List AElem) (col : List Val) : Word :=
  if int then acc + BitVec.ofInt 32 (chunkSum row col 0)
  else match chunkEmax row col with
    | none => acc
    | some e =>
      let sum := chunkSum row col (e - 19)
      if sum = 0 then acc
      else f32Word .rne (Val.add .rne (f32Val acc) (.dyadic (decide (sum < 0)) sum.natAbs (e - 19)))

/-- Chunks of sixteen, in order. -/
def inChunks {α : Type} (n : Nat) (l : List α) : List (List α) := (List.range n).map fun i => (l.drop (16 * i)).take 16

def Val.special (v : Val) : Bool := v.isNan || v.isInf

/-- The new value of an accumulator element: the canonical NaN where a NaN or infinite operand meets it (R51), else its
chunks' contributions; an element with no specified value keeps none. -/
def accStep (int : Bool) (n : Nat) (old : Option Word) (row : List AElem) (col : List Val) : Option Word :=
  if row.any (·.isNone) || col.any Val.special then some 0x7FC00000
  else
    let steps := (inChunks n row).zip (inChunks n col)
    old.map fun acc => steps.foldl (fun a e => contribute int a e.1 e.2) acc

/-- Column j of the rows of B. -/
def column (b : List (List Val)) (j : Nat) : List Val := b.map fun r => r.getD j zeroVal

/-- The bank of one sub-array after the operation (R267); Z zeroes it first. -/
def bankAfter (p : Plan) (z : Bool) (x : Operands) (off : Nat × Nat) (bank : Bank) : Bank :=
  let start : Bank := if z then { bank with dflt := some 0, cells := [] } else bank
  let rows := (x.a.drop off.1).take 64
  let cols := (List.range 512).map fun j => column x.b (off.2 + j)
  let busy := fun (i : Nat) =>
    (rows.getD (i / 512) []).any (fun e => e != some []) || (cols.getD (i % 512) []).any Val.special
  let new := fun (i : Nat) =>
    if busy i then accStep p.intAcc p.chunks (start.elem i) (rows.getD (i / 512) []) (cols.getD (i % 512) [])
    else start.elem i
  { start with cells := (List.range 32768).filterMap fun i =>
      let v := new i
      if v = start.dflt then none else some (i, v) }

/-! ## Timing (R269, R270) -/

/-- t(m, k) of one row, given which slices are empty. -/
def termCounts (row : List AElem) (empty : List Bool) : List Nat :=
  (row.zip empty).map fun e => if e.2 then 0 else match e.1 with
    | none => 1
    | some ts => ts.length

structure Timing where
  /-- Fin(m, k) of the last k, All(k) latest first, Bar and Ret of each group, PortFree. -/
  fin : List Nat
  all : List Nat
  bar : List Nat
  ret : List Nat
  port : Nat
  deriving DecidableEq, Repr

/-- One k of the recurrence; `t` are the 64 rows' counts. -/
def Timing.stepK (x : Timing) (group depth k : Nat) (t : List Nat) : Timing :=
  let limit := if depth < k then x.all.getD depth 0 else 0
  let fin := (x.fin.zip t).zipIdx.map fun e =>
    let r := if k % 16 = 0 ∧ 0 < k then Nat.max e.1.1 (x.bar.getD (e.2 / group) 0) else e.1.1
    Nat.max r limit + e.1.2
  { x with fin := fin, all := maxOf fin :: x.all }

/-- Insertion of a group into port order: ascending Bar, then group. -/
def insertGroup (bar : List Nat) (g : Nat) : List Nat → List Nat
  | [] => [g]
  | h :: l => if bar.getD g 0 < bar.getD h 0 then g :: h :: l else h :: insertGroup bar g l

/-- The barrier and the retirements that end a chunk. -/
def Timing.endChunk (x : Timing) (group : Nat) : Timing :=
  let groups := List.range (64 / group)
  let bar := groups.map fun g => Nat.max (maxOf ((x.fin.drop (g * group)).take group)) (x.ret.getD g 0) + 2
  let order := groups.foldl (fun l g => insertGroup bar g l) []
  order.foldl (fun y g =>
    let r := Nat.max (bar.getD g 0) y.port + group / 8
    { y with ret := y.ret.set g r, port := r }) { x with bar := bar }

/-- Cycles(s) of R270 from the rows' counts. -/
def cyclesOf (group depth chunks lat : Nat) (t : List (List Nat)) : Nat :=
  let start : Timing := ⟨List.replicate 64 0, [], List.replicate (64 / group) 0, List.replicate (64 / group) 0, 0⟩
  let stop := (List.range chunks).foldl (fun x c =>
    ((List.range 16).foldl (fun y i => y.stepK group depth (16 * c + i) (t.map fun r => r.getD (16 * c + i) 0)) x).endChunk
      group) start
  12 + lat + maxOf stop.ret

/-- Cycles of an operation, and the largest term count of its elements (R270, R103). -/
def Plan.cycles (p : Plan) (x : Operands) : Nat × Nat :=
  let empty := x.b.map fun r => r.all Val.isZero
  let per := (shapeOffs p.shape).map fun off =>
    cyclesOf p.group p.depth p.chunks p.latCycles (((x.a.drop off.1).take 64).map fun r => termCounts r empty)
  (maxOf per, maxOf (x.a.flatMap fun r => r.map fun e => (e.getD []).length))

/-- The measured count: from Cycles up to the bound (R272), with t_max = 8 where records exceed their format's. -/
def Plan.measured (p : Plan) (x : Operands) (free : Nat) : Nat :=
  let (c, t) := p.cycles x
  let w := if tMax p.a.fmt < t then p.boundWith 8 else p.bound
  c + free % (w - c + 1)

end Sys2Proof.Machine
end

