-- ==== Sys2Proof/Machine/Commands.lean ====
section
/-! DEFINITION. Classes C (07) and M (10): what each engine command reads and checks as it issues (R174 to R177, R183 to
R206, R280 to R288), and the reading again of sources that were stored to before SETA cleared (R176). -/

namespace Sys2Proof.Machine

/-! ## What a command names -/

/-- 64-bit words of the memory structure a command reads at issue (R176). -/
def structWords : Instr → Nat
  | .cpy _ | .cpym _ => 24
  | .sread _ | .swrite _ | .swriteFua _ | .tfset _ | .tfsetOvcur _ => 8
  | _ => 0

def isTfget : Instr → Bool
  | .tfget _ => true
  | _ => false

/-- TFT entries the command names (Table 4.1). -/
def namedEntries : Instr → List Nat
  | .enc o | .dect o => [o.src.toNat, o.dst.toNat]
  | .mma o => [o.ta.toNat, o.tb.toNat]
  | .mbound o => [o.ta.toNat, o.tb.toNat]
  | .mlatK o | .mlatV o => [o.tp.toNat, o.tl.toNat]
  | _ => []

/-- Address of the command's structure: its first two operands. -/
def Cmd.structVa (c : Cmd) : DWord := c.ops.getD 1 0 ++ c.ops.getD 0 0

/-- The structure as it stands; a misaligned address is cause 0x04 (R183, R198 to R200). -/
def State.readStructure (s : State) (c : Cmd) : Except AccFault (List DWord) :=
  if structWords c.ins ≠ 0 then s.readStruct c.wid c.structVa (structWords c.ins)
  else if isTfget c.ins && c.structVa.toNat % 64 != 0 then .error ⟨4, 0, c.structVa, none⟩
  else .ok []

/-! ## CPY and CPYM (R184, R186, R189, R191) -/

def outsideFault (a : Int) : AccFault := ⟨6, 0, BitVec.ofInt 64 a, none⟩

def State.checkCpy (s : State) (c : Cmd) : Except AccFault (List LockRange) :=
  let r : Shape := c.words
  if r.invalid none then .error (cause 0x14)
  else match r.outside (s.cmdTile c) with
    | some a => .error (outsideFault a)
    | none => .ok (r.ranges true)

/-- %gang.size of the command's block (DEDUCED, log entry 34). -/
def State.cmdGang (s : State) (c : Cmd) : Nat := ((s.grid? c.cid c.grid).map (·.kernel.gangb)).getD 1

/-- Ranks a record delivers to (DEDUCED, log entry 34). -/
def Shape.targets (r : Shape) : List Nat := (List.range 16).filter fun g => r.mcast.testBit g

/-- A target that has ended has no allocation left (DEDUCED, log entry 34). -/
def State.checkCpym (s : State) (c : Cmd) : Except AccFault (List LockRange) :=
  let r : Shape := c.words
  if r.invalid (some (s.cmdGang c)) then .error (cause 0x14)
  else match r.outside (s.cmdTile c) with
    | some a => .error (outsideFault a)
    | none =>
      if r.targets.any fun g => (s.gangBlock? c g).isNone then .error (outsideFault r.dstRange.1)
      else .ok (r.ranges (s.ownTarget c r))

/-! ## Storage (R200, R201) -/

/-- Fields of a storage request block (Table 7.9). -/
def reqDrive (r : List DWord) : Nat := ((r.getD 0 0).extractLsb' 0 2).toNat
def reqNsid (r : List DWord) : Nat := ((r.getD 0 0).extractLsb' 32 32).toNat
def reqSlba (r : List DWord) : Nat := (r.getD 1 0).toNat
def reqNlb (r : List DWord) : Nat := ((r.getD 2 0).extractLsb' 0 32).toNat
def reqVa (r : List DWord) : DWord := r.getD 3 0

/-- Bytes of the transfer. -/
def reqBytes (r : List DWord) : Nat :=
  reqNlb r * (if Config.bigBlocks (reqDrive r) (reqNsid r) then 4096 else 512)

/-- A block that breaks the rules of R200. -/
def reqBad (r : List DWord) : Bool :=
  (r.getD 0 0).extractLsb' 2 30 != 0 || (r.getD 2 0).extractLsb' 32 32 != 0 || (r.getD 4 0).extractLsb' 32 32 != 0
    || r.getD 5 0 != 0 || r.getD 6 0 != 0 || r.getD 7 0 != 0
    || reqNlb r == 0 || (reqVa r).toNat % 512 != 0 || decide (2 ^ 24 < reqBytes r)

/-- The storage grant table (Table 15.7); a drive that the mode in use does not have is never granted (R407). -/
def State.granted (s : State) (cid drive nsid : Nat) : Bool :=
  let g := s.ctlWord 0 (0x3000 + cid * 0x20 + 8 * drive)
  Config.driveThere drive && g.getLsbD 63 && ((g.extractLsb' 0 32).toNat == 0xFFFFFFFF || (g.extractLsb' 0 32).toNat == nsid)

/-- SREAD writes memory (`toMemory`), SWRITE reads it. Of a block that breaks the rules and names a drive not granted too,
the first is reported (DESIGN CHOICE, log entry 39). -/
def State.checkStorage (s : State) (c : Cmd) (toMemory : Bool) : Except AccFault (List LockRange) :=
  let r := c.words
  if reqBad r then .error (cause 0x14)
  else if !s.granted c.cid (reqDrive r) (reqNsid r) then .error (cause 0x06)
  else .ok [⟨0, .global, toMemory, (reqVa r).toNat, (reqVa r).toNat + reqBytes r - 1⟩,
    ⟨1, .global, true, c.structVa.toNat + 0x20, c.structVa.toNat + 0x23⟩]

/-! ## Work lists (R203, R204) -/

/-- A list code that names a list. -/
def codeOk (det : Bool) (code : Word) : Bool := code.extractLsb' 11 20 == 0 && !(det && code.getLsbD 10)

/-- Lane, list and item of each lane of an APPEND that has an item. -/
def Cmd.appendItems (c : Cmd) : List (Nat × Word × Word) :=
  (lanesOf c.lanes).filterMap fun l =>
    let code := c.ops.getD l 0
    if code.getLsbD 31 then none else some (l, code, c.ops.getD (32 + l) 0)

def Cmd.checkAppend (c : Cmd) : Except AccFault (List LockRange) :=
  if c.appendItems.all fun x => codeOk c.det x.2.1 then .ok [] else .error (cause 0x16)

def Cmd.checkDrain (c : Cmd) : Except AccFault (List LockRange) :=
  if (c.ops.getD 0 0).getLsbD 31 || !codeOk c.det (c.ops.getD 0 0) then .error (cause 0x16) else .ok []

/-! ## Class M (R280, R282, R285 to R288) -/

/-- Banks and tile ranges against the block's allocations (R282). -/
def State.withinBlock (s : State) (c : Cmd) (ab n : Nat) (ranges : List LockRange) : Except AccFault (List LockRange) :=
  if s.cmdBanks c < ab + n then .error (cause 0x06)
  else match rangeOutside (s.cmdTile c) ranges with
    | some a => .error (outsideFault a)
    | none => .ok ranges

def State.checkMma (s : State) (c : Cmd) (o : MMma) : Except AccFault (List LockRange) :=
  match planMma c o with
  | none => .error (cause 0x12)
  | some p => s.withinBlock c o.ab.toNat (shapeBanks o.shape.toNat) (p.ranges o.ab.toNat c.tft)

/-- The plan MBOUND bounds (R285). -/
def planBound (c : Cmd) (o : MBnd) : Option Plan :=
  planOf c.tft c.proj o.ta.toNat o.tb.toNat o.shape.toNat o.lat.toNat (groupOf o.grp) (depthOf o.dc)
    (c.ops.getD 0 0).toNat (c.ops.getD 1 0).toNat (c.ops.getD 2 0).toNat

def checkMbound (c : Cmd) (o : MBnd) : Except AccFault (List LockRange) :=
  match planBound c o with
  | none => .error (cause 0x12)
  | some _ => .ok []

/-- Projection and latent entry of an MLAT (R287). -/
def State.checkMlat (s : State) (c : Cmd) (o : MLat) (vside : Bool) : Except AccFault (List LockRange) :=
  let p := tensorOf c.tft o.tp.toNat
  let l := tensorOf c.tft o.tl.toNat
  if p.isProjection l.lr && p.sfmt == 0 && l.sound c.tft && l.lt && (if vside then l.tv else l.tk) == o.tp.toNat then
    let x := opSpan p 0 (p.dim 1 - 1) 0 (p.dim 0 - 1)
    s.withinBlock c 0 0 [mkRange 0 p false x.1 x.2]
  else .error (cause 0x12)

def bankRange (dst : Bool) (ab n : Nat) : LockRange := ⟨0, .acc, dst, ab, ab + n - 1⟩

/-! ## The checks before the first access -/

/-- The ranges the command registers, or its fault. -/
def State.checkCmd (s : State) (c : Cmd) : Except AccFault (List LockRange) :=
  match c.ins with
  | .cpy _ => s.checkCpy c
  | .cpym _ => s.checkCpym c
  | .enc o => s.checkEnc c o
  | .dect o => s.checkDect c o
  | .sread _ => s.checkStorage c true
  | .swrite _ | .swriteFua _ => s.checkStorage c false
  | .append _ => c.checkAppend
  | .drain _ => c.checkDrain
  | .tfset _ | .tfsetOvcur _ => .ok [⟨0, .global, false, c.structVa.toNat, c.structVa.toNat + 63⟩]
  | .tfget _ => .ok [⟨0, .global, true, c.structVa.toNat, c.structVa.toNat + 63⟩]
  | .mma o => s.checkMma c o
  | .mbound o => checkMbound c o
  | .mzero o => s.withinBlock c o.bank.toNat 1 [bankRange true o.bank.toNat 1]
  | .mzeroX4 o => s.withinBlock c o.bank.toNat 4 [bankRange true o.bank.toNat 4]
  | .mlatK o => s.checkMlat c o false
  | .mlatV o => s.checkMlat c o true
  | .mstat o => s.withinBlock c o.bank.toNat 1 [bankRange false o.bank.toNat 1]
  | _ => .ok []

/-- The command stands with a fault. -/
def Cmd.faulted (c : Cmd) (f : AccFault) : Cmd := { c with fault := some (f.cause, f.reason, f.addr) }

/-- The command with its structure, the entries it names as sampled (R89), its checks made: its ranges or its fault. -/
def State.prepare (s : State) (c : Cmd) (words : Except AccFault (List DWord)) : State × Cmd × List LockRange :=
  match words with
  | .error f => (s.noteFault f, c.faulted f, [])
  | .ok ws =>
    let c := { c with words := ws, wordsVa := c.structVa, fault := none }
    match s.sampleAll c (namedEntries c.ins) with
    | .error f => (s.noteFault f, c.faulted f, [])
    | .ok (t, c) =>
      match t.checkCmd c with
      | .error f => (t.noteFault f, c.faulted f, [])
      | .ok rs => (t, c, rs)

/-- SREAD: the command writes the memory that it transfers, and reads logical blocks. -/
def isSread : Instr → Bool
  | .sread _ => true
  | _ => false

/-- Where `n` bytes of the command's context at `va` lie. -/
def State.cmdPlaces (s : State) (c : Cmd) (va n : Nat) : List (Nat × Nat) :=
  match s.ctxSegments c.core c.cid (if isSread c.ins then .write else .read) (BitVec.ofNat 64 va) n with
  | .ok l => l
  | .error _ => []

/-- Memory of a storage command, by system address, with what it writes of it: its data, if it is an SREAD, and its status
word. -/
def State.footprint (s : State) (c : Cmd) : List (Nat × Nat × Bool) :=
  (s.cmdPlaces c (reqVa c.words).toNat (reqBytes c.words)).map (fun x => (x.1, x.2, isSread c.ins))
    ++ (s.cmdPlaces c (c.structVa.toNat + 0x20) 4).map fun x => (x.1, x.2, true)

/-- Bytes and logical blocks that two storage commands have in common, as memory of the first: where one of them writes what
the other reads or writes, the outcome is unspecified (R201) (DEDUCED, log entry 39). -/
def State.shares (s : State) (a b : Cmd) : List (Nat × Nat) :=
  let unit := fun (c : Cmd) => if Config.bigBlocks (reqDrive c.words) (reqNsid c.words) then 4096 else 512
  ((s.footprint a).flatMap fun x => (s.footprint b).filterMap fun y =>
      let lo := Nat.max x.1 y.1
      let hi := Nat.min (x.1 + x.2.1) (y.1 + y.2.1)
      if lo < hi ∧ (x.2.2 ∨ y.2.2) then some (lo, hi - lo) else none)
    ++ (if reqDrive a.words = reqDrive b.words && reqNsid a.words = reqNsid b.words && !(isSread a.ins && isSread b.ins) then
      let lo := Nat.max (reqSlba a.words) (reqSlba b.words)
      let hi := Nat.min (reqSlba a.words + reqNlb a.words) (reqSlba b.words + reqNlb b.words)
      if lo < hi then s.cmdPlaces a ((reqVa a.words).toNat + (lo - reqSlba a.words) * unit a) ((hi - lo) * unit a) else [] else [])

/-- A storage command has issued, or has read its request block again: what it shares with another outstanding one is
unspecified for both (R201). -/
def State.markHazy (s : State) (id : Nat) : State :=
  match s.cmds.get? id with
  | none => s
  | some c =>
    if c.unit != .storage || c.fault.isSome then s
    else (s.cmds.filter fun e => e.1 != id && e.2.unit == .storage && e.2.st != .finishing && e.2.fault.isNone).foldl
      (fun s e =>
        (s.updCmd id fun x => { x with hazy := x.hazy ++ s.shares c e.2 }).updCmd e.1 fun x =>
          { x with hazy := x.hazy ++ s.shares e.2 c }) s

/-- The command reads memory as it issues, which an acquire that has still to take effect holds back (R320). -/
def readsAtIssue (i : Instr) : Bool := structWords i != 0 || !(namedEntries i).isEmpty

/-- The queue or the range-lock table has filled up since the clause began (R175, R279). -/
def State.noRoom (s : State) (core : Nat) (u : EngineUnit) (i : Instr) : Bool :=
  (u == .copy || u == .matrix) && decide (u.depth ≤ s.queueLen core u)
    || (takesLock i || Instr.cls i == some .c) && decide (32 ≤ (s.core core).locks.length)

/-- Issue a command under its guard: with a false guard it has no effect (R121). It waits while its queue is full, and while
Graft or an older acquire holds what it reads (R175, R313, R320). -/
def State.issueCmd (s : State) (i : Instr) (g : UGuard) (u : EngineUnit) (caps : List Cap) (dests : List Dest) : State :=
  let c := { s.newCmd i u (caps.flatMap (·.vals)) with proj := s.self.proj }
  if !s.uholds g then s
  else if s.noRoom c.core u i || s.readHeld c.core c.cid c.structVa (8 * structWords i)
      || readsAtIssue i && s.acquirePending || s.samplesHeld c (namedEntries i) then s.holdWord
  else
    let words := s.readStructure c
    let s := if words.isOk && structWords i != 0 then s.noteCtxRead c.core c.cid c.structVa (8 * structWords i) else s
    let (t, c, rs) := s.prepare c words
    (t.pushCmd c caps dests rs).markHazy t.nextId

/-! ## Sources read again (R111, R113, R176) -/

/-- The ranges of the command's range-lock entry. -/
def State.relock (s : State) (id : Nat) (c : Cmd) (rs : List LockRange) : State :=
  s.updCore c.core fun k => { k with locks := k.locks.map fun l =>
    if l.cmd = id ∧ l.owner ≠ .multicast then { l with ranges := rs } else l }

/-- The structure's words, each the one read at issue or the one there now; a changed address names another structure. -/
def State.rereadWords (s : State) (c : Cmd) (ops : List Word) : Except AccFault (List DWord) :=
  let now := s.readStructure { c with ops := ops }
  if ops ≠ c.ops ∨ c.words.length ≠ structWords c.ins then now
  else .ok (c.words.zipIdx.map fun x =>
    if s.freeBool (14000000 + x.2) then (match now with
      | .ok ws => ws.getD x.2 x.1
      | .error _ => x.1) else x.1)

/-- A queued command whose sources were still unread has read them: operands overwritten since issue are the free values
its entry among the warp's operations holds for them. -/
def State.reread (s : State) (id : Nat) : State :=
  match s.cmds.get? id with
  | none => s
  | some c =>
    if !c.srcPending || c.st != .queued then s
    else
      let ops := ((((s.warp c.wid).op? id).map (·.caps)).getD []).flatMap (·.vals)
      match s.rereadWords c ops with
      | .ok ws =>
        if ops = c.ops ∧ ws = c.words then s.updCmd id fun c => { c with srcPending := false }
        else
          let (t, c', rs) := s.prepare { c with ops := ops, srcPending := false } (.ok ws)
          ((t.updCmd id fun _ => c').relock id c' rs).markHazy id
      | .error f =>
        if ops = c.ops then s.updCmd id fun c => { c with srcPending := false }
        else ((s.noteFault f).updCmd id fun c => ({ c with ops := ops, srcPending := false } : Cmd).faulted f).relock id c []

/-- The command has read its sources, and so has its entry among the warp's operations (R111). -/
def State.resample (s : State) (id : Nat) : State :=
  match s.cmds.get? id with
  | none => s
  | some c => (s.reread id).updOp c.wid id fun o => { o with srcPending := o.srcPending && c.st != .queued }

/-- Every operation and command of the warp under flag `flag` has read its sources (R111) (DEDUCED, log entry 20). -/
def State.sourcesRead (s : State) (wid flag : Nat) : State :=
  let s := s.updWarp wid fun w => { w with
    ops := w.ops.map fun e => (e.1, if e.2.setA = some flag then { e.2 with srcPending := false } else e.2) }
  (s.cmds.filter fun e => e.2.wid == wid && e.2.setA == some flag).foldl (fun s e =>
    (s.resample e.1).updCmd e.1 fun c => { c with srcPending := false }) s

/-- SETA_FLAG_CLEAR (R111, R176). -/
def execSetaFlagClear (wid flag : Nat) (s : State) : Host.Outcome State Fault Refusal :=
  .next ((s.sourcesRead wid flag).settle wid flag)

/-! ## Class C -/

def State.capPair (s : State) (r : Reg) : List Cap := [s.capW r.toNat, s.capW (r.toNat + 1)]
/-- `n` uniform registers from `r` on. -/
def State.capRun (s : State) (r : Reg) (n : Nat) : List Cap := (List.range n).map fun i => s.capW (r.toNat + i)

def execCpy (o : CCpy) (s : State) : Host.Outcome State Fault Refusal :=
  .next (s.issueCmd (.cpy o) o.g .copy (s.capPair o.wp) [])

/-- The warp has a signalling registration in effect on phaser `n` of its block (R192, R206). -/
def State.signalling (s : State) (wid n : Nat) : Bool :=
  match s.block? wid with
  | none => false
  | some b => match (s.phaser? b n).bind fun p => p.reg? wid with
    | some r => r.signals
    | none => false

/-- CPYM: GP is checked as PHSIG checks its phaser, precisely (R192). -/
def execCpym (o : CCpym) (s : State) : Host.Outcome State Fault Refusal :=
  .next (if s.uholds o.g && o.gp != 0xFF && !s.signalling s.focus.wid o.gp.toNat then s.trapWord 2 0 none none
    else s.issueCmd (.cpym o) o.g .copy (s.capPair o.wp) [])

def execEnc (o : CTile) (s : State) : Host.Outcome State Fault Refusal :=
  .next (s.issueCmd (.enc o) o.g .copy (s.capRun o.wo 4) [])

def execDect (o : CTile) (s : State) : Host.Outcome State Fault Refusal :=
  .next (s.issueCmd (.dect o) o.g .copy (s.capRun o.wo 4) [])

def execSread (o : CP) (s : State) : Host.Outcome State Fault Refusal :=
  .next (s.issueCmd (.sread o) o.g .storage (s.capPair o.p) [])

def execSwrite (o : CP) (s : State) : Host.Outcome State Fault Refusal :=
  .next (s.issueCmd (.swrite o) o.g .storage (s.capPair o.p) [])

def execSwriteFua (o : CP) (s : State) : Host.Outcome State Fault Refusal :=
  .next (s.issueCmd (.swriteFua o) o.g .storage (s.capPair o.p) [])

/-- APPEND: it takes the warp's next ordinal (R204). -/
def execAppend (o : CApp) (s : State) : Host.Outcome State Fault Refusal :=
  let t := s.issueCmd (.append o) o.g .compaction [s.capAt 0 o.l.toNat, s.capAt 1 o.i.toNat] []
  .next (if s.uholds o.g && !t.focus.hold then t.updWarp s.focus.wid fun w => { w with appendOrd := w.appendOrd + 1 } else t)

def execDrain (o : CDrn) (s : State) : Host.Outcome State Fault Refusal :=
  .next (s.issueCmd (.drain o) o.g .compaction [s.capW o.n.toNat]
    [⟨.v o.d.toNat, BitVec.allOnes 32⟩, ⟨.w o.n.toNat, 1⟩])

def execQuiesce (o : YX) (s : State) : Host.Outcome State Fault Refusal :=
  .next (s.issueCmd (.quiesce o) o.g .compaction [] [])

def execTfset (o : CTf) (s : State) : Host.Outcome State Fault Refusal :=
  .next (s.issueCmd (.tfset o) o.g .copy (s.capPair o.p) [])

def execTfsetOvcur (o : CTf) (s : State) : Host.Outcome State Fault Refusal :=
  .next (s.issueCmd (.tfsetOvcur o) o.g .copy (s.capPair o.p) [])

def execTfget (o : CTf) (s : State) : Host.Outcome State Fault Refusal :=
  .next (s.issueCmd (.tfget o) o.g .copy (s.capPair o.p) [])

/-! ## Class M -/

def execMma (o : MMma) (s : State) : Host.Outcome State Fault Refusal :=
  .next (s.issueCmd (.mma o) o.g .matrix (s.capRun o.wo 3) [])

def execMbound (o : MBnd) (s : State) : Host.Outcome State Fault Refusal :=
  .next (s.issueCmd (.mbound o) o.g .bound (s.capRun o.wo 3) [⟨.w o.wd.toNat, 1⟩])

def execMzero (o : MZ) (s : State) : Host.Outcome State Fault Refusal :=
  .next (s.issueCmd (.mzero o) o.g .matrix [] [])

def execMzeroX4 (o : MZ) (s : State) : Host.Outcome State Fault Refusal :=
  .next (s.issueCmd (.mzeroX4 o) o.g .matrix [] [])

def execMlatK (o : MLat) (s : State) : Host.Outcome State Fault Refusal :=
  .next (s.issueCmd (.mlatK o) o.g .matrix [] [])

def execMlatV (o : MLat) (s : State) : Host.Outcome State Fault Refusal :=
  .next (s.issueCmd (.mlatV o) o.g .matrix [] [])

def execMstat (o : MStat) (s : State) : Host.Outcome State Fault Refusal :=
  .next (s.issueCmd (.mstat o) o.g .matrix [] [⟨.w o.d.toNat, 1⟩, ⟨.w (o.d.toNat + 1), 1⟩])

end Sys2Proof.Machine
end

