-- ==== Sys2Proof/Machine/CmdEvents.lean ====
section
/-! DEFINITION. The life of an engine command after its issue (07, 10): start, deliveries, completion, faults, storage,
work lists, the matrix queue and the latent stage. An event whose condition does not hold leaves the state as it is. -/

namespace Sys2Proof.Machine

def noEvents : Events := [0, 0, 0, 0]

/-- The register that `n` meant when the operation issued (R382). -/
def Op.target (o : Op) (n : RegName) : RegName :=
  match n with
  | .w r => if o.dests.any fun d => decide (d.reg = .hw (r - 56)) && decide (56 ≤ r) then .hw (r - 56) else n
  | _ => n

/-- A register a command writes as it completes (R113). -/
def State.cmdWrite (s : State) (wid id : Nat) (n : RegName) (l : Nat) (x : Word) : State :=
  s.deliver wid ((((s.warp wid).op? id).map fun o => o.target n).getD n) l x

/-- A fault the command has taken. -/
def State.setFault (s : State) (id : Nat) (f : AccFault) : State :=
  (s.noteFault f).updCmd id fun c => c.faulted f

/-! ## CPYM (R191 to R193) -/

/-- Physical address of block image `j` of a die (R404). -/
def State.imageAddr (s : State) (img : Nat × Nat) : Nat :=
  ((s.ctlWord img.1 0x2400).extractLsb' 21 25).toNat * 2 ^ 21 + img.2 * 2 ^ 21

/-- The inbound-write counter of a block, which stands in its control image too while it is not resident (R193,
Table 14.8). -/
def State.setInbound (s : State) (b : Nat) (f : Nat → Nat) : State :=
  match s.blocks.get? b with
  | none => s
  | some x =>
    let s := s.updBlock b fun x => { x with inbound := f x.inbound }
    match if x.life = .saved then x.saveImage else none with
    | some img => s.homeWrite (s.imageAddr img + 0x1C0010) (toBytes 4 (f x.inbound))
    | none => s

/-- A CPYM begins: inbound-write counters rise, the one walk is made. A target that has ended since the command issued has no
allocation left, which faults before any access (R191) (DEDUCED, log entry 34). -/
def State.beginCpym (s : State) (id : Nat) (c : Cmd) : State :=
  let r : Shape := c.words
  if r.targets.any fun g => (s.gangBlock? c g).isNone then s.setFault id (outsideFault r.dstRange.1)
  else
    let (done, f, all) := s.copyWalk c r
    let s := (r.targets.filterMap (s.gangBlock? c)).foldl (fun s b => s.setInbound b (· + 1)) s
    let s := (s.noteElems c r (r.order.flatten)).updCmd id fun x => { x with
      ranks := r.targets, events := putEvents done, walked := walkedBytes (if f.isSome then s.lastingPuts c r all else done) }
    match f with
    | some f => s.setFault id f
    | none => s

/-- The delivered bytes are in the block's tile memory, or in its tile image while it is saved (R193). -/
def State.deliverTile (s : State) (walked : List (Nat × Option Byte)) (b : Nat) : State :=
  let image := (s.blocks.get? b).bind fun x => if x.life = .saved then x.saveImage else none
  walked.foldl (fun s e =>
    let s := s.updBlock b fun x => { x with tile := Sparse.set none x.tile e.1 e.2 }
    match image with
    | some img =>
      let t := s.homeWrite (s.imageAddr img + e.1) [e.2.getD (s.freeByte (26000000 + e.1))]
      if e.2.isNone then t.blur (s.imageAddr img + e.1) 1 else t
    | none => s) s

/-- The writes into the block of rank `rank` are over. -/
def State.delivered (s : State) (id rank b : Nat) : State :=
  (s.setInbound b (· - 1)).updCmd id fun x => { x with ranks := x.ranks.filter (· != rank) }

/-- Inbound multicast holds a range-lock entry of another core (R191) (DEDUCED, log entry 36). -/
def State.multicastLock (s : State) (core id b : Nat) : Bool :=
  (s.core core).locks.any fun l => l.cmd == id && l.owner == .multicast && l.blk == b

/-- MULTICAST_DELIVERY (R191): into a block on another core, first a range-lock entry is taken there, once one is free,
and then the bytes are written (DEDUCED, log entry 36). -/
def execMulticastDelivery (id rank : Nat) (s : State) : Host.Outcome State Fault Refusal :=
  .next (match s.cmds.get? id with
    | none => s
    | some c =>
      if c.st != .started || c.fault.isSome || !c.ranks.contains rank then s
      else match s.gangBlock? c rank with
        | none => s
        | some b => match s.blocks.get? b with
          | none => s
          | some t =>
            if t.life == .saved || t.core == c.core then (s.deliverTile c.walked b).delivered id rank b
            else if s.multicastLock t.core id b then
              let s := (s.deliverTile c.walked b).delivered id rank b
              s.updCore t.core fun k => { k with
                locks := k.locks.filter fun l => !(l.cmd == id && l.owner == .multicast && l.blk == b) }
            else if s.freeLocks t.core = 0 then s
            else
              let d := Shape.dstRange c.words
              s.updCore t.core fun k => { k with locks := k.locks ++
                [⟨k.freeEntry, s.nextId, id, c.cid, b, .multicast, 2, 0, [⟨0, .tile, true, d.1.toNat, d.2.toNat⟩]⟩] })

/-- A faulting CPYM leaves each byte of its targets old or new (R180). -/
def State.partDeliver (s : State) (id : Nat) (c : Cmd) : State :=
  c.ranks.foldl (fun s g =>
    match s.gangBlock? c g with
    | none => s
    | some b =>
      ((s.deliverTile (c.walked.filter fun e => s.freeBool (15000000 + e.1)) b).delivered id g b)) s

/-- CPYM_GANG_SIGNAL (R179 step 4, R192): a release at .gang scope, which waits while A is 255; with the registration gone,
cause 0x18 (DEDUCED, log entry 43). -/
def execCpymGangSignal (id : Nat) (s : State) : Host.Outcome State Fault Refusal :=
  .next (match s.cmds.get? id with
    | none => s
    | some c =>
      match c.ins with
      | .cpym o =>
        if !c.signalDue || c.st != .finishing then s
        else
          let n := o.gp.toNat
          let crossed := if c.crossed = 0 then 0 else 0x0A
          let t := s.updCmd id fun x => { x with signalDue := false }
          match (s.blocks.get? c.blk).bind fun b => (s.phaser? b n).bind fun p => p.reg? c.wid with
          | some r =>
            if !r.signals then (t.flagError c ⟨8, 0x18, 0, 0⟩).tailCmd id c 0x18
            else if r.a = 255 || !s.releasedBefore 1 id c then s
            else (t.phaserSignal c.blk n c.wid).tailCmd id c crossed
          | none => (t.flagError c ⟨8, 0x18, 0, 0⟩).tailCmd id c 0x18
      | _ => s)

/-! ## Work lists (R202 to R206) -/

/-- Items of list `n` of the context: die in bit 10 (R203) (DEDUCED, log entry 32). -/
def State.list (s : State) (cid n : Nat) : List Item := Sparse.get [] (s.ctx cid).lists n
/-- DEDUCED, log entry 32. -/
def State.setList (s : State) (cid n : Nat) (l : List Item) : State :=
  s.updCtx cid fun x => { x with lists := Sparse.set [] x.lists n l }

/-- Items a list holds at most (Table 13.4). -/
def State.listCapacity (s : State) (cid : Nat) : Nat := 2 ^ (((s.desc cid 5).extractLsb' 0 4).toNat + 5)

/-- Backing area of a list (R336). -/
def State.listVa (s : State) (cid n : Nat) : DWord :=
  let bytes := 4 * s.listCapacity cid
  (s.desc cid 5 &&& 0x0000FFFFFFFF0000) + BitVec.ofNat 64 (n / 1024 * 1024 * bytes + n % 1024 * bytes)

def lexLt : List Nat → List Nat → Bool
  | a :: as, b :: bs => decide (a < b) || (a == b && lexLt as bs)
  | _, _ => false

def Item.before (x y : Item) : Bool :=
  lexLt [x.key.1, x.key.2.1, x.key.2.2.1, x.key.2.2.2] [y.key.1, y.key.2.1, y.key.2.2.1, y.key.2.2.2]

/-- Insertion into a list kept sorted by key (R204). -/
def insertItem (x : Item) : List Item → List Item
  | [] => [x]
  | y :: l => if x.before y then x :: y :: l else y :: insertItem x l

/-- Lane groups of an APPEND, one per list it names, items in ascending lane order. -/
def Cmd.appendGroups (c : Cmd) (lin : Nat) : List (Nat × List Item) :=
  let items := c.appendItems.map fun x =>
    ((x.2.1.extractLsb' 0 11).toNat, (⟨x.2.2, (lin, c.windex, c.ordinal, x.1)⟩ : Item))
  let lists := (items.map (·.1)).eraseDups
  lists.map fun n => (n, (items.filter fun x => x.1 == n).map (·.2))

/-- The backing area of a list can be reached. -/
def State.listFault (s : State) (c : Cmd) (kind : Kind) (n : Nat) : Option AccFault :=
  match s.ctxSegments c.core c.cid kind (s.listVa c.cid n) (4 * s.listCapacity c.cid) with
  | .error f => some f
  | .ok _ => none

/-- The instruction a command comes from. -/
def Cmd.place (c : Cmd) : Nat := 16 * c.clause.toNat + c.word

/-- The lane of an item. -/
def Item.lane (x : Item) : Nat := x.key.2.2.2

/-- An APPEND begins; what a lane had appended before the instruction was withdrawn and issued again is not appended twice
(R393) (DEDUCED, log entry 37). -/
def State.beginAppend (s : State) (id : Nat) (c : Cmd) : State :=
  let before := (s.warp c.wid).appended
  let groups := (c.appendGroups (((s.blocks.get? c.blk).map (·.lin)).getD 0)).map fun g =>
    (g.1, g.2.filter fun x => !before.contains (c.place, x.lane))
  let groups := groups.filter fun g => !g.2.isEmpty
  match groups.findSome? fun g => s.listFault c .write g.1 with
  | some f => s.setFault id f
  | none =>
    (s.updWarp c.wid fun w => { w with
      appended := w.appended.filter fun x => x.1 != c.place || !c.lanes.getLsbD x.2 }).updCmd id fun x =>
        { x with groups := groups }

/-- An earlier APPEND of the warp has still a group for list `n` to append. -/
def State.appendAhead (s : State) (id : Nat) (c : Cmd) (n : Nat) : Bool :=
  s.cmds.any fun e => decide (e.1 < id) && e.2.wid == c.wid
    && match e.2.ins with
      | .append _ => e.2.fault.isNone && (e.2.st == .queued || e.2.groups.any fun g => g.1 == n)
      | _ => false

/-- APPEND_GROUP (R203): a group that fits is appended as one; in deterministic mode items are sorted in (R204)
(DEDUCED, log entry 37). -/
def execAppendGroup (id : Nat) (s : State) : Host.Outcome State Fault Refusal :=
  .next (match s.cmds.get? id with
    | none => s
    | some c =>
      if c.st != .started || c.fault.isSome || !s.releasedBefore 3 id c then s
      else
        let fits := fun (g : Nat × List Item) =>
          decide ((s.list c.cid g.1).length + g.2.length ≤ s.listCapacity c.cid) && !s.appendAhead id c g.1
        match c.groups.find? fits with
        | none => s
        | some g =>
          let old := s.list c.cid g.1
          let new := if c.det then g.2.foldl (fun l x => insertItem x l) old else old ++ g.2
          (s.setList c.cid g.1 new).updCmd id fun x => { x with groups := x.groups.filter fun h => h.1 != g.1 })

/-- DRAIN (R204, R205). -/
def State.runDrain (s : State) (id : Nat) (c : Cmd) (o : CDrn) : State × Option AccFault :=
  let n := ((c.ops.getD 0 0).extractLsb' 0 11).toNat
  let items := s.list c.cid n
  let got := items.take 32
  match if got.isEmpty then none else s.listFault c .read n with
  | some f => (s, some f)
  | none =>
    let s := s.setList c.cid n (items.drop 32)
    let s := got.zipIdx.foldl (fun s x => s.cmdWrite c.wid id (.v o.d.toNat) x.2 x.1.value) s
    let s := s.cmdWrite c.wid id (.w o.n.toNat) 0 (BitVec.ofNat 32 got.length)
    let s := s.updWarp c.wid fun w => { w with drainer := true, drainBusy := !got.isEmpty }
    (if got.isEmpty then s else s.acquire c.core 3, none)

/-- QUIESCE (R206). -/
def State.runQuiesce (s : State) (c : Cmd) (o : YX) : State × Option AccFault :=
  if !s.signalling c.wid o.x.toNat || (s.ctx c.cid).detector.isSome then (s, some (cause 0x16))
  else (s.updCtx c.cid fun x => { x with detector := some ⟨c.wid, c.blk, o.x.toNat⟩ }, none)

/-- The context is quiescent (R206). -/
def State.quiescent (s : State) (cid : Nat) : Bool :=
  (s.ctx cid).lists.isEmpty
    && s.cmds.all (fun e => e.2.cid != cid || match e.2.ins with
      | .append _ => false
      | _ => true)
    && s.warps.all fun w => w.2.cid != cid || w.2.live == 0 || !w.2.drainer || !w.2.drainBusy

/-- TERMINATION_DETECTOR_SIGNAL (R206): the signal is a release at the phaser's scope. It waits while the arrival count is
255, and with the warp's registration gone the detector disarms without a signal, as with its block (DEDUCED, log entry 43).
-/
def execTerminationDetectorSignal (cid : Nat) (s : State) : Host.Outcome State Fault Refusal :=
  .next (match (s.ctx cid).detector with
    | none => s
    | some d =>
      let full := match (s.blocks.get? d.blk).bind fun b => (s.phaser? b d.phaser).bind fun p => p.reg? d.wid with
        | some r => r.a == 255
        | none => false
      if !s.quiescent cid || full || !s.releasedAt d.wid (phScope d.phaser) then s
      else
        let s := s.updCtx cid fun x => { x with detector := none }
        if s.signalling d.wid d.phaser then s.phaserSignal d.blk d.phaser d.wid else s)

/-! ## Tensor Form Table (R198, R199) -/

/-- The words that a TFSET has still to write, with the bytes it writes of each: word 7 alone, and of it OVCUR, in mode 01. -/
def Cmd.entryLeft (c : Cmd) : List (Nat × List Byte) :=
  ((List.range 8).filter fun i => !c.moved.contains i && (!setsCursor c.ins || i == 7)).map fun i =>
    (i, (bytes64 (c.words.getD i 0)).take (if setsCursor c.ins then 4 else 8))

/-- Words of the entry are written. -/
def State.writeEntry (s : State) (c : Cmd) (n : Nat) (ws : List (Nat × List Byte)) : Except AccFault State :=
  ws.foldl (fun (acc : Except AccFault State) x => match acc with
    | .error f => .error f
    | .ok t => t.ctxWrite c.core c.cid (s.tftVa c.cid n + BitVec.ofNat 64 (8 * x.1)) x.2) (.ok s)

/-- TFSET: the words left of the memory image, then every core's copy. -/
def State.runTfset (s : State) (c : Cmd) (n : Nat) : State × Option AccFault :=
  match s.writeEntry c n c.entryLeft with
  | .error f => (s, some f)
  | .ok t => ({ t with cores := t.cores.mapVals fun _ k => { k with tft := k.tft.erase (256 * c.cid + n) } }, none)

def State.runTfget (s : State) (c : Cmd) (n : Nat) : State × Option AccFault :=
  match s.ctxRead c.core c.cid (s.tftVa c.cid n) 64 with
  | .error f => (s, some f)
  | .ok bs => match (s.noteCtxRead c.core c.cid (s.tftVa c.cid n) 64).ctxWrite c.core c.cid c.structVa bs with
    | .error f => (s, some f)
    | .ok t => (t, none)

/-- Some words of the entry that a TFSET writes are in its memory image, the others not yet (R198, R327); each is written
once, so that its write of OVCUR is one access among the allocations (R43, R100). -/
def State.partTfset (s : State) (id : Nat) (c : Cmd) (n : Nat) : State :=
  let now := c.entryLeft.filter fun x => s.freeBool (19000000 + x.1)
  match s.writeEntry c n now with
  | .error _ => s
  | .ok t => t.updCmd id fun x => { x with moved := now.map (·.1) ++ x.moved }

/-! ## MZERO and MSTAT (R286, R288) -/

def State.updBank (s : State) (blk bank : Nat) (f : Bank → Bank) : State :=
  s.updBlock blk fun b => { b with acc := b.acc.modify bank f }

/-- A bank of +0 with counts of 0. -/
def Bank.zero : Bank := ⟨some 0, [], some 0, some 0⟩

def State.runMzero (s : State) (c : Cmd) (ab n : Nat) : State :=
  (List.range n).foldl (fun s i => s.updBank c.blk (ab + i) fun _ => Bank.zero) s

/-- A recorded count as it is read: a free value where it is unspecified (R2, R282). -/
def State.countWord (s : State) (i : Nat) (n : Option Nat) : Word :=
  match n with
  | some x => BitVec.ofNat 32 x
  | none => s.freeWord (18000000 + i)

def State.runMstat (s : State) (id : Nat) (c : Cmd) (o : MStat) : State :=
  let bank := ((s.blocks.get? c.blk).bind fun b => b.acc[o.bank.toNat]?).getD Bank.zero
  (s.cmdWrite c.wid id (.w o.d.toNat) 0 (s.countWord 0 bank.modelled)).cmdWrite c.wid id (.w (o.d.toNat + 1)) 0
    (s.countWord 1 bank.measured)

/-! ## Storage (R201) -/

/-- A storage command begins; an SWRITE's source is translated and checked. -/
def State.beginStorage (s : State) (id : Nat) (c : Cmd) : State :=
  if isSread c.ins then s
  else match s.ctxRead c.core c.cid (reqVa c.words) (reqBytes c.words) with
    | .error f => s.setFault id f
    | .ok _ => s

/-- The parts of the places that the command shares with another storage command (R201). -/
def Cmd.shared (c : Cmd) (l : List (Nat × Nat)) : List (Nat × Nat) :=
  l.flatMap fun x => c.hazy.filterMap fun y =>
    let lo := Nat.max x.1 y.1
    let hi := Nat.min (x.1 + x.2) (y.1 + y.2)
    if lo < hi then some (lo, hi - lo) else none

/-- Bytes as an SWRITE carries them to the drive: unspecified where they are shared. -/
def State.hazed (s : State) (c : Cmd) (bs : List Byte) : List Byte :=
  let places := (s.cmdPlaces c (reqVa c.words).toNat bs.length).flatMap fun x => (List.range x.2).map (x.1 + ·)
  if c.hazy.isEmpty then bs
  else bs.zipIdx.map fun x => if (c.shared [(places.getD x.2 0, 1)]).isEmpty then x.1 else s.freeByte (30000000 + x.2)

/-- The bytes from `va` that the command shares hold unspecified values once it has written them (R2, R201). -/
def State.blurShared (s : State) (c : Cmd) (va n : Nat) : State :=
  if c.hazy.isEmpty then s else s.blurPlaces c.blk (c.shared (s.cmdPlaces c va n))

/-- Each byte written or not, as a free value says (R180). -/
def State.writeSome (s : State) (c : Cmd) (va : DWord) (bs : List Byte) : State :=
  bs.zipIdx.foldl (fun t x =>
    if s.freeBool (50000000 + x.2) then
      match t.ctxWrite c.core c.cid (va + BitVec.ofNat 64 x.2) [x.1] with
      | .ok u => u
      | .error _ => t
    else t) s

/-- The transfer moves some bytes before it completes: an SREAD writes them, of the data the drive is sending, an SWRITE reads
them; until then other cores find each byte old or new, and an SWRITE any of the values a byte has had (R201, R327)
(DESIGN CHOICE, log entry 25). -/
def State.stageStorage (s : State) (id : Nat) (c : Cmd) : State :=
  let va := reqVa c.words
  let some_ := (List.range (reqBytes c.words)).filter fun i => s.freeBool (2 * 10 ^ 11 + i) && (Sparse.get none c.staged i).isNone
  let stage := fun (f : Nat → Option Byte) => some_.foldl (fun m i => Sparse.set none m i (f i)) c.staged
  if isSread c.ins then
    let byte := fun (i : Nat) => s.freeByte (3 * 10 ^ 11 + i)
    some_.foldl (fun t i => match t.ctxWrite c.core c.cid (va + BitVec.ofNat 64 i) [byte i] with
      | .ok u => u
      | .error _ => t) (s.updCmd id fun x => { x with staged := stage fun i => some (byte i) })
  else match s.ctxRead c.core c.cid va (reqBytes c.words) with
    | .error _ => s
    | .ok bs => (s.noteCtxRead c.core c.cid va (reqBytes c.words)).updCmd id fun x => { x with staged := stage fun i => bs[i]? }

/-- The bytes of a transfer, those moved already as they were then. -/
def Cmd.withStaged (c : Cmd) (bs : List Byte) : List Byte :=
  bs.zipIdx.map fun x => (Sparse.get none c.staged x.2).getD x.1

/-- The data movement a completion makes: an SREAD's writes, an SWRITE's reads. -/
def State.storageData (s : State) (c : Cmd) (ok : Bool) (data : List Byte) : State × Option AccFault :=
  let n := reqBytes c.words
  let va := reqVa c.words
  if isSread c.ins then
    let bs := c.withStaged ((List.range n).map fun i => data.getD i (s.freeByte (70000000 + i)))
    let over_ := fun (t : State) => t.blurShared c va.toNat n
    if !ok then (over_ (s.writeSome c va bs), none)
    else match s.ctxWrite c.core c.cid va bs with
      | .ok t => (over_ t, none)
      | .error f => (over_ (s.writeSome c va bs), some f)
  else match s.ctxRead c.core c.cid va n with
    | .error f => (s, some f)
    | .ok bs =>
      let fua := match c.ins with
        | .swriteFua _ => true
        | _ => false
      let sent := s.hazed c (c.withStaged bs)
      ({ s.noteCtxRead c.core c.cid va n with
        outbox := s.outbox ++ [.driveWrite (reqDrive c.words) (reqNsid c.words) (reqSlba c.words) fua sent] }, none)

/-- The completion of a storage command with NVMe status `sf` (R201). -/
def State.completeStorage (s : State) (id : Nat) (c : Cmd) (sf : BitVec 15) (data : List Byte) : State :=
  match s.storageData c (sf == 0) data with
  | (t, some f) => t.failCmd id f noEvents
  | (t, none) =>
    match t.ctxWrite c.core c.cid (c.structVa + 0x20) (toBytes 4 (2 ^ 31 + sf.toNat)) with
    | .error f => t.failCmd id f noEvents
    | .ok t =>
      let t := t.blurShared c (c.structVa.toNat + 0x20) 4
      if sf = 0 then t.finishCmd id noEvents else t.failCmd id (cause 0x15) noEvents

/-- STORAGE_COMPLETION (R201); one at a drive that is gone is Command Abort Requested (R408). -/
def execStorageCompletion (id : Nat) (sf : BitVec 15) (data : List Byte) (s : State) : Host.Outcome State Fault Refusal :=
  .next (match s.cmds.get? id with
    | none => s
    | some c =>
      if c.unit != .storage || c.st != .started || c.fault.isSome then s
      else if s.drivesUp.getLsbD (reqDrive c.words) then s.completeStorage id c sf data
      else s.completeStorage id c 0x07 [])

/-! ## Start, completion and fault (R177 to R180) -/

/-- What a command does as it begins its accesses. The release that an APPEND or a TFSET makes is sent from here: everything
before the command has been performed (R178). -/
def State.beginCmd (s : State) (id : Nat) (c : Cmd) : State :=
  let sent := s.nextId
  let s := s.updCmd id fun x => { x with st := .started, cut := some sent }
  match c.ins with
  | .cpym _ => s.beginCpym id c
  | .append _ => s.beginAppend id c
  | .sread _ | .swrite _ | .swriteFua _ => s.beginStorage id c
  | _ => s

/-- ENGINE_COMMAND_START (R177, R178). -/
def execEngineCommandStart (id : Nat) (s : State) : Host.Outcome State Fault Refusal :=
  let t := s.resample id
  .next (match t.cmds.get? id with
    | none => s
    | some c =>
      if c.unit == .matrix || c.unit == .bound then s
      else if c.st != .queued || c.fault.isSome || !t.copyTurn id c || !t.lockClear id c || !t.storesDone id c then t
      else t.beginCmd id c)

/-- What a command's transfer makes of the state, the events it counts, its fault (DESIGN CHOICE, log entry 25). -/
def State.moveData (s : State) (id : Nat) (c : Cmd) : State × Events × Option AccFault :=
  let plain := fun (r : State × Option AccFault) => (r.1, noEvents, r.2)
  let more := fun (r : State × Events × Option AccFault) => (r.1, Events.plus c.events r.2.1, r.2.2)
  match c.ins with
  | .cpy _ => more (s.runCopy c c.words)
  | .cpym _ => (s, c.events, none)
  | .enc o => more (s.runEnc c o)
  | .dect o => more (s.runDect c o)
  | .tfset o | .tfsetOvcur o => plain (s.runTfset c o.t.toNat)
  | .tfget o => plain (s.runTfget c o.t.toNat)
  | .drain o => plain (s.runDrain id c o)
  | .quiesce o => plain (s.runQuiesce c o)
  | .mzero o => plain (s.runMzero c o.bank.toNat 1, none)
  | .mzeroX4 o => plain (s.runMzero c o.bank.toNat 4, none)
  | .mstat o => plain (s.runMstat id c o, none)
  | _ => plain (s, none)

/-- A lower block of the command's grid has not ended, and may still allocate overflow units
(DEDUCED, log entry 35). -/
def State.lowerBlocks (s : State) (c : Cmd) : Bool :=
  match s.blocks.get? c.blk, s.grid? c.cid c.grid with
  | some b, some g =>
    s.blocks.any (fun e => e.2.cid == b.cid && e.2.grid == b.grid && decide (e.2.lin < b.lin))
      || g.waiting.any fun j => decide (j * g.kernel.gangb < b.lin) && j != b.gang
  | _, _ => false

/-- In deterministic mode the blocks of a grid allocate in ascending order: one that has to allocate waits until every lower
block has ended (R100; DEDUCED, log entry 35). -/
def State.encTurn (s : State) (c : Cmd) (o : CTile) : Bool := !c.det || !s.encAllocates c o || !s.lowerBlocks c

/-- The command makes its accesses. -/
def State.mayAccess (s : State) (id : Nat) (c : Cmd) : Bool := c.st == .started && c.fault.isNone && !s.rangesHeld id c

/-- The command is one that ENGINE_COMMAND_COMPLETE completes, and nothing of it is left to do first
(DEDUCED, log entry 35). -/
def State.mayComplete (s : State) (id : Nat) (c : Cmd) : Bool :=
  s.mayAccess id c
    && match c.ins with
      | .enc o => s.encTurn c o
      | .cpy _ | .dect _ | .tfget _ | .drain _ | .quiesce _ => true
      | .cpym _ => c.ranks.isEmpty
      | .append _ => c.groups.isEmpty
      | .tfset _ | .tfsetOvcur _ => s.releasedBefore 3 id c
      | .mzero _ | .mzeroX4 _ | .mstat _ => s.lockClear id c && s.storesDone id c
      | _ => false

/-- The writes that lead from `s` to `t` are made in part: each byte of memory and of the block's tile memory that they change
is old or new as a free value says (R104, R327) (DESIGN CHOICE, log entry 25). -/
def State.partly (s t : State) (blk : Nat) : State :=
  let mem := (s.mem ++ t.mem).foldl (fun m e =>
    if s.freeBool (10 ^ 14 + e.1) then Memory.set m e.1 (Memory.get s.mem e.1) else m) t.mem
  let tile := fun (b : Sparse (Option Byte)) =>
    let old := ((s.blocks.get? blk).map (·.tile)).getD []
    (old ++ b).foldl (fun m e => if s.freeBool (2 * 10 ^ 14 + e.1) then Sparse.set none m e.1 (Sparse.get none old e.1) else m) b
  { t with mem := mem }.updBlock blk fun b => { b with tile := tile b.tile }

/-- The state after a part `k` of the transfer, with the events it counts: write `k` of a CPY, the next record of an ENC or a
DECT. -/
def State.wholePart (s : State) (k : Nat) (c : Cmd) : Option (State × Events) :=
  match c.ins with
  | .cpy _ => s.moveElem c c.words k
  | .enc o => s.moveEnc c o
  | .dect o => s.moveDect c o
  | _ => none

/-- The part is over. -/
def Cmd.partDone (c : Cmd) (k : Nat) (ev : Events) : Cmd :=
  { c with
    moved := (match c.ins with
      | .cpy _ => k
      | _ => c.moved.length) :: c.moved
    units := none
    events := Events.plus c.events ev }

/-- A class M command reads the byte at `k` of one of its global source ranges before it completes: each byte it reads may be
older or newer than another agent's writes (R178, R327). -/
def State.stageSource (s : State) (id k : Nat) (c : Cmd) : State :=
  let mine := (s.core c.core).locks.any fun l => l.cmd == id && l.ranges.any fun r =>
    r.space == .global && !r.dst && decide (r.lo ≤ k) && decide (k ≤ r.hi)
  if !mine || (Sparse.get none c.staged k).isSome || !s.lockClear id c || !s.storesDone id c then s
  else match s.ctxRead c.core c.cid (BitVec.ofNat 64 k) 1 with
    | .error _ => s
    | .ok bs => (s.noteCtxRead c.core c.cid (BitVec.ofNat 64 k) 1).updCmd id fun x =>
        { x with staged := Sparse.set none x.staged k bs.head? }

/-- An engine moves part of a command's transfer before the command completes, some bytes of it only or all: until the command
has completed, other cores may find any part of its writes made, and it may have read any part of its sources (R104, R178,
R196, R197, R201, R327). The overflow units of a record are allocated in a step of their own (R100)
(DESIGN CHOICE, log entry 25). -/
def State.transferPart (s : State) (id k : Nat) : State :=
  match s.cmds.get? id with
  | none => s
  | some c =>
    if !s.mayAccess id c then s
    else match c.ins with
      | .sread _ | .swrite _ | .swriteFua _ => s.stageStorage id c
      | .tfset o | .tfsetOvcur o => if s.releasedBefore 3 id c then s.partTfset id c o.t.toNat else s
      | .tfget o => s.partly (s.runTfget c o.t.toNat).1 c.blk
      | .mma _ | .mlatK _ | .mlatV _ => s.stageSource id k c
      | i =>
        let alloc := match i with
          | .enc o => if s.encTurn c o then s.moveAlloc c o else none
          | _ => none
        match alloc, s.wholePart k c with
        | some (t, cur), _ => t.updCmd id fun x => { x with units := some cur }
        | none, some (t, ev) =>
          if s.freeBool (21000000 + k) then s.partly t c.blk else t.updCmd id fun x => x.partDone k ev
        | none, none => s

/-- A gang phaser is still to be signalled (R179 step 4). -/
def gangSignal : Instr → Bool
  | .cpym o => o.gp != 0xFF
  | _ => false

/-- ENGINE_COMMAND_COMPLETE (R179) (DESIGN CHOICE, log entry 25). -/
def execEngineCommandComplete (id : Nat) (s : State) : Host.Outcome State Fault Refusal :=
  .next (match s.cmds.get? id with
    | none => s
    | some c =>
      if !s.mayComplete id c then s
      else match s.moveData id c with
        | (t, ev, none) => (t.updCmd id fun x => { x with signalDue := gangSignal x.ins }).finishCmd id ev
        | (_, _, some _) => s)

/-- The fault a command already stands with. -/
def Cmd.fault? (c : Cmd) : Option AccFault := c.fault.map fun f => ⟨f.1, f.2.1, f.2.2, none⟩

/-- ENGINE_FAULT (R180): a fault found before the first access, or one that the transfer meets. -/
def execEngineFault (id : Nat) (s : State) : Host.Outcome State Fault Refusal :=
  let t := s.resample id
  .next (match t.cmds.get? id with
    | none => s
    | some c =>
      if c.unit == .matrix || c.unit == .bound then s
      else match c.fault? with
        | some f =>
          if c.st == .queued then (if t.copyTurn id c then t.failCmd id f noEvents else t)
          else if c.st == .started then (t.partDeliver id c).failCmd id f (if c.events.isEmpty then noEvents else c.events)
          else t
        | none =>
          if !t.mayComplete id c then t
          else match t.moveData id c with
            | (u, ev, some f) => u.failCmd id f ev
            | (_, _, none) => t)

/-! ## The matrix queue (R279) -/

/-- No earlier command of the core's matrix queue is still to start. -/
def State.queueHead (s : State) (id : Nat) (c : Cmd) : Bool :=
  s.cmds.all fun e => decide (id ≤ e.1) || e.2.core != c.core || e.2.unit != .matrix || e.2.st != .queued

/-- Sub-arrays of a core that running MMAs hold. -/
def State.busySubs (s : State) (core : Nat) : BitVec 4 :=
  s.cmds.foldl (fun m e => if e.2.core = core ∧ e.2.unit = .matrix ∧ e.2.st = .started then m ||| e.2.subs else m) 0

/-- The sub-arrays an MMA of a shape takes now, if they are idle. -/
def takeSubs (busy : BitVec 4) (shape : Nat) : Option (BitVec 4) :=
  if shape = 0 then ([0, 1, 2, 3].find? fun i => !busy.getLsbD i).map fun i => 1#4 <<< i
  else if busy = 0 then some 15 else none

/-- LAT of an MMA; another command has none. -/
def latOf : Instr → Nat
  | .mma o => o.lat.toNat
  | _ => 0

/-- The half that holds the projection the command uses. -/
def State.halfOf (s : State) (c : Cmd) : Option Half :=
  c.proj.bind fun p => (s.core c.core).halves.find? fun h => h.load == p.load

/-- MMA_START (R279): the next command of the queue starts: an MMA with its sub-arrays idle and, where it has a latent
stage, with its projection there (R274); any other at once. -/
def execMmaStart (id : Nat) (s : State) : Host.Outcome State Fault Refusal :=
  let t := s.resample id
  .next (match t.cmds.get? id with
    | none => s
    | some c =>
      if c.unit != .matrix then s
      else if c.st != .queued || c.fault.isSome || !t.queueHead id c then t
      else match c.ins with
        | .mma o =>
          if o.lat ≠ 0 ∧ (t.halfOf c).isNone then t
          else match takeSubs (t.busySubs c.core) o.shape.toNat with
            | none => t
            | some m => t.updCmd id fun x => { x with st := .started, subs := m }
        | _ => t.updCmd id fun x => { x with st := .started })

/-! ## The latent stage (R273, R274) -/

/-- The d rows of a projection as its memory stands. -/
def State.projRows (s : State) (c : Cmd) (t : Tensor) : Except AccFault (List (List (BitVec 16))) :=
  (List.range (t.dim 1)).mapM fun f =>
    match s.tRead c t (t.rowAddr f) (2 * t.dim 0) with
    | .error e => Except.error e
    | .ok bs => .ok ((List.range (t.dim 0)).map fun i => BitVec.ofNat 16 (ofBytes ((bs.drop (2 * i)).take 2)))

/-- What reading a tensor's rows leaves in the caches (R21). -/
def State.noteRows (s : State) (c : Cmd) (t : Tensor) : State :=
  (List.range (t.dim 1)).foldl (fun s f => s.noteT c t (t.rowAddr f) (2 * t.dim 0)) s

/-- The load is the current projection of a warp. -/
def State.isCurrent (s : State) (load : Nat) : Bool := s.warps.any fun w => (w.2.proj.map (·.load)) == some load

/-- A running MMA uses the half. -/
def State.halfRunning (s : State) (core load : Nat) : Bool :=
  s.cmds.any fun e => e.2.core == core && e.2.unit == .matrix && e.2.st == .started && latOf e.2.ins != 0
    && (e.2.proj.map (·.load)) == some load

/-- Load a projection into the half that R274 gives it, if that is to be had now (DEDUCED, log entry 38). -/
def State.placeHalf (s : State) (core : Nat) (h : Half) : Option State :=
  let hs := (s.core core).halves
  let idle := hs.filter fun x => !s.isCurrent x.load
  if hs.length < 2 then some (s.updCore core fun k => { k with halves := k.halves ++ [h] })
  else match (match idle with
      | [] => hs.head?
      | l => l[(s.free 16000000).toNat % l.length]?) with
    | none => none
    | some v =>
      if s.halfRunning core v.load then none
      else some (s.updCore core fun k => { k with halves := (k.halves.filter fun x => x.load != v.load) ++ [h] })

/-- The projection of a latent MMA, to be read again: it stands at the head of its queue and its half has been taken
(DEDUCED, log entry 38). -/
def State.reloads (s : State) (id : Nat) (c : Cmd) : Option Proj :=
  if c.unit == .matrix && c.st == .queued && c.fault.isNone && latOf c.ins != 0 && (s.halfOf c).isNone
      && s.queueHead id c && s.lockClear id c && s.storesDone id c then c.proj
  else none

/-- A warp's current projection and the commands that stand with it name the new load. -/
def State.renameLoad (s : State) (wid old new : Nat) : State :=
  let swap := fun (p : Option Proj) => p.map fun q => if q.load = old then { q with load := new } else q
  let s := s.updWarp wid fun w => { w with proj := swap w.proj }
  { s with cmds := s.cmds.mapVals fun _ c => if c.wid = wid ∧ c.st = .queued then { c with proj := swap c.proj } else c }

/-- PROJECTION_RELOAD (R274): from the recorded entry, as its memory stands now. -/
def execProjectionReload (id : Nat) (s : State) : Host.Outcome State Fault Refusal :=
  let t := s.resample id
  .next (match t.cmds.get? id with
    | none => s
    | some c =>
      match t.reloads id c with
      | none => t
      | some p => match t.projRows c (tensorOf c.tft p.entry) with
        | .error _ => t
        | .ok rows => match (t.noteRows c (tensorOf c.tft p.entry)).placeHalf c.core ⟨t.nextId, rows⟩ with
          | none => t
          | some u => ({ u with nextId := t.nextId + 1 } : State).renameLoad c.wid p.load t.nextId)

/-- Projection entry, latent entry and side of an MLAT. -/
def mlatOf : Instr → Option (Nat × Nat × Bool)
  | .mlatK o => some (o.tp.toNat, o.tl.toNat, false)
  | .mlatV o => some (o.tp.toNat, o.tl.toNat, true)
  | _ => none

/-- An MLAT that may read its projection: started, with no earlier MLAT of its warp outstanding. -/
def State.mlatReady (s : State) (id : Nat) (c : Cmd) : Bool :=
  c.st == .started && c.fault.isNone && s.lockClear id c && s.storesDone id c
    && s.cmds.all fun e => decide (id ≤ e.1) || e.2.wid != c.wid || e.2.st == .finishing || (mlatOf e.2.ins).isNone

/-- MLAT_LOAD_COMPLETE (R273, R274, R287). -/
def execMlatLoadComplete (id : Nat) (s : State) : Host.Outcome State Fault Refusal :=
  .next (match s.cmds.get? id with
    | none => s
    | some c => match mlatOf c.ins with
      | none => s
      | some (tp, tl, v) =>
        if !s.mlatReady id c then s
        else match s.projRows c (tensorOf c.tft tp) with
          | .error _ => s
          | .ok rows => match (s.noteRows c (tensorOf c.tft tp)).placeHalf c.core ⟨id, rows⟩ with
            | none => s
            | some t => (t.updWarp c.wid fun w => { w with proj := some ⟨tp, tl, v, id⟩ }).finishCmd id noEvents)

/-! ## MMA (R267, R281, R282) -/

/-- The whole Bough table of a cb2 B: its read, and its reserved bits (R44, R94). -/
def State.boughFault (s : State) (c : Cmd) (p : Plan) : Option AccFault :=
  if !isCb2 p.b.fmt then none
  else
    let t := tensorOf c.tft p.b.bsel
    match s.tRead c t t.base 1024 with
    | .error f => some f
    | .ok bs => if (List.range 256).any fun i => bs.getD (4 * i + 3) 0 != 0 then some (cause 0x12) else none

/-- What the read of a cb2 B's Bough table leaves in the caches (R21). -/
def State.noteBough (s : State) (c : Cmd) (p : Plan) : State :=
  if isCb2 p.b.fmt then s.noteT c (tensorOf c.tft p.b.bsel) (tensorOf c.tft p.b.bsel).base 1024 else s

/-- Operands of an MMA, or its fault and whether its banks are then unspecified. -/
def State.mmaOutcome (s : State) (c : Cmd) (o : MMma) : Except (AccFault × Bool) (Plan × Operands) :=
  match planMma c o with
  | none => .error (cause 0x12, false)
  | some p => match s.boughFault c p with
    | some f => .error (f, false)
    | none =>
      let w := (((s.halfOf c).map (·.rows)).getD []).map fun r => r.map fun x => denseVal 0x08 x.toNat
      match s.operands c p w with
      | .error f => .error (f, f.cause != 0x06 && f.cause != 0x12)
      | .ok x => .ok (p, x)

/-- The operation's banks and their recorded counts (R267, R272). -/
def State.writeMma (s : State) (c : Cmd) (o : MMma) (p : Plan) (x : Operands) : State :=
  let counts := ((p.cycles x).1, p.measured x (s.free 17000000).toNat)
  (shapeOffs o.shape.toNat).zipIdx.foldl (fun s e =>
    s.updBank c.blk (o.ab.toNat + e.2) fun b =>
      { bankAfter p o.z x e.1 b with modelled := some counts.1, measured := some counts.2 }) s

/-- Banks of a faulting MMA hold unspecified values, and so do their counts (R282). -/
def State.spoilMma (s : State) (c : Cmd) (o : MMma) : State :=
  (List.range (shapeBanks o.shape.toNat)).foldl (fun s i =>
    s.updBank c.blk (o.ab.toNat + i) fun _ => ⟨none, [], none, none⟩) s

/-- An MMA may make its accesses. -/
def State.mmaReady (s : State) (id : Nat) (c : Cmd) : Bool :=
  c.st == .started && c.fault.isNone && s.lockClear id c && s.storesDone id c

/-- MMA_COMPLETE (R281). -/
def execMmaComplete (id : Nat) (s : State) : Host.Outcome State Fault Refusal :=
  .next (match s.cmds.get? id with
    | none => s
    | some c => match c.ins with
      | .mma o =>
        if !s.mmaReady id c then s
        else match s.mmaOutcome c o with
          | .error _ => s
          | .ok (p, x) => ((s.noteBough c p).writeMma c o p x).finishCmd id noEvents
      | _ => s)

/-- The fault a class M command meets in its accesses, and the state it leaves. -/
def State.matrixFails (s : State) (id : Nat) (c : Cmd) : Option (State × AccFault) :=
  match c.ins with
  | .mma o =>
    match s.reloads id c with
    | some p => match s.projRows c (tensorOf c.tft p.entry) with
      | .ok _ => none
      | .error f => some (if f.cause = 0x06 then s else s.spoilMma c o, f)
    | none =>
      if !s.mmaReady id c then none
      else match s.mmaOutcome c o with
        | .ok _ => none
        | .error (f, spoilt) => some (if spoilt then s.spoilMma c o else s, f)
  | _ => match mlatOf c.ins with
    | none => none
    | some (tp, _, _) =>
      if !s.mlatReady id c then none
      else match s.projRows c (tensorOf c.tft tp) with
        | .ok _ => none
        | .error f => some (s, f)

/-- MATRIX_FAULT (R282). -/
def execMatrixFault (id : Nat) (s : State) : Host.Outcome State Fault Refusal :=
  let t := s.resample id
  .next (match t.cmds.get? id with
    | none => s
    | some c =>
      if c.unit != .matrix then s
      else match c.fault? with
        | some f => if c.st == .queued && t.queueHead id c then t.failCmd id f noEvents else t
        | none => match t.matrixFails id c with
          | some (u, f) => u.failCmd id f noEvents
          | none => t)

/-- MBOUND_RESULT (R285): W, at most 2^32 − 1; or the fault its checks found. -/
def execMboundResult (wid id : Nat) (s : State) : Host.Outcome State Fault Refusal :=
  let t := s.resample id
  .next (match t.cmds.get? id with
    | none => s
    | some c => match c.ins with
      | .mbound o =>
        if c.wid != wid || c.st != .queued then s
        else match c.fault? with
          | some f => t.failCmd id f noEvents
          | none => match planBound c o with
            | none => t.failCmd id (cause 0x12) noEvents
            | some p =>
              (t.cmdWrite wid id (.w o.wd.toNat) 0 (BitVec.ofNat 32 (Nat.min p.bound (2 ^ 32 - 1)))).finishCmd id noEvents
      | _ => s)

end Sys2Proof.Machine
end

