-- ==== Sys2Proof/Machine/Launch.lean ====
section
/-! DEFINITION. Kernels and grids (13): the records LAUNCH reads and their checks (R333, R334), the room a block or a gang
needs (R338, R362, R363), LAUNCH (R359), dependent grids (R360, R361). -/

namespace Sys2Proof.Machine

/-! ## Records -/

def fieldOf (ws : List DWord) (i lo n : Nat) : Nat := ((ws.getD i 0).extractLsb' lo n).toNat
def bitOf (ws : List DWord) (i k : Nat) : Bool := (ws.getD i 0).getLsbD k

/-- A kernel header from its eight words (Table 13.1). -/
def kernelOf (va : DWord) (ws : List DWord) : Kernel where
  va := va
  entry := (ws.getD 0 0).truncate 48
  ncopy := fieldOf ws 1 0 8
  nmat := fieldOf ws 1 8 8
  nvec := fieldOf ws 1 16 8
  regs := fieldOf ws 1 24 8
  tile := fieldOf ws 1 32 32
  acc := fieldOf ws 2 0 3
  phn := fieldOf ws 2 8 8
  gangb := fieldOf ws 2 16 5
  span := 2 ^ fieldOf ws 2 21 3
  policy := fieldOf ws 2 24 2
  cores := bitOf ws 2 26
  migr := bitOf ws 2 27
  detk := bitOf ws 2 28
  rings := (List.range 8).map fun i => fieldOf ws 3 (8 * i) 4
  split := (List.range 4).map fun i => fieldOf ws 4 (16 * i) 16

def Kernel.warps (k : Kernel) : Nat := k.ncopy + k.nmat + k.nvec

/-- Reserved fields zero and every value in its range. -/
def kernelOk (ws : List DWord) : Bool :=
  let k := kernelOf 0 ws
  fieldOf ws 0 48 16 == 0 && decide (1 ≤ k.warps) && decide (k.warps ≤ 32) && decide (1 ≤ k.regs) && decide (k.regs ≤ 64)
    && decide (k.tile ≤ 1048576) && decide (k.acc ≤ 6) && fieldOf ws 2 3 5 == 0 && decide (k.phn ≤ 48)
    && decide (1 ≤ k.gangb) && decide (k.gangb ≤ 16) && decide (fieldOf ws 2 21 3 ≤ 4) && k.policy != 3
    && fieldOf ws 2 29 35 == 0
    && (List.range 8).all (fun i => decide (fieldOf ws 3 (8 * i) 4 ≤ 8) && fieldOf ws 3 (8 * i + 4) 4 == 0)
    && k.split.all (fun x => decide (1 ≤ x)) && ws.getD 5 0 == 0 && ws.getD 6 0 == 0 && ws.getD 7 0 == 0

/-- A grid record from its eight words (Table 13.2). -/
def gridRecOf (ws : List DWord) : GridRec where
  nx := fieldOf ws 1 0 32
  ny := fieldOf ws 1 32 32
  nz := fieldOf ws 2 0 32
  lanes := fieldOf ws 2 32 6
  pol := fieldOf ws 2 38 2
  cores := bitOf ws 2 40
  lcap := bitOf ws 2 41
  early := bitOf ws 2 42
  eqrec := bitOf ws 2 43
  gphn := fieldOf ws 2 44 3
  param := ws.getD 3 0
  psize := fieldOf ws 4 0 32
  pred := fieldOf ws 4 32 32
  start := (ws.getD 5 0).toNat
  gtgt := [fieldOf ws 6 0 32, fieldOf ws 6 32 32, fieldOf ws 7 0 32, fieldOf ws 7 32 32]

def GridRec.count (g : GridRec) : Nat := g.nx * g.ny * g.nz

def gridOk (va : DWord) (ws : List DWord) : Bool :=
  let g := gridRecOf ws
  va.toNat % 64 == 0 && fieldOf ws 0 48 16 == 0 && fieldOf ws 0 0 48 % 64 == 0
    && decide (1 ≤ g.nx) && decide (1 ≤ g.ny) && decide (1 ≤ g.nz) && decide (g.count < 2 ^ 32)
    && decide (1 ≤ g.lanes) && decide (g.lanes ≤ 32) && decide (g.gphn ≤ 4) && fieldOf ws 2 47 17 == 0
    && fieldOf ws 3 48 16 == 0 && g.param.toNat % 4 == 0 && g.psize % 4 == 0 && decide (g.psize ≤ 65536)
    && (List.range g.gphn).all fun i => decide (1 ≤ g.gtgt.getD i 0)

/-! ## Room (R71, R338) -/

/-- Resources of a core: residencies, warp slots, register-cache lines, tile bytes, accumulator banks, phasers. -/
abbrev Room := List Nat

def emptyCore : Room := [16, 64, 4096, 1048576, 6, 64]

def Kernel.need (k : Kernel) : Room :=
  [1, k.warps, k.warps * ((k.regs + 1) / 2 * 2), k.tileBytes, k.acc, k.phn + 2 * k.rings.foldl (· + ·) 0]

def Room.fits (need have_ : Room) : Bool := (need.zip have_).all fun x => decide (x.1 ≤ x.2)
def Room.times (n : Nat) (r : Room) : Room := r.map (n * ·)
def Room.plus (a b : Room) : Room := (a.zip b).map fun x => x.1 + x.2
def Room.minus (a b : Room) : Room := (a.zip b).map fun x => x.1 - x.2

/-- Phasers a gang takes on its first core. -/
def gangPhasers : Room := [0, 0, 0, 0, 0, 16]

/-- Core of the span that rank `g` goes to (R363). -/
def Kernel.spanCore (k : Kernel) (g : Nat) : Nat := g * k.span / k.gangb

/-- What one gang takes on core `i` of its span. -/
def Kernel.gangNeed (k : Kernel) (i : Nat) : Room :=
  let n := ((List.range k.gangb).filter fun g => k.spanCore g == i).length
  Room.plus (Room.times n k.need) (if i = 0 ∧ 1 < k.gangb then gangPhasers else [0, 0, 0, 0, 0, 0])

/-- `q` gangs fit on an empty span. -/
def Kernel.spanHolds (k : Kernel) (q : Nat) : Bool :=
  (List.range k.span).all fun i => Room.fits (Room.times q (k.gangNeed i)) emptyCore

/-- Gangs an empty span holds. -/
def Kernel.perSpan (k : Kernel) : Nat := ((List.range 17).filter k.spanHolds).foldl Nat.max 0

/-- Enabled cores of a die. -/
def dieCores (d : Nat) : List Nat := enabledCores.filter fun c => c / 64 == d

/-- Spans of `n` cores on the device; on the virtual device of deterministic mode (R367). -/
def spans (det : Bool) (n : Nat) : Nat :=
  if det then 128 / n else (dieCores 0).length / n + (dieCores 1).length / n

/-- Status 2 of LAUNCH (R334, R362). -/
def exceeds (det : Bool) (k : Kernel) (g : GridRec) : Bool :=
  !Room.fits k.need emptyCore || !k.spanHolds 1
    || ((k.cores || g.cores) && decide (spans det k.span * k.perSpan < g.count / k.gangb))

/-! ## Dependent grids (R360) -/

def GridState.over : GridState → Bool
  | .complete | .failed | .cancelled => true
  | _ => false

/-- Launches from grid `p` to the one that will be number `n`. -/
def launchesBack (n p : Nat) : Nat := if p < n then n - p else n + (2 ^ 32 - 1) - p

/-- The predecessor as the grid depends on it: an older or unknown one counts as Complete. -/
def State.effectivePred (s : State) (cid n p : Nat) : Nat :=
  if p = 0 ∨ 1024 < launchesBack n p ∨ (s.grid? cid p).isNone then 0 else p

/-- Every block of a grid has been placed, and has ended or is hinted. -/
def Grid.hintedAll (g : Grid) : Bool := (g.st == .running || g.st.over) && decide (g.gr.count ≤ g.hinted.length)

/-- What the predecessor asks of the grid is met (R360). -/
def State.predMet (s : State) (cid : Nat) (g : Grid) : Bool :=
  g.gr.pred == 0 || s.gridState cid g.gr.pred == .complete
    || g.gr.early && ((s.grid? cid g.gr.pred).map Grid.hintedAll).getD true

/-- GRID_CANCELLATION (R360): grids with no block placed whose predecessor has failed or was cancelled. -/
def State.cancelGrids (s : State) (cid : Nat) : State :=
  (s.ctx cid).grids.keys.foldl (fun s n =>
    match s.grid? cid n with
    | none => s
    | some g =>
      let p := s.gridState cid g.gr.pred
      if (g.st == .queued || g.st == .held) && g.gr.pred != 0 && (p == .failed || p == .cancelled) then
        let s := s.updGrid cid n fun g => { g with st := .cancelled, status := 0xFF, waiting := [] }
        s.updCtx cid fun c => { c with
          evq := if g.gr.eqrec then c.evq ++ [⟨g.record n 0xFF, none, some n⟩] else c.evq
          job := c.job.map fun j => { j with cause := if j.cause.isSome then j.cause else some 0xFF } }
      else s) s

/-! ## LAUNCH (R359) -/

def Grid.queuedOrHeld (g : Grid) : Bool := g.st == .queued || g.st == .held

/-- The grid as LAUNCH accepts it. -/
def newGrid (k : Kernel) (g : GridRec) (met : Bool) (time : Nat) : Grid where
  kernel := k
  gr := g
  st := if g.start ≠ 0 ∨ !met ∨ k.cores ∨ g.cores then .held else .queued
  status := 0
  waiting := List.range (g.count / k.gangb)
  endedBlocks := 0
  hinted := []
  gph := List.replicate g.gphn ⟨0, 0⟩
  hangSince := time
  paramSegs := []
  paramWritten := []
  rotatedAt := time
  sent := []

/-- A record that LAUNCH cannot read is status 5; an uncorrectable error terminates the context (R389). -/
def State.launchFault (s : State) (f : AccFault) : State × Nat × Nat :=
  if f.cause = 0x10 then (s.terminate s.self.cid 0x10, 0, 5) else (s.noteFault f, 0, 5)

/-- Number and status LAUNCH returns, and the state after it. -/
def State.launch (s : State) (va : DWord) : State × Nat × Nat :=
  let w := s.self
  let c := s.ctx w.cid
  let refuse := fun (n : Nat) => (s, 0, n)
  if 256 ≤ (c.grids.filter fun e => e.2.queuedOrHeld).length then refuse 4
  else match s.ownRead s.focus.wid va 64 with
    | .error f => s.launchFault f
    | .ok rb =>
      let rw := words64 rb
      let kva := BitVec.ofNat 64 (fieldOf rw 0 0 48)
      let s := s.noteCtxRead w.core w.cid va 64
      match s.ownRead s.focus.wid kva 64 with
      | .error f => s.launchFault f
      | .ok kb =>
        let s := s.noteCtxRead w.core w.cid kva 64
        let kw := words64 kb
        let k := kernelOf kva kw
        let g := gridRecOf rw
        if !gridOk va rw || !kernelOk kw || g.count % k.gangb != 0 then refuse 1
        else if k.detk && !s.det w.cid then refuse 3
        else if exceeds (s.det w.cid) k g then refuse 2
        else
          let n := c.nextGrid
          let g := { g with pred := s.effectivePred w.cid n g.pred }
          let grid := newGrid k g true s.time.toNat
          let grid := if s.predMet w.cid grid then grid else newGrid k g false s.time.toNat
          let s := s.updCtx w.cid fun c => { c with
            grids := c.grids.put n grid, nextGrid := if n + 1 = 2 ^ 32 then 1 else n + 1 }
          (s.cancelGrids w.cid, n, 0)

/-- Graft holds LAUNCH's read of the grid record or of the kernel header that it names (R313), or an older acquire does
(R320). -/
def State.launchHeld (s : State) (va : DWord) : Bool :=
  let w := s.self
  s.acquirePending || s.readHeld w.core w.cid va 64 || match s.ownRead s.focus.wid va 64 with
    | .error _ => false
    | .ok rb => s.readHeld w.core w.cid (BitVec.ofNat 64 (fieldOf (words64 rb) 0 0 48)) 64

def execLaunch (o : YLn) (s : State) : Host.Outcome State Fault Refusal :=
  let may := s.self.role == .control || ((s.gridOf? s.self).map (·.gr.lcap)).getD false
  .next (if !s.uholds o.g then s
    else if !may then s.trapWord 2 0 none none
    else if s.launchHeld (s.rdW64 o.a) then s.holdWord
    else
      let (t, n, st) := s.launch (s.rdW64 o.a)
      if t.focus.stop then t
      else (t.wr (.w o.d.toNat) 0 (BitVec.ofNat 32 n)).wr (.w (o.d.toNat + 1)) 0 (BitVec.ofNat 32 st))

/-! ## SUCCHINT and PREDWAIT -/

/-- SUCCHINT (R360): the block is hinted. -/
def execSucchint (o : YG) (s : State) : Host.Outcome State Fault Refusal :=
  .next (if !s.uholds o.g then s
    else match s.block? s.focus.wid with
      | none => s
      | some b => s.updGrid b.cid b.grid fun g =>
          { g with hinted := if g.hinted.contains b.lin then g.hinted else b.lin :: g.hinted })

/-- The clause ends in a blocking instruction: the run ends with it (R115). -/
def State.endsRun (s : State) : State := { s with focus := { s.focus with boundary := true } }

/-- The warp waits. -/
def State.block (s : State) (x : Wait) : State :=
  s.updWarp s.focus.wid fun w =>
    { w with blocked := some x, pendWord := s.focus.words.getD (s.focus.idx - 1) 0 }

/-- PREDWAIT (R361). -/
def execPredwait (o : YG) (s : State) : Host.Outcome State Fault Refusal :=
  let t := s.endsRun
  .next (if !s.uholds o.g then t
    else if s.predReady s.self then (t.block .pred).unblock s.focus.wid 3 else t.block .pred)

/-- Complete the PREDWAITs that a grid's completion satisfies. -/
def State.wakePred (s : State) : State :=
  s.warps.keys.foldl (fun s wid =>
    if (s.warp wid).blocked = some .pred ∧ s.predReady (s.warp wid) then s.unblock wid 3 else s) s

end Sys2Proof.Machine
end

