-- ==== Sys2Proof/Machine/Control.lean ====
section
/-! DEFINITION. Class Y (13, 14): phasers, rings, time, the event queue, performance levels, control and status
registers, TRAP, BKPT and RTE. -/

namespace Sys2Proof.Machine

/-! ## Phasers (R348 to R351) -/

/-- Block or gang phaser `n` of the executing warp's block: outside PHN, or of a block without a gang, there is none. -/
def State.ownPhaser (s : State) (n : Nat) : Option Phaser := (s.block? s.focus.wid).bind fun b => s.phaser? b n

/-- Grid phaser `n` − 64, if GPHN covers it. -/
def State.hasGridPhaser (s : State) (n : Nat) : Bool :=
  ((s.gridOf? s.self).map fun g => decide (64 ≤ n) && decide (n < 64 + g.gr.gphn)).getD false

/-- The executing instruction is illegal as it issues (R351). -/
def State.illegal (s : State) : State := s.trapWord 2 0 none none

/-- Replace a phaser of the executing warp's block and complete the waits that this satisfies. -/
def State.putPhaser (s : State) (n : Nat) (p : Phaser) : State := (s.setPhaser s.self.blk n p).wake

/-- PHREG in a mode (R348). -/
def State.phreg (s : State) (o : YX) (m : PhMode) : State :=
  if !s.uholds o.g then s
  else match if 64 ≤ o.x.toNat then none else s.ownPhaser o.x.toNat with
    | none => s.illegal
    | some p => s.putPhaser o.x.toNat (p.register s.focus.wid m)

def execPhregSo (o : YX) (s : State) : Host.Outcome State Fault Refusal := .next (s.phreg o .so)
def execPhregWo (o : YX) (s : State) : Host.Outcome State Fault Refusal := .next (s.phreg o .wo)
def execPhregSw (o : YX) (s : State) : Host.Outcome State Fault Refusal := .next (s.phreg o .sw)

def execPhdrop (o : YX) (s : State) : Host.Outcome State Fault Refusal :=
  .next (if !s.uholds o.g then s
    else match if 64 ≤ o.x.toNat then none else s.ownPhaser o.x.toNat with
      | none => s.illegal
      | some p => s.putPhaser o.x.toNat (p.drop s.focus.wid))

/-- What the executing warp may do with a phaser: signal it, wait on it. -/
def State.mayPhase (s : State) (n : Nat) (signal wait : Bool) : Bool :=
  if 64 ≤ n then s.hasGridPhaser n
  else match (s.ownPhaser n).bind fun p => p.reg? s.focus.wid with
    | some r => (!signal || r.signals) && (!wait || r.waits)
    | none => false

/-- The signal has to wait where it stands: its release is not complete, or A is 255 (R349). -/
def State.signalHeld (s : State) (n : Nat) : Bool :=
  !s.releasedAt s.focus.wid (phScope n)
    || decide (n < 64) && (((s.ownPhaser n).bind fun p => p.reg? s.focus.wid).map fun r => decide (255 ≤ r.a)).getD false

/-- One signal on a phaser by the executing warp. -/
def State.signalPhaser (s : State) (n : Nat) : State :=
  let w := s.self
  if 64 ≤ n then s.updGrid w.cid w.grid fun g => g.arrive (n - 64) else s.phaserSignal w.blk n s.focus.wid

/-- A phase of grid phaser `n` has completed that the warp has not waited for yet (R345, R346). -/
def State.gridPassed (s : State) (wid n : Nat) : Bool :=
  let w := s.warp wid
  decide (64 ≤ n) && ((s.gridOf? w).map fun g => (g.phaser (n - 64)).phase != w.gepOf (n - 64)).getD false

/-- A wait on grid phaser `n` completes: EP := EP + 1, an acquire at .dev. -/
def State.passGrid (s : State) (wid n : Nat) : State :=
  (s.updWarp wid fun w => { w with gep := Sparse.set 0 w.gep (n - 64) (w.gepOf (n - 64) + 1) }).unblock wid 3

/-- The executing warp waits on a phaser. A wait satisfied already completes at once (R349); the warps that a grid
phaser's phase releases are admitted by the slew limiter (R369). `passed`: the phase had completed before
(DEDUCED, log entry 41). -/
def State.waitPhaser (s : State) (n : Nat) (passed : Bool) : State :=
  let t := s.block (.phaser n)
  if passed then t.passGrid s.focus.wid n else t.wakeWarp s.focus.wid

def execPhsig (o : YX) (s : State) : Host.Outcome State Fault Refusal :=
  let n := o.x.toNat
  .next (if !s.uholds o.g then s
    else if !s.mayPhase n true false then s.illegal
    else if s.signalHeld n then s.holdWord
    else s.signalPhaser n)

def execPhwait (o : YX) (s : State) : Host.Outcome State Fault Refusal :=
  let n := o.x.toNat
  .next (if !s.uholds o.g then s.endsRun
    else if !s.mayPhase n false true then s.illegal
    else s.endsRun.waitPhaser n (s.gridPassed s.focus.wid n))

/-- PHSW: PHSIG followed by PHWAIT, as one instruction (R349). -/
def execPhsw (o : YX) (s : State) : Host.Outcome State Fault Refusal :=
  let n := o.x.toNat
  .next (if !s.uholds o.g then s.endsRun
    else if !s.mayPhase n true true then s.illegal
    else if s.signalHeld n then s.holdWord
    else (s.endsRun.signalPhaser n).waitPhaser n (s.gridPassed s.focus.wid n))

/-- PHGET's word (R350). -/
def phgetWord (phase : BitVec 16) (a : Nat) (mode : BitVec 2) (pending : Bool) : Word :=
  0#5 ++ (BitVec.ofBool pending ++ (mode ++ (BitVec.ofNat 8 a ++ phase)))

def modeCode : Option PhMode → BitVec 2
  | none => 0
  | some .so => 1
  | some .wo => 2
  | some .sw => 3

def State.phget (s : State) (n : Nat) : Option Word :=
  if 64 ≤ n then
    if s.hasGridPhaser n then (s.gridOf? s.self).map fun g => phgetWord (g.phaser (n - 64)).phase 0 3 false else none
  else (s.ownPhaser n).map fun p => match p.reg? s.focus.wid with
    | none => phgetWord p.phase 0 0 false
    | some r => phgetWord p.phase r.a (modeCode r.mode) r.pending.isSome

def execPhget (o : YPg) (s : State) : Host.Outcome State Fault Refusal :=
  .next (if !s.uholds o.g then s
    else match s.phget o.x.toNat with
      | none => s.illegal
      | some x => s.wr (.w o.d.toNat) 0 x)

/-! ## Rings (R352, R353) -/

/-- RACQ: the cursor is taken and advanced, the side recorded; the warp waits until its stage is empty or full. -/
def State.racq (s : State) (o : YRg) (consumer : Bool) : State :=
  let n := o.r.toNat
  if !s.uholds o.g then s.endsRun
  else match s.block? s.focus.wid with
    | none => s.illegal
    | some b =>
      if !b.declares n then s.illegal
      else match b.rings[n]? with
        | none => s.illegal
        | some r =>
          let c := r.cursor consumer
          let s := s.endsRun.updBlock s.self.blk fun b => { b with rings := b.rings.set n (r.take consumer) }
          let s := s.updWarp s.focus.wid fun w => { w with
            side := if consumer then w.side ||| (1#8 <<< n) else w.side &&& ~~~(1#8 <<< n) }
          (s.block (.ring n c.idx c.lap consumer)).wakeWarp s.focus.wid

/-- RREL: a release at .blk. -/
def State.rrel (s : State) (o : YRg) (consumer : Bool) : State :=
  let n := o.r.toNat
  if !s.uholds o.g then s
  else match s.block? s.focus.wid with
    | none => s.illegal
    | some b =>
      if !b.declares n then s.illegal
      else if !s.releasedAt s.focus.wid 0 then s.holdWord
      else s.ringRelease s.self.blk n consumer

def execRacqP (o : YRg) (s : State) : Host.Outcome State Fault Refusal := .next (s.racq o false)
def execRacqC (o : YRg) (s : State) : Host.Outcome State Fault Refusal := .next (s.racq o true)
def execRrelP (o : YRg) (s : State) : Host.Outcome State Fault Refusal := .next (s.rrel o false)
def execRrelC (o : YRg) (s : State) : Host.Outcome State Fault Refusal := .next (s.rrel o true)

/-! ## Time (R371, R372) -/

def execTime (o : YD) (s : State) : Host.Outcome State Fault Refusal :=
  .next (if s.uholds o.g then s.wr64 o.d.toNat s.time else s)

/-- A TWAIT for a time that has passed completes (R372). -/
def State.wakeTime (s : State) (wid : Nat) : State :=
  match (s.warp wid).blocked with
  | some (.time t) => if t.ule s.time then s.unblock wid 0 else s
  | _ => s

def execTwait (o : YA) (s : State) : Host.Outcome State Fault Refusal :=
  .next (if s.uholds o.g then (s.endsRun.block (.time (s.rdW64 o.a))).wakeTime s.focus.wid else s.endsRun)

/-! ## The event queue (R355, R356) -/

/-- A fault on the event queue is a precise trap 0x05 or 0x06 (R358). -/
def State.queueTrap (s : State) (f : AccFault) : State := (s.noteFault f).trapWord f.cause f.reason (some f.addr) none

/-- Min(PUT − GET, 2^32 − 1). -/
def eventCount (put get : DWord) : Word := BitVec.ofNat 32 (Nat.min (put - get).toNat (2 ^ 32 - 1))

/-- EVWAIT (R356). -/
def execEvwait (o : YD) (s : State) : Host.Outcome State Fault Refusal :=
  let w := s.self
  .next (if !s.uholds o.g then s.endsRun
    else if s.acquirePending || s.readHeld w.core w.cid (s.eqBase w.cid) 16 then s.holdWord
    else match s.eqCounts w.core w.cid with
      | .error f => s.queueTrap f
      | .ok (p, g) =>
        let t := (s.noteCounts w.core w.cid).endsRun.block (.event o.d.toNat s.focus.idx)
        if p = g then t else (t.unblock s.focus.wid 3).wr (.w o.d.toNat) 0 (eventCount p g))

/-- Four words to wd and the three registers after it. -/
def State.wrQuad (s : State) (d : Reg) (bs : List Byte) : State :=
  (List.range 4).foldl (fun t i => t.wr (.w (d.toNat + i)) 0 (BitVec.ofNat 32 (ofBytes ((bs.drop (4 * i)).take 4)))) s

/-- EVPOP (R356): one operation at the home L2, after the warp's older acquires (R320). -/
def execEvpop (o : YD) (s : State) : Host.Outcome State Fault Refusal :=
  let w := s.self
  .next (if !s.uholds o.g then s
    else if s.acquirePending || s.readHeld w.core w.cid (s.eqBase w.cid) 16 then s.holdWord
    else match s.eqCounts w.core w.cid with
      | .error f => s.queueTrap f
      | .ok (p, g) =>
        if p = g then (s.noteCounts w.core w.cid).wrQuad o.d []
        else if s.readHeld w.core w.cid (s.eqRecord w.cid g) 16 then s.holdWord
        else match s.ctxRead w.core w.cid (s.eqRecord w.cid g) 16 with
          | .error f => s.queueTrap f
          | .ok bs => match ((s.noteCounts w.core w.cid).noteCtxRead w.core w.cid (s.eqRecord w.cid g) 16).ctxWrite w.core w.cid (s.eqBase w.cid + 8)
              (bytes64 (g + 1)) with
            | .error f => s.queueTrap f
            | .ok t => (t.wrQuad o.d bs).acquire w.core 3)

/-! ## Performance level (R370) -/

/-- PLVL: the largest va[3:0] over the threads of the run, helpers included. -/
def execPlvl (o : YA) (s : State) : Host.Outcome State Fault Refusal :=
  let level := ((lanesOf s.focus.lanes).map fun l => (s.rdV o.a l).toNat % 16).foldl Nat.max 0
  .next (if s.uholds o.g then s.setSelf { s.self with perfLvl := BitVec.ofNat 4 level } else s)

/-! ## Control and status registers (Table 5.12, R386) -/

/-- The level in effect on the warp's cluster (R370). -/
def State.levelOf (s : State) (cluster : Nat) : BitVec 4 := Sparse.get 8 s.clusterLevel cluster

/-- PERFREQ (Table 13.12). -/
def State.perfreq (s : State) (w : Warp) : Word :=
  0#20 ++ (s.levelOf (clusterOfCore w.core) ++ (0#4 ++ w.perfLvl))

def State.csr (s : State) (w : Warp) (n : Nat) : Word :=
  match n with
  | 0x00 => w.mode
  | 0x01 => w.part
  | 0x02 => w.trapen
  | 0x03 => w.trapinfo0
  | 0x04 => w.trapinfo1
  | 0x05 => w.trapaddr.truncate 32
  | 0x06 => (w.trapaddr >>> 32).truncate 32
  | 0x07 => w.flagstat
  | 0x08 => s.perfreq w
  | 0x09 => w.rlockst
  | _ => w.samplecfg

def execCsrr (o : YCr) (s : State) : Host.Outcome State Fault Refusal :=
  .next (if s.uholds o.g then s.wr (.w o.d.toNat) 0 (s.csr s.self o.csr.toNat) else s)

/-- A CSR after a write: reserved fields keep what they hold (R4); none where the write is illegal. -/
def Warp.csrWrite (w : Warp) (n : Nat) (x : Word) : Option Warp :=
  match n with
  | 0x00 => some { w with mode := x &&& 0x00003F7F }
  | 0x01 => if [2, 4, 8, 16, 32].contains (x.toNat % 64) then some { w with part := x &&& 0x3F } else none
  | 0x02 => some { w with trapen := x &&& 0x200 }
  | 0x08 => some { w with perfLvl := x.truncate 4 }
  | 0x0A => if w.inHandler then some { w with samplecfg := x &&& 0x1F } else none
  | _ => none

def execCsrw (o : YCw) (s : State) : Host.Outcome State Fault Refusal :=
  .next (if !s.uholds o.g then s
    else match s.self.csrWrite o.csr.toNat (s.rdW o.a) with
      | none => s.illegal
      | some w => s.setSelf w)

/-! ## TRAP, BKPT, RTE (R387, R388) -/

/-- The trap is taken after the clause, with resume at the next one. -/
def execTrap (o : YN) (s : State) : Host.Outcome State Fault Refusal :=
  .next (if s.uholds o.g then { s with focus := { s.focus with after := some (0x0D, o.n.zeroExtend 8) } } else s)

def execBkpt (o : YN) (s : State) : Host.Outcome State Fault Refusal :=
  .next (if s.uholds o.g then { s with focus := { s.focus with after := some (0x0C, o.n.zeroExtend 8) } } else s)

def execRte (o : YG) (s : State) : Host.Outcome State Fault Refusal :=
  .next (if !s.uholds o.g then s
    else if s.self.inHandler then (s.leaveHandler s.focus.wid).stopRun s.focus.wid
    else s.illegal)

end Sys2Proof.Machine
end

