-- ==== Sys2Proof/Machine/Select.lean ====
section
/-! DEFINITION. Events of issue (05, 09, 13): the choice of a warp by an issue slot and by a control core, the fetch of its
clause, the parking of a spinning run, register-cache fills, the end of timed waits and of grid barriers. An event whose
condition does not hold leaves the state as it is. -/

namespace Sys2Proof.Machine

/-! ## Issue slots -/

/-- A warp blocked in EVWAIT looks at the queue again (R356): with PUT ≠ GET its wait completes; a fault is a precise trap
on the instruction (R358); Graft may hold the read (R313). One that is back in a PREDWAIT (R390) looks at the predecessor
again. -/
def State.pollEvent (s : State) (wid : Nat) : State :=
  let w := s.warp wid
  match w.blocked with
  | some .pred => if s.predReady w then s.unblock wid 3 else s
  | some (.event d word) =>
    if s.readHeld w.core w.cid (s.eqBase w.cid) 16 then s
    else match s.eqCounts w.core w.cid with
    | .error f => ((s.noteFault f).updWarp wid fun w => { w with blocked := none }).trap wid
        ⟨f.cause, f.reason, f.addr, none, some word, none, false, w.lastRun, .rpc⟩
    | .ok (p, g) =>
      let s := s.noteCounts w.core w.cid
      if p = g then s
      else (s.unblock wid 3).updWarp wid fun w => w.write (w.named (.w d)) 0 (eventCount p g) (s.freeWord 8192)
  | _ => s

/-- The warps of an age list, front first. -/
def State.ageList (s : State) (core slot : Nat) : List Nat := (s.core core).age.getD slot []

/-- SELECT_RUN (R343): a free slot takes the first Ready warp of its age list. -/
def execSelectRun (core slot : Nat) (s : State) : Host.Outcome State Fault Refusal :=
  .next (if (s.runs.get? (slotKey core slot)).isSome || decide (128 ≤ core) then s
    else
      let list := s.ageList core slot
      let t := list.foldl (fun t w => t.pollEvent w) s
      match list.find? t.readyWarp with
      | none => t
      | some wid => t.openRun wid core slot)

/-- CONDUCTOR_RUN (R354): the control core of a die takes a run of a context's conductor, conductors in turn. -/
def execConductorRun (die cid : Nat) (s : State) : Host.Outcome State Fault Refusal :=
  let core := 128 + die
  .next (if (s.runs.get? (slotKey core 0)).isSome || decide (2 ≤ die) then s
    else
      let list := s.ageList core 0
      let t := list.foldl (fun t w => t.pollEvent w) s
      match list.find? t.readyWarp with
      | none => t
      | some wid => if (t.warp wid).cid = cid then t.openRun wid core 0 else t)

/-- CLAUSE_FETCH (R107): the first clause of the head run; a fault there traps the head run's threads once nothing else
keeps the warp from issuing. -/
def execClauseFetch (wid : Nat) (s : State) : Host.Outcome State Fault Refusal :=
  let w := s.warp wid
  let (pc, threads) := w.headRun
  .next (if w.life != .resident || w.issuing == 0 || s.hasRun wid || (w.fetched.map (·.addr)) == some pc then s
    else match s.fetchClause w pc with
      | .ok (t, f) => if s.fetchHeld w pc f.words.length then s else t.updWarp wid fun w => { w with fetched := some f }
      | .error e =>
        if w.blocked.isSome || w.boundaryTrap.isSome || w.crossing.isSome || (w.draining && !w.drained) || w.unanswered then s
        else s.fetchTrap wid threads pc e)

/-- BBC_PARK (R239): the threads that branched backward are parked, BBC is 0, and the run ends: either none of its threads
is left live and unparked, or the branch has left them at more than one PC (R115, R237). -/
def execBbcPark (core slot : Nat) (s : State) : Host.Outcome State Fault Refusal :=
  .next (match s.runs.get? (slotKey core slot) with
    | none => s
    | some r =>
      if r.bbcDue = 0 then s
      else ((({ s with focus := { r with bbcDue := 0 } } : State).updWarp r.wid fun w =>
          { w with pk := w.pk ||| r.bbcDue, bbc := 0 }).endRun).store)

/-! ## The register cache (R71 to R73) -/

/-- Address of the warp-image pool of a context on a die (R74). -/
def State.imageBase (s : State) (cid die : Nat) : Nat := ((s.desc cid (1 + die)).extractLsb' 21 25).toNat * 2 ^ 21

/-- Physical address of a warp's register image, and of its control image (R72). -/
def State.regImage (s : State) (w : Warp) : Nat := s.imageBase w.cid w.image.1 + w.image.2 * 0x2000
def State.ctlImage (s : State) (w : Warp) : Nat := s.imageBase w.cid w.image.1 + 0x2000000 + w.image.2 * 0x400

/-- A register line is written back to its image if it is dirty (R73). -/
def State.writeBack (s : State) (wid reg : Nat) : State :=
  let w := s.warp wid
  if w.dirty.getLsbD reg then
    (s.homeWrite (s.regImage w + 128 * reg) ((List.range 32).flatMap fun l => bytes32 (w.getV reg l))).updWarp wid
      fun w => { w with dirty := w.dirty &&& ~~~(1#64 <<< reg) }
  else s

/-- Keys of the evictable lines of a core. -/
def State.evictable (s : State) (core : Nat) : List Nat := ((s.core core).rlines.filter fun e => e.2).map (·.1)

/-- Make room for `n` more lines: evictable ones go, written back where they are dirty; which, is left open. -/
def State.roomLines (s : State) (core n : Nat) : (fuel : Nat) → State
  | 0 => s
  | fuel + 1 =>
    if (s.core core).rlines.length + n ≤ 4096 then s
    else
      let l := s.evictable core
      match l[(s.free (19000000 + fuel)).toNat % l.length]? with
      | none => s
      | some k =>
        ((s.writeBack (k / 64) (k % 64)).updCore core fun c => { c with rlines := c.rlines.erase k }).roomLines core n fuel

/-- Lines taken for registers of a resident warp. -/
def State.takeLines (s : State) (core : Nat) (keys : List Nat) : State :=
  let s := s.roomLines core keys.length 4096
  s.updCore core fun c => { c with rlines := keys.foldl (fun m k => Tbl.put m k false) c.rlines }

/-- The register of a warp as its image slot has it (R72). -/
def State.loadRegister (s : State) (wid reg : Nat) : State :=
  let a := s.regImage (s.warp wid) + 128 * reg
  let bs := s.memBytes a 128
  (s.noteHome a 128 false).updWarp wid fun w =>
    { (List.range 32).foldl (fun x l => x.setV reg l (BitVec.ofNat 32 (ofBytes ((bs.drop (4 * l)).take 4)))) w with
      dirty := w.dirty &&& ~~~(1#64 <<< reg) }

/-- REGISTER_CACHE_FILL (R73): a line is taken for the register and filled from the image slot, through its home L2; an
uncorrectable error there terminates the context (R389). -/
def execRegisterCacheFill (core wid reg : Nat) (s : State) : Host.Outcome State Fault Refusal :=
  let w := s.warp wid
  let k := 64 * wid + reg
  .next (if w.life != .resident || w.core != core || w.role == .control || decide (w.regs ≤ reg)
        || ((s.core core).rlines.get? k).isSome then s
    else if s.isBad (s.regImage w + 128 * reg) 128 then s.terminate w.cid 0x10
    else (s.takeLines core [k]).loadRegister wid reg)

/-! ## Limits, time, grid barriers -/

/-- CONVERSION_LIMIT_CROSSING (R42): trap 0x0A falls due at a run boundary, for every counter crossed, with the earliest
counting clause. -/
def execConversionLimitCrossing (wid : Nat) (s : State) : Host.Outcome State Fault Refusal :=
  .next (s.updWarp wid fun w =>
    match w.crossing with
    | none => w
    | some c => { w with
        crossing := none
        pend0A := some (match w.pend0A with
          | none => c
          | some p => ⟨p.cause ||| c.cause, p.addr⟩) })

/-- TWAIT_DEADLINE (R372). -/
def execTwaitDeadline (wid : Nat) (s : State) : Host.Outcome State Fault Refusal := .next (s.wakeTime wid)

/-- A of SLEWCTL (R369): clusters admitted in one window. -/
def State.slewLimit (s : State) (die : Nat) : Nat :=
  let a := ((s.ctlWord die 0x2000).extractLsb' 0 6).toNat
  if 1 ≤ a ∧ a ≤ 32 then a else 32

/-- Grid phaser a warp is to be admitted from: its phase has completed. -/
def State.admissible (s : State) (cid grid : Nat) (e : Nat × Warp) : Option (Nat × Nat) :=
  match e.2.blocked with
  | some (.phaser n) =>
    if e.2.cid = cid ∧ e.2.grid = grid ∧ e.2.life = .resident ∧ s.gridPassed e.1 n then some (e.1, n) else none
  | _ => none

/-- Clusters with a warp to admit, in ascending (die, cluster) order. -/
def State.slewClusters (s : State) (l : List (Nat × Nat)) : List Nat :=
  (List.range 32).filter fun c => l.any fun e => clusterOfCore (s.warp e.1).core == c

/-- SLEW_ADMISSION (R369): one window's clusters. -/
def execSlewAdmission (cid grid : Nat) (s : State) : Host.Outcome State Fault Refusal :=
  let l := s.warps.filterMap (s.admissible cid grid)
  let cs := s.slewClusters l
  let now := cs.take (s.slewLimit (cs.headD 0 / 16))
  .next ((l.filter fun e => now.contains (clusterOfCore (s.warp e.1).core)).foldl (fun t e => t.passGrid e.1 e.2) s)

end Sys2Proof.Machine
end

