-- ==== Sys2Proof/Machine/Image.lean ====
section
/-! DEFINITION. What the images of a saved block hold (14, Tables 14.6 to 14.8), byte by byte. -/

namespace Sys2Proof.Machine

/-! ## The warp control image (Table 14.6) -/

/-- State of a lane: 00 live, 01 helper, 10 ended. -/
def Warp.laneState (w : Warp) (l : Nat) : BitVec 2 :=
  if w.live.getLsbD l then 0 else if w.helper.getLsbD l then 1 else 2

/-- PCT: 16 bytes a lane. -/
def Warp.pctBytes (w : Warp) : List Byte :=
  (List.range 32).flatMap fun l =>
    toBytes 6 (w.pcOf l).toNat ++ toBytes 6 (w.rpcOf l).toNat
      ++ [0#5 ++ (w.laneState l ++ BitVec.ofBool (w.pk.getLsbD l)), 0, 0, 0]

/-- WST: blocked, trap pending at a run boundary. -/
def Warp.wst (w : Warp) : Byte := 0#6 ++ (BitVec.ofBool w.boundaryTrap.isSome ++ BitVec.ofBool w.blocked.isSome)

/-- FLAGS, K, BBC, WST, SIDE; k7 reads true (R134). -/
def Warp.flagBytes (w : Warp) : List Byte := bytes32 w.flagstat ++ [w.k ||| 0x80, w.bbc, w.wst, w.side]

/-- WARG: a TWAIT's deadline, a RACQ's stage and lap. -/
def Warp.warg (w : Warp) : DWord :=
  match w.blocked with
  | some (.time t) => t
  | some (.ring _ i lap _) => BitVec.ofNat 64 (i + (if lap then 8 else 0))
  | _ => 0

/-- LSTG: the current projection (R273). -/
def Warp.lstg (w : Warp) : Word :=
  match w.proj with
  | none => 0
  | some p => 0#14 ++ (1#1 ++ (BitVec.ofBool p.vside ++ (BitVec.ofNat 8 p.latent ++ BitVec.ofNat 8 p.entry)))

/-- PENDT and PADDR. -/
def Warp.pendt (w : Warp) : Word :=
  match w.boundaryTrap with
  | none => 0
  | some (code, p) => 0#16 ++ (p.cause ++ code)

def Warp.paddr (w : Warp) : DWord := (w.boundaryTrap.map fun x => x.2.addr).getD 0

/-- The 1 KiB control image of a warp; PERFREQ is the CSR as it reads on its core. -/
def Warp.ctlBytes (w : Warp) (perfreq : Word) : List Byte :=
  w.pctBytes ++ (List.range 64).flatMap (fun n => bytes32 (Sparse.get 0 w.w n))
    ++ (List.range 8).flatMap (fun n => bytes32 (Sparse.get 0 w.hw n))
    ++ (List.range 32).flatMap (fun l => toBytes 2 (Sparse.get 0 w.p l).toNat)
    ++ w.flagBytes ++ bytes32 w.mode ++ bytes32 w.part ++ bytes32 w.trapen ++ bytes32 w.trapinfo0
    ++ bytes32 w.trapinfo1 ++ bytes32 w.rlockst ++ bytes64 w.trapaddr ++ bytes32 perfreq ++ bytes32 w.samplecfg
    ++ (List.range 12).flatMap (fun f => toBytes 4 (Sparse.get 0 w.frpc f).toNat)
    ++ bytes32 (if w.blocked.isSome then w.pendWord else 0) ++ bytes32 0 ++ bytes64 w.warg ++ bytes32 w.lstg
    ++ bytes32 w.pendt ++ (List.range 4).flatMap (fun i => toBytes 2 (w.gepOf i).toNat) ++ bytes64 w.paddr
    ++ List.replicate 24 0

/-! ## The block control record (Table 14.8) -/

/-- Index and lap of a cursor. -/
def Cursor.byte (c : Cursor) : Byte := BitVec.ofNat 8 (c.idx % 8 + (if c.lap then 8 else 0))

/-- RINGS: 64 bytes a ring. -/
def Ring.bytes (r : Ring) : List Byte :=
  [BitVec.ofNat 8 r.stages, r.pa.byte, r.pr.byte, r.ca.byte, r.cr.byte, 0, 0, 0]
    ++ (List.range 8).flatMap (fun i => toBytes 2 (r.count true i).toNat)
    ++ (List.range 8).flatMap (fun i => toBytes 2 (r.count false i).toNat) ++ List.replicate 24 0

/-- The eight rings of a block. -/
def Block.ringBytes (b : Block) : List Byte :=
  (List.range 8).flatMap fun i => match b.rings[i]? with
    | some r => r.bytes
    | none => List.replicate 64 0

/-- PHS: phase and allocated. -/
def phsBytes : Option Phaser → List Byte
  | none => List.replicate 8 0
  | some p => bytes64 (BitVec.ofNat 64 (p.phase.toNat + 65536))

/-- Phasers 0 to 63 of a block; 48 to 63 in the rank-0 block of a gang. -/
def State.imagePhaser (s : State) (b : Block) (n : Nat) : Option Phaser :=
  if 48 ≤ n ∧ b.rank ≠ 0 then none else s.phaser? b n

def PhChange.code : Option PhChange → BitVec 2 × BitVec 2
  | none => (0, 0)
  | some (.register m) => (1, modeCode (some m))
  | some .drop => (2, 0)
  | some (.change m) => (3, modeCode (some m))

/-- REGS: a warp's registration on a phaser. -/
def regBytes : Option PhReg → List Byte
  | none => [0, 0, 0, 0]
  | some r =>
    let c := PhChange.code r.pending
    bytes32 (r.ep ++ (BitVec.ofNat 8 r.a ++ (0#2 ++ (c.2 ++ (c.1 ++ modeCode r.mode)))))

/-- FERR: a flag's error status. -/
def ferrBytes : Option FlagErr → List Byte
  | none => List.replicate 8 0
  | some e => bytes64 (e.code ++ (e.cause ++
    (if e.code = 8 ∧ 4 ≤ e.cause.toNat ∧ e.cause.toNat ≤ 6 then e.addr.truncate 48 else 0#48)))

/-- `n` entries of a list of warps, by index. -/
def perWarp (ws : List Nat) (n : Nat) (f : Option Nat → List Byte) : List Byte :=
  (List.range n).flatMap fun k => f ws[k]?

/-- The block control record, 16 KiB. -/
def State.blockRecord (s : State) (b : Block) : List Byte :=
  let k? := (s.grid? b.cid b.grid).map (·.kernel)
  let phn := (k?.map (·.phn)).getD 0
  toBytes 4 b.grid ++ toBytes 4 b.lin ++ bytes64 ((k?.map (·.va)).getD 0) ++ toBytes 4 b.inbound
    ++ bytes32 (BitVec.ofNat 8 b.rank ++ (0#5 ++ (BitVec.ofNat 3 b.acc.length ++ (BitVec.ofNat 8 phn
      ++ BitVec.ofNat 8 b.warps.length))))
    ++ toBytes 8 ((k?.map Kernel.tileBytes).getD 0)
    ++ perWarp b.warps 32 (fun w => toBytes 2 ((w.map fun x => (s.warp x).image.2).getD 0))
    ++ (List.range 6).flatMap (fun a => match b.acc[a]? with
      | some x => bytes32 (s.countWord (2 * a) x.modelled) ++ bytes32 (s.countWord (2 * a + 1) x.measured)
      | none => List.replicate 8 0)
    ++ List.replicate 112 0 ++ b.ringBytes ++ (List.range 64).flatMap (fun n => phsBytes (s.imagePhaser b n))
    ++ List.replicate 768 0
    ++ (List.range 64).flatMap (fun n => perWarp b.warps 32 fun w =>
      regBytes (w.bind fun x => (s.phaser? b n).bind fun p => p.reg? x))
    ++ perWarp b.warps 32 (fun w => (List.range 12).flatMap fun f =>
      ferrBytes (w.bind fun x => (s.warp x).ferr.get? f))
    ++ List.replicate 3072 0

/-! ## Writing the images (R394) -/

/-- Control images of a block's warps, in the pools of their slots. -/
def State.writeCtl (s : State) (b : Block) : State :=
  b.warps.foldl (fun s wid => let w := s.warp wid; s.homeWrite (s.ctlImage w) (w.ctlBytes (s.perfreq w))) s

/-- The tile image: the allocation. -/
def State.writeTile (s : State) (blk : Nat) (img bytes : Nat) : State := s.homeWrite img (s.tileBytes blk 0 bytes)

/-- The accumulator banks. -/
def State.writeBanks (s : State) (blk img n : Nat) : State :=
  (List.range n).foldl (fun s a => s.homeWrite (img + 0x100000 + a * 0x20000)
    ((List.range 32768).flatMap fun i => bytes32 (s.accWord blk a i))) s

/-- The block image of a block (DEDUCED, log entry 46). -/
def State.writeImage (s : State) (blk : Nat) (b : Block) (img : Nat) : State :=
  let tile := ((s.grid? b.cid b.grid).map fun g => g.kernel.tileBytes).getD 0
  let s := (s.writeCtl b).writeTile blk img tile
  (s.writeBanks blk img b.acc.length).homeWrite (img + 0x1C0000) (s.blockRecord b)

end Sys2Proof.Machine
end

