-- ==== Sys2Proof/Machine/Distributor.lean ====
section
/-! DEFINITION. The distributors and the ends of things (13): event records, START, placement (R338, R339, R362, R363,
R367), the end of warps, blocks, grids and jobs (R340, R337). An event whose condition does not hold leaves the state as
it is. -/

namespace Sys2Proof.Machine

/-! ## Grids come to rest -/

/-- Nothing holds the grid any longer but its turn (Table 13.7). -/
def State.startable (s : State) (cid : Nat) (g : Grid) : Bool :=
  g.queuedOrHeld && g.gr.start == 0 && s.predMet cid g && !g.kernel.cores && !g.gr.cores

/-- Held grids whose hold is over are Queued. -/
def State.settleHeld (s : State) (cid : Nat) : State :=
  s.updCtx cid fun c => { c with grids := c.grids.mapVals fun _ g =>
    if g.st == .held && s.startable cid g then { g with st := .queued } else g }

/-- A grid is Complete or Failed (R340): its successors and its PREDWAITs go on, a failure is the job's cause. -/
def State.finishGrid (s : State) (cid n : Nat) : State :=
  match s.grid? cid n with
  | none => s
  | some g =>
    let ok := g.status == 0
    let s := s.updGrid cid n fun g => { g with st := if ok then .complete else .failed }
    let s := if ok then s else s.updCtx cid fun c => { c with
      job := c.job.map fun j => { j with cause := if j.cause.isSome then j.cause else some g.status } }
    ((s.cancelGrids cid).settleHeld cid).wakePred

/-! ## Event records (R355) -/

/-- The release of a record is complete: a command's covers its warp's older accesses (R319). -/
def State.recordReleased (s : State) (r : EventRec) : Bool :=
  match r.cmd.bind fun id => (s.cmds.get? id).map fun c => (id, c) with
  | some (id, c) => s.releasedBefore 3 id c
  | none => true

/-- The command or grid that waited for its record is complete; a cancelled grid is over already. -/
def State.recordWritten (s : State) (cid : Nat) (r : EventRec) : State :=
  let s := match r.cmd with
    | some id => s.dropCmd id
    | none => s
  match r.grid with
  | some n => if ((s.grid? cid n).map Grid.open).getD false then s.finishGrid cid n else s
  | none => s

/-- EVENT_APPEND (R355, R356): a fault terminates the context (R358); Graft may hold the reading of the counts (R313). -/
def execEventAppend (cid : Nat) (s : State) : Host.Outcome State Fault Refusal :=
  .next (match (s.ctx cid).evq.find? s.recordReleased with
    | none => s
    | some r =>
      if s.readHeld (s.jobCore cid) cid (s.eqBase cid) 16 then s
      else match s.appendRecord (s.jobCore cid) cid r.bytes with
      | .error f => (s.noteFault f).terminate cid f.cause
      | .ok none => s.noteCounts (s.jobCore cid) cid
      | .ok (some t) =>
        let t := t.updCtx cid fun c => { c with evq := c.evq.erase r }
        let t := t.recordWritten cid r
        (t.warps.filter fun e => e.2.cid == cid).foldl (fun t e => t.pollEvent e.1) t)

/-- GRID_START_TIME (R373). -/
def execGridStartTime (cid grid : Nat) (s : State) : Host.Outcome State Fault Refusal :=
  .next (match s.grid? cid grid with
    | none => s
    | some g =>
      if g.st == .held && decide (g.gr.start ≤ s.time.toNat) then
        (s.updGrid cid grid fun g => { g with gr := { g.gr with start := 0 } }).settleHeld cid
      else s)

/-! ## Room (R338, R363, R367) -/

/-- A block holds its resources on a core. -/
def Block.placedNow (b : Block) : Bool := b.life != .saved && b.life != .ended

def kernelNeed (s : State) (b : Block) : Room :=
  ((s.grid? b.cid b.grid).map (·.kernel.need)).getD [0, 0, 0, 0, 0, 0]

/-- What the blocks and gangs that satisfy `at'` hold. -/
def State.usedBy (s : State) (blocks : List Block) (gangs : Nat) : Room :=
  Room.plus (blocks.foldl (fun r b => Room.plus r (kernelNeed s b)) [0, 0, 0, 0, 0, 0]) (Room.times gangs gangPhasers)

/-- What is taken of a physical core. -/
def State.usedOn (s : State) (core : Nat) : Room :=
  let bs := s.blocks.vals.filter fun b => b.placedNow && b.core == core
  let resident := fun (g : Gang) => s.blocks.any fun e =>
    e.2.placedNow && e.2.cid == g.cid && e.2.grid == g.grid && e.2.gang == g.idx
  s.usedBy bs (s.gangs.filter fun g => g.2.home == core && resident g.2).length

/-- What is taken of a virtual core of a deterministic context: by every block placed on it and not ended. -/
def State.usedVirtual (s : State) (cid v : Nat) : Room :=
  let bs := s.blocks.vals.filter fun b => b.cid == cid && b.lcore == v
  s.usedBy bs (bs.filter fun b => b.rank == 0 && (s.gangKey? b).isSome).length

def Room.has (used need : Room) : Bool := Room.fits (Room.plus used need) emptyCore

/-- The enabled cores of the span that starts at `core`, if a span of `n` cores may start there. -/
def spanAt (core n : Nat) : Option (List Nat) :=
  let l := dieCores (core / 64)
  let pos := (l.takeWhile (· < core)).length
  if coreEnabled core && pos % n == 0 && decide (pos + n ≤ l.length) then some ((l.drop pos).take n) else none

/-- Slots of a core that no warp holds. -/
def State.freeSlots (s : State) (core : Nat) : List Nat :=
  (List.range 64).filter fun i => s.warps.all fun e =>
    e.2.core != core || e.2.slot != i || ((s.blocks.get? e.2.blk).map Block.placedNow).getD false == false

/-- Free warp-image slots of a context on a die, lowest first (R72). -/
def State.freeImages (s : State) (cid die n : Nat) : List Nat :=
  ((List.range 4096).filter fun j => !(s.die die).warpImages.contains (4096 * cid + j)).take n

/-- Virtual core of rank `r` of gang `j` (R367). -/
def Kernel.virtualCore (k : Kernel) (j r : Nat) : Nat := (j * k.span) % 128 + k.spanCore r

/-- A span has room for a gang: its cores' resources and the image pool of its die. -/
def State.spanFits (s : State) (cid : Nat) (k : Kernel) (cores : List Nat) (images : Nat) : Bool :=
  (cores.zipIdx.all fun e => Room.has (s.usedOn e.1) (k.gangNeed e.2))
    && decide (images ≤ (s.freeImages cid ((cores.headD 0) / 64) images).length)

/-- In deterministic mode the gang's virtual cores have room for it (R367). -/
def State.virtualFits (s : State) (cid : Nat) (k : Kernel) (gang : Nat) : Bool :=
  !s.det cid || (List.range k.span).all fun i =>
    Room.has (s.usedVirtual cid ((gang * k.span) % 128 + i)) (k.gangNeed i)

/-- A gang fits on a span: the span has room for it, and in deterministic mode its virtual cores have. -/
def State.gangFits (s : State) (cid : Nat) (k : Kernel) (gang : Nat) (cores : List Nat) (images : Nat) : Bool :=
  s.spanFits cid k cores images && s.virtualFits cid k gang

/-! ## Launch values (R339, Table 13.5) -/

def Kernel.roleAt (k : Kernel) (i : Nat) : Role :=
  if i < k.ncopy then .copy else if i < k.ncopy + k.nmat then .matrix else .vector

/-- w0 to w7. -/
def launchWords (k : Kernel) (g : GridRec) (lin rank i : Nat) : List Word :=
  let n := fun (x : Nat) => BitVec.ofNat 32 x
  [n (lin % g.nx), n (lin / g.nx % g.ny), n (lin / g.nx / g.ny),
    n (i + 256 * roleNum (k.roleAt i) + 65536 * rank), g.param.truncate 32, (g.param >>> 32).truncate 32,
    n (k.split.getD 0 1 + 65536 * k.split.getD 1 1), n (k.split.getD 2 1 + 65536 * k.split.getD 3 1)]

/-- A mask of the lanes below `n`. -/
def lanesBelow (n : Nat) : Lanes := maskOf fun l => decide (l < n)

/-- Warp `i` of a new block. -/
def launchWarp (cid n blk lin rank core slot : Nat) (image : Nat × Nat) (g : Grid) (i : Nat) : Warp :=
  let k := g.kernel
  { Warp.empty with
    cid := cid, grid := n, blk := blk, index := i, role := k.roleAt i, regs := k.regs, core := core, slot := slot
    image := image, life := .resident, w := Sparse.setList 0 [] 0 (launchWords k g.gr lin rank i), entry := k.entry
    live := lanesBelow g.gr.lanes
    helper := lanesBelow ((g.gr.lanes + 3) / 4 * 4) &&& ~~~lanesBelow g.gr.lanes
    dirty := BitVec.ofNat 64 (2 ^ k.regs - 1)
    gep := g.gph.zipIdx.foldl (fun m e => Sparse.set 0 m e.2 e.1.phase) [] }

def newRing (stages : Nat) : Ring := ⟨stages, [], [], ⟨0, false⟩, ⟨0, false⟩, ⟨0, false⟩, ⟨0, false⟩⟩

def newBlock (cid n lin gang rank lcore core : Nat) (warps : List Nat) (k : Kernel) (time : Nat) : Block where
  cid := cid
  grid := n
  lin := lin
  gang := gang
  rank := rank
  lcore := lcore
  core := core
  residency := 0
  life := .resident
  warps := warps
  tile := []
  acc := List.replicate k.acc ⟨none, [], some 0, some 0⟩
  phasers := List.replicate k.phn ⟨0, []⟩
  rings := k.rings.map newRing
  inbound := 0
  saveImage := none
  since := time
  lastActive := time

/-- The lowest residency number of a core that no block holds. -/
def State.freeResidency (s : State) (core : Nat) : Nat :=
  ((List.range 16).find? fun i => s.blocks.all fun e =>
    !e.2.placedNow || e.2.core != core || e.2.residency != i).getD 0

/-- A warp joins the back of its slot's age list (R343). -/
def State.joinAge (s : State) (core slot wid : Nat) : State :=
  s.updCore core fun c => { c with age := c.age.modify (slot % 4) fun l => l ++ [wid] }

/-- A context that takes the cores: those whose slice ended before have had their turn passed on; if these are its first
blocks, its own slice begins (R364). -/
def State.beginSlice (s : State) (cid : Nat) : State :=
  let s := { s with contexts := s.contexts.mapVals fun n c => { c with sliced := c.sliced && n == cid } }
  if s.blocks.any fun e => e.2.cid == cid && e.2.placedNow then s
  else s.updCtx cid fun c => { c with sliceSince := s.time.toNat }

/-- A cluster with a resident warp is never at level 0 (R414); the level it then asks for is PERF_LEVEL_CHANGE's to set. -/
def State.unidle (s : State) (core : Nat) : State :=
  if s.levelOf (clusterOfCore core) = 0 then
    { s with clusterLevel := Sparse.set 8 s.clusterLevel (clusterOfCore core) 1 }
  else s

/-- Rank `rank` of a gang becomes resident on `core`. -/
def State.launchBlock (s : State) (cid n gang rank core : Nat) (g : Grid) : State :=
  let k := g.kernel
  let id := s.nextId
  let die := core / 64
  let wids := (List.range k.warps).map fun i => id + 1 + i
  let images := s.freeImages cid die k.warps
  let slots := s.freeSlots core
  let lcore := if s.det cid then k.virtualCore gang rank else logicalCore core
  let lin := gang * k.gangb + rank
  let b := { newBlock cid n lin gang rank lcore core wids k s.time.toNat with residency := s.freeResidency core }
  let s := { s.unidle core with blocks := s.blocks.put id b, nextId := id + 1 + k.warps }
  let s := s.updDie die fun d => { d with warpImages := images.map (4096 * cid + ·) ++ d.warpImages }
  wids.zipIdx.foldl (fun s e =>
    let slot := slots.getD e.2 0
    let s := s.setWarp e.1 (launchWarp cid n id lin rank core slot (die, images.getD e.2 0) g e.2)
    (s.joinAge core slot e.1).takeLines core ((List.range k.regs).map fun r => 64 * e.1 + r)) s

/-- System addresses of the pages of a grid's parameter block that translate, with the bytes of each that belong to it
(R160). -/
def State.paramPages (s : State) (cid : Nat) (g : GridRec) : List (Nat × Nat) :=
  let first := g.param.toNat / 65536
  let last := (g.param.toNat + g.psize - 1) / 65536
  if g.psize = 0 then []
  else (List.range (last + 1 - first)).flatMap fun i =>
    let lo := Nat.max g.param.toNat (65536 * (first + i))
    let hi := Nat.min (g.param.toNat + g.psize) (65536 * (first + i + 1))
    match s.ctxSegments (s.jobCore cid) cid .read (BitVec.ofNat 64 lo) (hi - lo) with
    | .ok l => l
    | .error _ => []

/-- A gang of more than one block has phasers 48 to 63, homed on its first core. -/
def State.launchGang (s : State) (cid n gang : Nat) (cores : List Nat) (g : Grid) : State :=
  let k := g.kernel
  let s := s.beginSlice cid
  let s := if 1 < k.gangb then
      { s with gangs := s.gangs.put s.nextId ⟨cid, n, gang, cores.headD 0, List.replicate 16 ⟨0, []⟩⟩
               nextId := s.nextId + 1 }
    else s
  let s := (List.range k.gangb).foldl (fun s r => s.launchBlock cid n gang r (cores.getD (k.spanCore r) 0) g) s
  let s := if g.gr.pred ≠ 0 ∧ !g.gr.early then cores.foldl (fun s c => s.acquire c 3) s else s
  let segs := s.paramPages cid g.gr
  let s := s.updGrid cid n fun g =>
    { g with waiting := g.waiting.erase gang
             paramSegs := if g.st.over then g.paramSegs else g.paramSegs ++ segs.filter fun x => !g.paramSegs.contains x }
  s.restartHang cid n

/-! ## BLOCK_PLACEMENT -/

/-- A gang that has been placed before waits to be restored. -/
def State.gangSaved (s : State) (cid n gang : Nat) : Bool :=
  s.blocks.any fun e => e.2.cid == cid && e.2.grid == n && e.2.gang == gang

/-- The next gang of a grid to be placed for the first time. -/
def State.nextGang (s : State) (cid n : Nat) (g : Grid) : Option Nat := g.waiting.find? fun j => !s.gangSaved cid n j

/-- Every gang has been placed at least once: the grid is Running, before that it is Placing. -/
def State.notePlaced (s : State) (cid n : Nat) : State :=
  s.updGrid cid n fun g => { g with st := if (s.nextGang cid n g).isNone then .running else .placing }

/-- The context has work that holds no core: an unplaced gang of a grid free to start, or saved blocks
(DEDUCED, log entry 48). -/
def State.hasWaiting (s : State) (cid : Nat) : Bool :=
  !(s.ctx cid).stop
    && ((s.ctx cid).grids.any (fun e => e.2.open && !e.2.waiting.isEmpty
        && (!e.2.queuedOrHeld || (e.2.gr.start == 0 && s.predMet cid e.2)))
      || s.blocks.any fun b => b.2.cid == cid && b.2.life == .saved)

/-- Every span of `n` cores on the device. -/
def allSpans (n : Nat) : List (List Nat) := enabledCores.filterMap fun c => spanAt c n

/-- A gang of the waiting work finds room now. -/
def State.findsRoom (s : State) (cid : Nat) : Bool :=
  (s.ctx cid).grids.any fun e => e.2.open && (!e.2.queuedOrHeld || (e.2.gr.start == 0 && s.predMet cid e.2))
    && e.2.waiting.any fun j => (allSpans e.2.kernel.span).any fun l =>
      s.gangFits cid e.2.kernel j l (e.2.kernel.gangb * e.2.kernel.warps)

/-- The context's slice has ended, and one that waited for it has still to be placed, and can be (R364)
(DEDUCED, log entry 48). -/
def State.outOfTurn (s : State) (cid : Nat) : Bool :=
  (s.ctx cid).sliced && s.contexts.any fun e => e.1 != cid && s.hasWaiting e.1
    && (s.findsRoom e.1 || s.blocks.any fun b => b.2.cid == e.1 && b.2.life == .saved)

/-- No stop concerns the grid (R392, R402) (DEDUCED, log entry 45). -/
def State.mayPlace (s : State) (cid n : Nat) : Bool :=
  let c := s.ctx cid
  !c.stop && c.job.isSome && match c.walk with
    | none => true
    | some w => !w.whole && !(w.blocks.any fun b => ((s.blocks.get? b).map (·.grid)) == some n)

/-- The gangs of a CORES grid after the first, each on one of the spans it fits; which one the spec leaves to the
distributors (R362), a free value. -/
def State.placeAll (s : State) (cid n : Nat) (g : Grid) : List Nat → Option State
  | [] => some s
  | j :: rest =>
    let k := g.kernel
    let fits := (enabledCores.filterMap fun c => spanAt c k.span).filter fun l =>
      s.gangFits cid k j l (k.gangb * k.warps)
    match fits[(s.free (23000000 + j)).toNat % fits.length]? with
    | none => none
    | some l => (s.launchGang cid n j l g).placeAll cid n g rest

/-- Gang `gang` of a grid placed on the span `l`, with a CORES grid all its other gangs too, unless the context's virtual
device holds them and the physical one does not (R367); none where they do not all find room. -/
def State.placeGang (s : State) (cid n gang : Nat) (l : List Nat) (g : Grid) : Option State :=
  let t := s.launchGang cid n gang l g
  if (g.kernel.cores || g.gr.cores) && !(s.det cid && exceeds false g.kernel g.gr) then
    (t.placeAll cid n g ((List.range (g.gr.count / g.kernel.gangb)).drop 1)).map fun u => u.notePlaced cid n
  else some (t.notePlaced cid n)

/-- A CORES grid is free to start: nothing but its turn holds it, and there is room for every block (R362). -/
def State.coresStart (s : State) (cid n : Nat) (g : Grid) : Bool :=
  g.queuedOrHeld && g.gr.start == 0 && s.predMet cid g && (g.kernel.cores || g.gr.cores)
    && match s.nextGang cid n g with
      | none => false
      | some j => (allSpans g.kernel.span).any fun l =>
        s.gangFits cid g.kernel j l (g.kernel.gangb * g.kernel.warps) && (s.placeGang cid n j l g).isSome

/-- Grids start in launch order: no grid launched earlier is still to start that could (DEDUCED, log entry 45). -/
def State.turnToStart (s : State) (cid n : Nat) : Bool :=
  let c := s.ctx cid
  c.grids.all fun e => decide (launchesBack c.nextGrid e.1 ≤ launchesBack c.nextGrid n)
    || !(s.startable cid e.2 || s.coresStart cid e.1 e.2)

/-- BLOCK_PLACEMENT (R362, R363): the next gang of the grid on the span that starts at `core`; with CORES all gangs
together, unless the context's virtual device holds them and the physical one does not: then each as it finds room, the
cores being shared out by saves and restores (R367). -/
def execBlockPlacement (cid grid gang core : Nat) (s : State) : Host.Outcome State Fault Refusal :=
  .next (match s.grid? cid grid with
    | none => s
    | some g =>
      let k := g.kernel
      let first := g.queuedOrHeld
      if !g.open || !s.mayPlace cid grid || s.outOfTurn cid || s.nextGang cid grid g != some gang
          || (first && !(g.gr.start == 0 && s.predMet cid g && s.turnToStart cid grid)) then s
      else match spanAt core k.span with
        | none => s
        | some l =>
          if !s.gangFits cid k gang l (k.gangb * k.warps) then s
          else (s.placeGang cid grid gang l g).getD s)

/-! ## The ends of warps, blocks, grids and jobs (R340, R337) -/

/-- Every phaser registration of the warp is dropped as by PHDROP. -/
def State.dropRegs (s : State) (wid : Nat) : State :=
  let blk := (s.warp wid).blk
  ((List.range 64).foldl (fun s n =>
    match (s.blocks.get? blk).bind fun b => s.phaser? b n with
    | none => s
    | some p => if (p.reg? wid).isSome then s.setPhaser blk n (p.drop wid) else s) s).wake

/-- The error status a warp carries to its grid: that of a trap it ended with, a crossing that no handler saw (R42), the
lowest-numbered flag's (R112). -/
def Warp.finalStatus (w : Warp) : BitVec 8 :=
  if w.err ≠ 0 then w.err
  else if w.pend0A.isSome || w.crossing.isSome then 0x0A
  else match w.ferr with
    | [] => 0
    | e :: _ => e.2.code

/-- WARP_END (R340). -/
def execWarpEnd (wid : Nat) (s : State) : Host.Outcome State Fault Refusal :=
  let w := s.warp wid
  .next (if w.life != .resident || w.live != 0 || w.grid == 0 || s.hasRun wid || !w.ops.isEmpty
        || s.cmds.any fun e => e.2.wid == wid then s
    else
      let t := (s.dropRegs wid).updWarp wid fun w => { w with life := .ended, drainer := false }
      let t := t.updGrid w.cid w.grid fun g => { g with status := if g.status = 0 then w.finalStatus else g.status }
      t.restartHang w.cid w.grid)

/-- What a block holds is freed (R340). -/
def State.freeBlock (s : State) (blk : Nat) (b : Block) : State :=
  let imgs := b.warps.map fun x => (s.warp x).image
  let s := { s with
    blocks := s.blocks.erase blk
    warps := s.warps.filter fun e => !b.warps.contains e.1
    cores := s.cores.mapVals fun _ c => { c with
      age := c.age.map fun (l : List Nat) => l.filter fun x => !b.warps.contains x
      rlines := c.rlines.filter fun e => !b.warps.contains (e.1 / 64) }
    dies := s.dies.mapVals fun d x => { x with
      warpImages := x.warpImages.filter fun i => !imgs.contains (d, i % 4096) || i / 4096 != b.cid
      blockImages := x.blockImages.filter fun i => b.saveImage != some (d, i) } }
  let left := s.blocks.any fun e => e.2.cid == b.cid && e.2.grid == b.grid && e.2.gang == b.gang
  { s with gangs := if left then s.gangs else
      s.gangs.filter fun g => !(g.2.cid == b.cid && g.2.grid == b.grid && g.2.idx == b.gang) }

/-- BLOCK_END (R340, R206). -/
def execBlockEnd (blk : Nat) (s : State) : Host.Outcome State Fault Refusal :=
  .next (match s.blocks.get? blk with
    | none => s
    | some b =>
      if b.life != .resident || b.inbound != 0 || !(b.warps.all fun w => (s.warp w).life == .ended) then s
      else
        let t := s.freeBlock blk b
        let t := t.updCtx b.cid fun c => { c with
          detector := c.detector.filter fun d => d.blk != blk }
        let t := t.updGrid b.cid b.grid fun g => { g with
          endedBlocks := g.endedBlocks + 1
          sent := (b.core, s.nextId) :: g.sent
          hinted := if g.hinted.contains b.lin then g.hinted else b.lin :: g.hinted }
        (t.settleHeld b.cid).restartHang b.cid b.grid)

/-- The release of the grid's completion is over: what the cores of its blocks had sent as they ended, and so every access of
every block, has been performed as far as a release at .dev asks (R323, R340). -/
def State.performedFor (s : State) (g : Grid) : Bool := g.sent.all fun e => s.orderMet e.1 3 e.2 fun _ => false

/-- GRID_COMPLETION (R340, R357): with EQREC the grid is complete once its record has been appended. -/
def execGridCompletion (cid grid : Nat) (s : State) : Host.Outcome State Fault Refusal :=
  .next (match s.grid? cid grid with
    | none => s
    | some g =>
      if g.st != .running || g.endedBlocks != g.gr.count || (s.cmds.any fun e => e.2.cid == cid && e.2.grid == grid)
          || !s.performedFor g || (s.ctx cid).evq.any (fun r => r.grid == some grid) then s
      else if g.gr.eqrec then
        s.updCtx cid fun c => { c with evq := c.evq ++ [⟨g.record grid g.status, none, some grid⟩] }
      else s.finishGrid cid grid)

/-- JOB_END (R337, R403). -/
def execJobEnd (cid : Nat) (s : State) : Host.Outcome State Fault Refusal :=
  let c := s.ctx cid
  .next (match c.job with
    | none => s
    | some j =>
      let w := s.warp j.conductor
      if w.live != 0 || !w.ops.isEmpty || s.hasRun j.conductor || c.grids.any (fun e => e.2.open) || !c.evq.isEmpty
          || s.cores.any (fun k => k.2.outbound.any fun e => e.2.cid == cid) then s
      else match j.cause with
        | none => s.endJob cid 2 0
        | some x => s.endJob cid 3 x)

end Sys2Proof.Machine
end

