-- ==== Sys2Proof/Machine/Lanes.lean ====
section
/-! DEFINITION. Class X (09): lane exchange, quads, tiles, predicate logic, control transfers, PART and ACTIVE. -/

namespace Sys2Proof.Machine

/-! ## TYPE (Table 9.4) -/

/-- A sum, minimum or maximum over lanes. -/
inductive LaneOp where
  | sum
  | min
  | max
  deriving DecidableEq, Repr

/-- Identity of an operation under TYPE 0 .i32, 1 .n32, 2 .f32. -/
def LaneOp.identity (op : LaneOp) (ty : BitVec 2) : Word :=
  match op, ty.toNat with
  | .sum, _ => 0
  | .min, 0 => 0x7FFFFFFF
  | .min, 1 => 0xFFFFFFFF
  | .min, _ => 0x7F800000
  | .max, 0 => 0x80000000
  | .max, 1 => 0
  | .max, _ => 0xFF800000

/-- One combination of two values. -/
def LaneOp.apply (op : LaneOp) (ty : BitVec 2) (rm : Rm) (a b : Word) : Word :=
  match op, ty.toNat with
  | .sum, 2 => fAdd rm a b
  | .sum, _ => a + b
  | .min, 0 => minI a b
  | .min, 1 => minN a b
  | .min, _ => fminmax false a b
  | .max, 0 => maxI a b
  | .max, 1 => maxN a b
  | .max, _ => fminmax true a b

/-- A single contributor gives its own value, a NaN the canonical one (R247). -/
def alone (ty : BitVec 2) (x : Word) : Word := if ty = 2 && (f32Val x).isNan then 0x7FC00000 else x

/-- Values combined in ascending lane order (R247). -/
def LaneOp.over (op : LaneOp) (ty : BitVec 2) (rm : Rm) : List Word → Word
  | [] => op.identity ty
  | x :: xs => xs.foldl (op.apply ty rm) (alone ty x)

/-! ## Tiles (R244, R250) -/

/-- PART.SIZE. -/
def Warp.tileSize (w : Warp) : Nat := (w.part.extractLsb' 0 6).toNat

def tileBase (size l : Nat) : Nat := l / size * size

/-- Contributing lanes of lane `l`'s tile: active and no helpers. -/
def State.contributors (s : State) (act : Lanes) (l : Nat) : List Nat :=
  (lanesOf (act &&& ~~~s.self.helper)).filter fun c => tileBase s.self.tileSize c == tileBase s.self.tileSize l

/-- Mask of the lanes given, lane `base` as bit 0. -/
def tileMask (base : Nat) (ls : List Nat) : Word := ls.foldl (fun m c => m ||| (1#32 <<< (c - base))) 0#32

/-- Write `f l` to vd in the active lanes; class X has no write mask. -/
def State.xSet (s : State) (act : Lanes) (d : Reg) (f : Nat → Word) : State := s.vecSet none act d f

/-- The rounding of the f32 forms. -/
def State.frm (s : State) : Rm := frmOf s.self.mode

/-! ## Exchange and quads (R248, R249) -/

def execNop (_ : XG) (s : State) : Host.Outcome State Fault Refusal := .next s

def execXch (o : XRI) (s : State) : Host.Outcome State Fault Refusal :=
  .next (s.xSet (s.active o.g) o.d fun l => s.rdV o.a (l ^^^ (o.imm.toNat &&& (s.self.tileSize - 1))))

def execQbc (o : XRI) (s : State) : Host.Outcome State Fault Refusal :=
  .next (s.xSet (s.active o.g) o.d fun l => s.rdV o.a (4 * (l / 4) + o.imm.toNat % 4))

/-- QSUM, QMIN, QMAX: the active lanes of the quad contribute, helpers too. -/
def State.quadOp (s : State) (op : LaneOp) (o : XTy) : State :=
  let act := s.active o.g
  s.xSet act o.d fun l =>
    op.over o.ty s.frm (((lanesOf act).filter fun c => c / 4 == l / 4).map (s.rdV o.a))

def execQsum (o : XTy) (s : State) : Host.Outcome State Fault Refusal := .next (s.quadOp .sum o)
def execQmin (o : XTy) (s : State) : Host.Outcome State Fault Refusal := .next (s.quadOp .min o)
def execQmax (o : XTy) (s : State) : Host.Outcome State Fault Refusal := .next (s.quadOp .max o)

/-- QDIFF: the lane of the pair with the axis bit set less the one without. -/
def execQdiff (o : XQd) (s : State) : Host.Outcome State Fault Refusal :=
  let m := if o.axis then 2 else 1
  .next (s.xSet (s.active o.g) o.d fun l =>
    let hi := s.rdV o.a (l ||| m)
    let lo := s.rdV o.a ((l ||| m) - m)
    if o.ty = 2 then fSub s.frm hi lo else hi - lo)

/-! ## Tile instructions (R250) -/

/-- VOTE: `all` over the contributing lanes, else any. -/
def State.vote (s : State) (all : Bool) (o : XVote) : State :=
  let act := s.active o.g
  let holds := fun (l : Nat) =>
    let cs := s.contributors act l
    if all then cs.all (s.rdP o.src.toNat) else cs.any (s.rdP o.src.toNat)
  s.predSet none act o.t fun l => s.combine o.m o.t l (holds l)

def execVoteAny (o : XVote) (s : State) : Host.Outcome State Fault Refusal := .next (s.vote false o)
def execVoteAll (o : XVote) (s : State) : Host.Outcome State Fault Refusal := .next (s.vote true o)

def execBallot (o : XBal) (s : State) : Host.Outcome State Fault Refusal :=
  let act := s.active o.g
  .next (s.xSet act o.d fun l =>
    tileMask (tileBase s.self.tileSize l) ((s.contributors act l).filter (s.rdP o.src.toNat)))

def execMatchLanes (o : XR1) (s : State) : Host.Outcome State Fault Refusal :=
  let act := s.active o.g
  .next (s.xSet act o.d fun l =>
    tileMask (tileBase s.self.tileSize l) ((s.contributors act l).filter fun c => s.rdV o.a c == s.rdV o.a l))

def State.tileOp (s : State) (op : LaneOp) (o : XTy) : State :=
  let act := s.active o.g
  s.xSet act o.d fun l => op.over o.ty s.frm ((s.contributors act l).map (s.rdV o.a))

def execRedtAdd (o : XTy) (s : State) : Host.Outcome State Fault Refusal := .next (s.tileOp .sum o)
def execRedtMin (o : XTy) (s : State) : Host.Outcome State Fault Refusal := .next (s.tileOp .min o)
def execRedtMax (o : XTy) (s : State) : Host.Outcome State Fault Refusal := .next (s.tileOp .max o)

def execScantAdd (o : XScan) (s : State) : Host.Outcome State Fault Refusal :=
  let act := s.active o.g
  let below := fun (l c : Nat) => if o.excl then decide (c < l) else decide (c ≤ l)
  .next (s.xSet act o.d fun l =>
    LaneOp.sum.over o.ty s.frm (((s.contributors act l).filter (below l)).map (s.rdV o.a)))

/-! ## PART, PLOP, ACTIVE (R251, R258) -/

def execPart (o : XPart) (s : State) : Host.Outcome State Fault Refusal :=
  .next (s.setSelf { s.self with part := o.size.zeroExtend 32 })

def plopOf (op : BitVec 2) (a b : Bool) : Bool := if op = 0 then a && b else if op = 1 then a || b else a != b

def execPlop (o : XPlop) (s : State) : Host.Outcome State Fault Refusal :=
  .next (s.predSet none (s.active o.g) o.t fun l =>
    plopOf o.op (s.rdP o.pa.toNat l != o.ia) (s.rdP1 o.pb.toNat l != o.ib))

def execActive (o : XD) (s : State) : Host.Outcome State Fault Refusal :=
  .next (s.xSet (s.active o.g) o.d fun _ => s.activeThreads o.g)

/-! ## Control transfers (R252 to R257) -/

/-- The transfer takes effect for the threads given (R237). -/
def State.transfer (s : State) (threads : Lanes) (target : Nat → Pc) : State :=
  { s with focus := { s.focus with
      targets := (lanesOf threads).foldl (fun t l => t.put l (target l)) s.focus.targets } }

/-- HeaderAddr + 4 × SExt(OFF, 18). -/
def Run.branch (r : Run) (off : BitVec 18) : Pc := r.hdr + 4 * off.signExtend 48

/-- The clause that follows the one in progress. -/
def Run.follow (r : Run) : Pc := r.hdr + BitVec.ofNat 48 (4 * (r.words.length + 1))

def execBra (o : XBr) (s : State) : Host.Outcome State Fault Refusal :=
  .next (s.transfer (s.activeThreads o.g) fun _ => s.focus.branch o.off)

/-- BRX: misaligned targets first, then non-canonical ones, over all active non-helper lanes (R255). -/
def execBrx (o : XA) (s : State) : Host.Outcome State Fault Refusal :=
  let thr := s.activeThreads o.g
  let target := fun (l : Nat) => s.rdV64 o.a l
  .next (match (lanesOf thr).find? fun l => (target l).extractLsb' 0 2 != 0 with
    | some l => s.trapWord 4 0 (some (target l)) (some l)
    | none => match (lanesOf thr).find? fun l => (target l) >>> 48 != 0 with
      | some l => s.trapWord 5 5 (some (target l)) (some l)
      | none => s.transfer thr fun l => (target l).truncate 48)

/-- CALL: v63 in each active lane, or w63 on a control core (R253, R354). -/
def execCall (o : XBr) (s : State) : Host.Outcome State Fault Refusal :=
  let ret : Word := s.focus.follow.truncate 32
  let t := s.transfer (s.activeThreads o.g) fun _ => s.focus.branch o.off
  .next (if s.self.role = .control then (if s.active o.g = 0 then t else t.wr (.w 63) 0 ret)
    else t.xSet (s.active o.g) 63 fun _ => ret)

/-- RET: in the 4 GiB region of its clause (R254). -/
def execRet (o : XA) (s : State) : Host.Outcome State Fault Refusal :=
  .next (s.transfer (s.activeThreads o.g) fun l => s.focus.hdr.extractLsb' 32 16 ++ s.rdL o.a.toNat l)

/-- Some lane of the quad of lane `l` is in the mask. -/
def quadHas (m : Lanes) (l : Nat) : Bool :=
  m.getLsbD (4 * (l / 4)) || m.getLsbD (4 * (l / 4) + 1) || m.getLsbD (4 * (l / 4) + 2) || m.getLsbD (4 * (l / 4) + 3)

/-- The threads `m` end: helpers where their quad stays live, else ended, with every helper of the quad (R241). -/
def Warp.exits (w : Warp) (m : Lanes) : Warp :=
  let live := w.live &&& ~~~m
  { w with
    live := live
    helper := maskOf fun l => (w.helper ||| m).getLsbD l && quadHas live l
    pk := w.pk &&& ~~~m }

/-- EXIT (R256); in handler mode also R383. -/
def execExit (o : XG) (s : State) : Host.Outcome State Fault Refusal :=
  let m := s.activeThreads o.g
  let w := s.self.exits m
  .next (if w.inHandler then
      let w := { w with trapped := w.trapped &&& ~~~m, hpc := w.hpc.filter fun e => !m.getLsbD e.1 }
      if w.trapped = 0 then ((s.setSelf w).leaveHandler s.focus.wid).stopRun s.focus.wid else s.setSelf w
    else s.setSelf w)

def execYield (o : XG) (s : State) : Host.Outcome State Fault Refusal :=
  .next { s with focus := { s.focus with parked := s.focus.parked ||| s.activeThreads o.g } }

end Sys2Proof.Machine
end

