-- ==== Sys2Proof/Machine/LoadStore.lean ====
section
/-! DEFINITION. Class L at issue (06): addresses (R146, R147), the checks of Table 6.3 in their order, and the operation
that enters the warp's list. -/

namespace Sys2Proof.Machine

/-! ## Prefix fields (Table 5.10) -/

def pxScope (p : LPfx) : Nat :=
  match p.scope.toNat with
  | 0 => 0
  | 1 => if p.gd then 2 else 1
  | 2 => 3
  | _ => 4

def pxAcq (p : LPfx) : Bool := p.order.getLsbD 0
def pxRel (p : LPfx) : Bool := p.order.getLsbD 1
def pxBypass (p : LPfx) : Bool := p.policy == 3
/-- How the prefix asks for a line to be allocated (Table 3.3). -/
def pxMark (p : LPfx) : Mark := if p.policy = 1 then .stream else if p.policy = 2 then .keep else .normal

/-! ## Addresses -/

/-- GlobalEA (R146). -/
def State.globalEA (s : State) (disp : BitVec 17) (a b : Reg) (l : Nat) : DWord :=
  s.rdW64 b + (s.rdL a.toNat l).zeroExtend 64 + disp.signExtend 64

/-- TileOff, AccIdx, ParamOff (R147): exact, without wrap. -/
def State.ownOffset (s : State) (disp : BitVec 17) (a : Reg) (l : Nat) : Int := ((s.rdV a l).toNat : Int) + disp.toInt

/-! ## Range locks (R150, R329) -/

def LockOwner.code : LockOwner → BitVec 2
  | .copy => 0
  | .matrix => 1
  | .storage => 2
  | .multicast => 3

def Space.code : Space → BitVec 2
  | .global => 0
  | .tile => 1
  | .acc => 2

/-- RLOCKST (Table 12.4). -/
def rlockWord (e : Lock) (r : LockRange) : Word :=
  1#1 ++ (e.owner.code ++ (BitVec.ofBool r.dst ++ (r.space.code ++ (0#2 ++ (BitVec.ofNat 3 r.idx
    ++ (BitVec.ofNat 5 e.entry ++ (e.opc ++ (0#2 ++ BitVec.ofNat 6 e.slot))))))))

def State.lockTrap (s : State) (h : Lock × LockRange) (addr : DWord) (lane : Nat) : State :=
  (s.setSelf { s.self with rlockst := rlockWord h.1 h.2 }).trapWord 7 0 (some addr) (some lane)

/-! ## Operations without an access (R172, R320, R322) -/

/-- The order of an instruction that makes no access still acts on the whole warp. -/
def State.orderOnly (s : State) (i : Instr) (scope : Nat) (acq rel : Bool) : State :=
  if rel || acq then
    let s := s.pushOp { s.newOp i 0 with
      setA := none, setB := none, srcPending := false, acquire := acq, release := rel, scope := scope }
    s.settleAll s.focus.wid
  else s

/-- A load by helper lanes alone writes zero to their destinations (R151). -/
def State.zeroHelpers (s : State) (lanes : Lanes) (regs : List RegName) : State :=
  regs.foldl (fun s n => (lanesOf lanes).foldl (fun s l => s.wr n l 0) s) s

/-! ## Issue -/

/-- What an instruction does at its addresses. -/
inductive MemKind where
  | load
  | store
  | atom
  | red
  deriving DecidableEq, Repr

def MemKind.kind : MemKind → Kind
  | .load => .read
  | .store => .write
  | .atom => .atomic
  | .red => .atomic

/-- Registers `r` to `r + n − 1`. -/
def State.regsFrom (s : State) (r n : Nat) : List RegName := (List.range n).map fun i => s.self.dataReg (r + i)

/-- The operation with its accesses as they leave with it: a load that nothing older keeps back may reach its targets and have
their answers at once (R149) (DEDUCED, log entry 66). -/
def State.asked (s : State) (o : Op) : Op :=
  let w := s.self
  if o.isLoad && w.mayRead s.nextId then
    { o with accesses := o.accesses.map fun a => { a with granted := s.loadArrives w o a && s.answers w.cid .read a o.size } }
  else o

/-- The operation enters the warp's list: `regs` data registers are its sources or, for a load, its destinations; an
ATOM writes `back` of them; `addrs` form its addresses (R113) (DEDUCED, log entry 18). -/
def State.pushMem (s : State) (i : Instr) (k : MemKind) (sp : Space) (act : Lanes) (addrs : List RegName)
    (d regs back size : Nat) (px : LPfx) (accs : List Access) : State :=
  let thr := act &&& ~~~s.self.helper
  s.pushOp (s.asked { s.newOp i act with
    caps := if k = .load then [] else (List.range regs).map fun j => s.capL (d + j)
    dests := match k with
      | .load => (s.regsFrom d regs).map fun n => ⟨n, act⟩
      | .atom => (s.regsFrom d back).map fun n => ⟨n, thr⟩
      | _ => []
    addrRegs := addrs, space := sp, size := size, mark := pxMark px
    accesses := accs
    isLoad := k = .load, isStore := k = .store, isAtomic := k = .atom || k = .red
    acquire := (pxAcq px), release := (pxRel px), scope := (pxScope px), bypass := (pxBypass px) })

/-- Translations used stay in the caches (R78). -/
def State.installAll (s : State) (core cid : Nat) (vas : List DWord) : State :=
  vas.foldl (fun s va => s.installPage core cid va.toNat) s

/-- An atomic that would be performed at the host or at a peer that does not support it (R167). -/
def atomUnsupported (op : AtomOp) (inL1 : Bool) (key : Nat) : Bool :=
  !inL1 && match placeOf key with
    | .system => !op.onHost
    | .peer _ => !op.onPeer
    | _ => false

/-- An access that the hardware has still to make. -/
def Access.fresh (lane : Nat) (addr : DWord) (key : Nat) (bypass : Bool) : Access where
  lane := lane; addr := addr; key := key; bypass := bypass; first := false; granted := false; done := false; data := []; part := none; denied := false

/-- Lines that the L1 does not hold are asked for, with the context and the policy they are asked for with (R57, R157). -/
def State.requestFills (s : State) (w : Warp) (size : Nat) (m : Mark) (accs : List Access) : State :=
  accs.foldl (fun s a =>
    if a.bypass || (List.range size).all (fun i => (s.l1Byte w.core (a.key + i)).isSome) then s
    else s.requestFill w.core (lineOf a.key) w.cid m) s

/-- A global form (R146, R149): the checks of Table 6.3 in order, over all lanes that are active and not helpers
(DEDUCED, log entry 62). -/
def State.issueGlobal (s : State) (i : Instr) (k : MemKind) (o : LMem) (size regs back : Nat) : State :=
  let px := o.px
  let w := s.self
  let act := s.active o.g
  let thr := lanesOf (act &&& ~~~w.helper)
  let ea := s.globalEA px.disp o.a o.b
  let op := AtomOp.ofCode (atomCode i)
  let isAtomic := k = .atom || k = .red
  let tr := fun l => s.translate w.core w.cid (ea l) (if k = .load then .read else .write)
  let keyOf := fun l => match tr l with
    | .ok (key, _) => key
    | .error _ => 0
  let page := fun l => match tr l with
    | .ok (_, b) => b
    | .error _ => false
  let byp := fun l => pxBypass px || page l
  match thr with
  | [] =>
    (if k = .load then s.zeroHelpers act (s.regsFrom o.d.toNat regs) else s).orderOnly i (pxScope px) (pxAcq px) (pxRel px)
  | first :: _ =>
    if isAtomic && op == .fadd && s.det w.cid then s.trapWord 0x0B 0 none (some first)
    else match thr.find? fun l => (ea l).toNat % size != 0 with
    | some l => s.trapWord 4 0 (some (ea l)) (some l)
    | none => match thr.find? fun l => (ea l) >>> 48 != 0 with
    | some l => s.trapWord 5 5 (some (ea l)) (some l)
    | none => match thr.findSome? fun l => match tr l with
        | .error r => some (l, r)
        | .ok _ => none with
    | some (l, r) => s.trapWord (walkCode r) (BitVec.ofNat 8 r) (some (ea l)) (some l)
    | none =>
      let s := s.installAll w.core w.cid (thr.map ea)
      match thr.findSome? fun l =>
          (s.lockHit w .global (ea l).toNat ((ea l).toNat + size - 1) (k = .load)).map fun h => (l, h) with
      | some (l, h) => s.lockTrap h (ea l) l
      | none => match thr.find? fun l => isAtomic
          && atomUnsupported op (decide ((pxScope px) = 0) && !byp l) (keyOf l) with
      | some l => s.trapWord 6 0 (some (ea l)) (some l)
      | none =>
        let accs := thr.map fun l =>
          { Access.fresh l (ea l) (keyOf l) (byp l || (k = .load && (pxAcq px) && decide (1 ≤ (pxScope px)))) with
            first := pxMark px = .stream && !page l }
        let s := if k = .load then s.requestFills w size (pxMark px) accs else s
        let addrs := [w.dataReg o.a.toNat, .w o.b.toNat, .w (o.b.toNat + 1)]
        s.pushMem i k .global act addrs o.d.toNat regs back size px accs

/-- A tile form (R147, R158) (DEDUCED, log entry 62). TRAPADDR of each of its traps is the lane's offset, that of a range lock
too: R149 says the lane's virtual address, which such an access has none of (DESIGN CHOICE, log entry 68). -/
def State.issueTile (s : State) (i : Instr) (k : MemKind) (o : LTile) (size regs back : Nat) : State :=
  let px := o.px
  let w := s.self
  let act := s.active o.g
  let thr := lanesOf (act &&& ~~~w.helper)
  let off := s.ownOffset px.disp o.a
  let bad := fun l => decide (off l < 0) || decide ((s.tileSize w : Int) < off l + size)
  match thr with
  | [] => if k = .load then s.zeroHelpers act (s.regsFrom o.d.toNat regs) else s
  | _ => match thr.find? fun l => off l % (size : Int) != 0 with
    | some l => s.trapWord 4 0 (some (BitVec.ofInt 64 (off l))) (some l)
    | none => match thr.find? bad with
      | some l => s.trapWord 6 0 (some (BitVec.ofInt 64 (off l))) (some l)
      | none => match thr.findSome? fun l =>
          (s.lockHit w .tile (off l).toNat ((off l).toNat + size - 1) (k = .load)).map fun h => (l, h) with
        | some (l, h) => s.lockTrap h (BitVec.ofInt 64 (off l)) l
        | none => s.pushMem i k .tile act [.v o.a.toNat] o.d.toNat regs back size px (thr.map fun l =>
            Access.fresh l (BitVec.ofInt 64 (off l)) (off l).toNat false)

/-- LDA and STA (R159). TRAPADDR of their traps is the lane's element index (DESIGN CHOICE, log entry 68). -/
def State.issueAcc (s : State) (i : Instr) (k : MemKind) (o : LAcc) : State :=
  let px := o.px
  let w := s.self
  let act := s.active o.g
  let thr := lanesOf (act &&& ~~~w.helper)
  let idx := s.ownOffset px.disp o.a
  let bank := o.bank.toNat
  let bad := fun l => decide (idx l < 0) || decide (32767 < idx l) || decide (s.accBanks w ≤ bank)
  match thr with
  | [] => if k = .load then s.zeroHelpers act (s.regsFrom o.d.toNat 1) else s
  | _ => match thr.find? bad with
    | some l => s.trapWord 6 0 (some (BitVec.ofInt 64 (idx l))) (some l)
    | none => match thr.findSome? fun l => (s.lockHit w .acc bank bank (k = .load)).map fun h => (l, h) with
      | some (l, h) => s.lockTrap h (BitVec.ofInt 64 (idx l)) l
      | none => s.pushMem i k .acc act [.v o.a.toNat] o.d.toNat 1 0 4 px (thr.map fun l =>
          Access.fresh l (BitVec.ofInt 64 (idx l)) (4 * (32768 * bank + (idx l).toNat)) false)

/-- LDC (R147, R160). -/
def State.issueLdc (s : State) (i : Instr) (o : LTile) : State :=
  let px := o.px
  let w := s.self
  let act := s.active o.g
  let thr := lanesOf (act &&& ~~~w.helper)
  let off := s.ownOffset px.disp o.a
  let param := ((s.gridOf? w).map (·.gr.param)).getD 0
  let psize := ((s.gridOf? w).map (·.gr.psize)).getD 0
  let va := fun l => param + BitVec.ofInt 64 (off l)
  let tr := fun l => s.translate w.core w.cid (va l) .read
  match thr with
  | [] => s.zeroHelpers act (s.regsFrom o.d.toNat 1)
  | _ => match thr.find? fun l => off l % 4 != 0 with
    | some l => s.trapWord 4 0 (some (BitVec.ofInt 64 (off l))) (some l)
    | none => match thr.find? fun l => decide (off l < 0) || decide ((psize : Int) < off l + 4) with
      | some l => s.trapWord 6 0 (some (BitVec.ofInt 64 (off l))) (some l)
      | none => match thr.findSome? fun l => match tr l with
          | .error r => some (l, r)
          | .ok _ => none with
        | some (l, r) => s.trapWord (walkCode r) (BitVec.ofNat 8 r) (some (va l)) (some l)
        | none =>
          let s := s.installAll w.core w.cid (thr.map va)
          let accs := thr.map fun l =>
            let (key, byp) := match tr l with
              | .ok r => r
              | .error _ => (0, false)
            { Access.fresh l (va l) key (byp || (pxBypass px)) with first := pxMark px = .stream && !byp }
          (s.requestFills w 4 (pxMark px) accs).pushMem i .load .global act [.v o.a.toNat] o.d.toNat 1 0 4 px accs

/-! ## Loads and stores (R153, R154, R158 to R160) -/

def execLdN8 (o : LMem) (s : State) : Host.Outcome State Fault Refusal := .next (s.issueGlobal (.ldN8 o) .load o 1 1 0)
def execLdI8 (o : LMem) (s : State) : Host.Outcome State Fault Refusal := .next (s.issueGlobal (.ldI8 o) .load o 1 1 0)
def execLdN16 (o : LMem) (s : State) : Host.Outcome State Fault Refusal := .next (s.issueGlobal (.ldN16 o) .load o 2 1 0)
def execLdI16 (o : LMem) (s : State) : Host.Outcome State Fault Refusal := .next (s.issueGlobal (.ldI16 o) .load o 2 1 0)
def execLd32 (o : LMem) (s : State) : Host.Outcome State Fault Refusal := .next (s.issueGlobal (.ld32 o) .load o 4 1 0)
def execLd64 (o : LMem) (s : State) : Host.Outcome State Fault Refusal := .next (s.issueGlobal (.ld64 o) .load o 8 2 0)
def execLd128 (o : LMem) (s : State) : Host.Outcome State Fault Refusal := .next (s.issueGlobal (.ld128 o) .load o 16 4 0)
def execSt8 (o : LMem) (s : State) : Host.Outcome State Fault Refusal := .next (s.issueGlobal (.st8 o) .store o 1 1 0)
def execSt16 (o : LMem) (s : State) : Host.Outcome State Fault Refusal := .next (s.issueGlobal (.st16 o) .store o 2 1 0)
def execSt32 (o : LMem) (s : State) : Host.Outcome State Fault Refusal := .next (s.issueGlobal (.st32 o) .store o 4 1 0)
def execSt64 (o : LMem) (s : State) : Host.Outcome State Fault Refusal := .next (s.issueGlobal (.st64 o) .store o 8 2 0)
def execSt128 (o : LMem) (s : State) : Host.Outcome State Fault Refusal :=
  .next (s.issueGlobal (.st128 o) .store o 16 4 0)
def execLdt32 (o : LTile) (s : State) : Host.Outcome State Fault Refusal := .next (s.issueTile (.ldt32 o) .load o 4 1 0)
def execLdt64 (o : LTile) (s : State) : Host.Outcome State Fault Refusal := .next (s.issueTile (.ldt64 o) .load o 8 2 0)
def execLdt128 (o : LTile) (s : State) : Host.Outcome State Fault Refusal :=
  .next (s.issueTile (.ldt128 o) .load o 16 4 0)
def execStt32 (o : LTile) (s : State) : Host.Outcome State Fault Refusal := .next (s.issueTile (.stt32 o) .store o 4 1 0)
def execStt64 (o : LTile) (s : State) : Host.Outcome State Fault Refusal := .next (s.issueTile (.stt64 o) .store o 8 2 0)
def execStt128 (o : LTile) (s : State) : Host.Outcome State Fault Refusal :=
  .next (s.issueTile (.stt128 o) .store o 16 4 0)
def execLda (o : LAcc) (s : State) : Host.Outcome State Fault Refusal := .next (s.issueAcc (.lda o) .load o)
def execSta (o : LAcc) (s : State) : Host.Outcome State Fault Refusal := .next (s.issueAcc (.sta o) .store o)
def execLdc (o : LTile) (s : State) : Host.Outcome State Fault Refusal := .next (s.issueLdc (.ldc o) o)

/-! ## Atomics (R161 to R168) -/

def execAtomAddN32 (o : LMem) (s : State) : Host.Outcome State Fault Refusal :=
  .next (s.issueGlobal (.atomAddN32 o) .atom o 4 1 1)
def execAtomMinI32 (o : LMem) (s : State) : Host.Outcome State Fault Refusal :=
  .next (s.issueGlobal (.atomMinI32 o) .atom o 4 1 1)
def execAtomMaxI32 (o : LMem) (s : State) : Host.Outcome State Fault Refusal :=
  .next (s.issueGlobal (.atomMaxI32 o) .atom o 4 1 1)
def execAtomMinN32 (o : LMem) (s : State) : Host.Outcome State Fault Refusal :=
  .next (s.issueGlobal (.atomMinN32 o) .atom o 4 1 1)
def execAtomMaxN32 (o : LMem) (s : State) : Host.Outcome State Fault Refusal :=
  .next (s.issueGlobal (.atomMaxN32 o) .atom o 4 1 1)
def execAtomAnd (o : LMem) (s : State) : Host.Outcome State Fault Refusal :=
  .next (s.issueGlobal (.atomAnd o) .atom o 4 1 1)
def execAtomOr (o : LMem) (s : State) : Host.Outcome State Fault Refusal :=
  .next (s.issueGlobal (.atomOr o) .atom o 4 1 1)
def execAtomXor (o : LMem) (s : State) : Host.Outcome State Fault Refusal :=
  .next (s.issueGlobal (.atomXor o) .atom o 4 1 1)
def execAtomExch (o : LMem) (s : State) : Host.Outcome State Fault Refusal :=
  .next (s.issueGlobal (.atomExch o) .atom o 4 1 1)
def execAtomFaddF32 (o : LMem) (s : State) : Host.Outcome State Fault Refusal :=
  .next (s.issueGlobal (.atomFaddF32 o) .atom o 4 1 1)
def execAtomAddN64 (o : LMem) (s : State) : Host.Outcome State Fault Refusal :=
  .next (s.issueGlobal (.atomAddN64 o) .atom o 8 2 2)
def execAtomExch64 (o : LMem) (s : State) : Host.Outcome State Fault Refusal :=
  .next (s.issueGlobal (.atomExch64 o) .atom o 8 2 2)
def execAtomCas (o : LMem) (s : State) : Host.Outcome State Fault Refusal :=
  .next (s.issueGlobal (.atomCas o) .atom o 4 2 1)
def execRedAddN32 (o : LMem) (s : State) : Host.Outcome State Fault Refusal :=
  .next (s.issueGlobal (.redAddN32 o) .red o 4 1 0)
def execRedMinI32 (o : LMem) (s : State) : Host.Outcome State Fault Refusal :=
  .next (s.issueGlobal (.redMinI32 o) .red o 4 1 0)
def execRedMaxI32 (o : LMem) (s : State) : Host.Outcome State Fault Refusal :=
  .next (s.issueGlobal (.redMaxI32 o) .red o 4 1 0)
def execRedMinN32 (o : LMem) (s : State) : Host.Outcome State Fault Refusal :=
  .next (s.issueGlobal (.redMinN32 o) .red o 4 1 0)
def execRedMaxN32 (o : LMem) (s : State) : Host.Outcome State Fault Refusal :=
  .next (s.issueGlobal (.redMaxN32 o) .red o 4 1 0)
def execRedAnd (o : LMem) (s : State) : Host.Outcome State Fault Refusal :=
  .next (s.issueGlobal (.redAnd o) .red o 4 1 0)
def execRedOr (o : LMem) (s : State) : Host.Outcome State Fault Refusal :=
  .next (s.issueGlobal (.redOr o) .red o 4 1 0)
def execRedXor (o : LMem) (s : State) : Host.Outcome State Fault Refusal :=
  .next (s.issueGlobal (.redXor o) .red o 4 1 0)
def execRedFaddF32 (o : LMem) (s : State) : Host.Outcome State Fault Refusal :=
  .next (s.issueGlobal (.redFaddF32 o) .red o 4 1 0)
def execRedAddN64 (o : LMem) (s : State) : Host.Outcome State Fault Refusal :=
  .next (s.issueGlobal (.redAddN64 o) .red o 8 2 0)
def execAtomtAddN32 (o : LTile) (s : State) : Host.Outcome State Fault Refusal :=
  .next (s.issueTile (.atomtAddN32 o) .atom o 4 1 1)
def execAtomtMinI32 (o : LTile) (s : State) : Host.Outcome State Fault Refusal :=
  .next (s.issueTile (.atomtMinI32 o) .atom o 4 1 1)
def execAtomtMaxI32 (o : LTile) (s : State) : Host.Outcome State Fault Refusal :=
  .next (s.issueTile (.atomtMaxI32 o) .atom o 4 1 1)
def execAtomtExch (o : LTile) (s : State) : Host.Outcome State Fault Refusal :=
  .next (s.issueTile (.atomtExch o) .atom o 4 1 1)
def execAtomtCas (o : LTile) (s : State) : Host.Outcome State Fault Refusal :=
  .next (s.issueTile (.atomtCas o) .atom o 4 2 1)

/-! ## FENCE, CINV, PREF (R169 to R171) -/

/-- FENCE: .acq completes at once; .rel and .ar stay until FENCE_COMPLETE. -/
def execFence (o : LFence) (s : State) : Host.Outcome State Fault Refusal :=
  .next (if pxRel o.px then
      s.pushOp { s.newOp (.fence o) 0 with
        srcPending := false, acquire := pxAcq o.px, release := true, scope := pxScope o.px }
    else s.orderOnly (.fence o) (pxScope o.px) true false)

/-- The lanes of a CINV or PREF whose address translates and is permitted (R149): lane, system address, and whether the page
is L1-bypass. -/
def State.lineKeys (s : State) (o : LLine) : List (Nat × Nat × Bool) :=
  let w := s.self
  (lanesOf (s.activeThreads o.g)).filterMap fun l =>
    match s.translate w.core w.cid (s.globalEA o.px.disp o.a o.b l) .read with
    | .error _ => none
    | .ok (key, byp) =>
      if !s.inRdc (dieOfCore w.core) key 1 && (s.denial w.cid .read key 1).isSome then none else some (l, key, byp)

/-- What the walks for the addresses of a CINV or PREF leave in the caches (R60, R78). -/
def State.lineWalks (s : State) (o : LLine) : State :=
  s.installAll s.self.core s.self.cid (((lanesOf (s.activeThreads o.g)).map (s.globalEA o.px.disp o.a o.b)).filter
    fun va => va >>> 48 == 0)

/-- CINV: the lines go; a fill in flight for one does not allocate (R170). -/
def execCinv (o : LLine) (s : State) : Host.Outcome State Fault Refusal :=
  .next ((s.lineKeys o).foldl (fun s e => s.dropL1 s.self.core (128 * lineOf e.2.1) 128) (s.lineWalks o))

/-- PREF: any lane may be dropped; under policy bypass, the prefix's or the page's, the line goes no nearer than the home L2
or the RDC (R59, R171). It is held under the policy. -/
def execPref (o : LLine) (s : State) : Host.Outcome State Fault Refusal :=
  .next ((s.lineKeys o).foldl (fun s e =>
    if s.freeBool (9000000 + e.1) then s
    else
      let s := s.noteRead (dieOfCore s.self.core) e.2.1 1 (pxMark o.px = .stream && !e.2.2)
      if pxBypass o.px || e.2.2 then s else s.requestFill s.self.core (lineOf e.2.1) s.self.cid (pxMark o.px)) (s.lineWalks o))

end Sys2Proof.Machine
end

