-- ==== Sys2Proof/Machine/MemEvents.lean ====
section
/-! DEFINITION. The events of memory operations and of the caches (03, 06, 12): each changes the state when its
condition holds and otherwise leaves it as it is. -/

namespace Sys2Proof.Machine

/-- LONG_LATENCY_RESULT (R113): sources, as captured, give the destination. -/
def execLongLatencyResult (wid op : Nat) (s : State) : Host.Outcome State Fault Refusal :=
  .next (match (s.warp wid).op? op with
    | none => s
    | some o => if o.isAlu then s.finishOp wid op fun _ l => o.result l else s)

/-- LOAD_RESPONSE (R152): the load's accesses bind, in program order after the warp's older reads; with the last one it
completes, or traps for a denied lane (R149). -/
def execLoadResponse (wid op : Nat) (s : State) : Host.Outcome State Fault Refusal :=
  .next (match (s.warp wid).op? op with
    | none => s
    | some o => if o.isLoad then (s.bindLoad wid op).finishLoad wid op else s)

/-- STORE_PERFORMED (R152, R316): flags clear; a RED's acquire takes effect (R166). One with a lane denied waits for the
deferred trap to be due (R149). -/
def execStorePerformed (wid op : Nat) (s : State) : Host.Outcome State Fault Refusal :=
  .next (match (s.warp wid).op? op with
    | none => s
    | some o =>
      if (o.isStore || (o.isAtomic && o.dests.isEmpty)) && o.atOrder && o.accesses.all (fun a => a.done && !a.denied)
          && s.performedAll wid op then
        ((s.finishOp wid op fun _ _ => 0).acquireOf wid o).settleAll wid
      else s)

/-- ATOMIC_PERFORMED (R164): the location that `lane` addresses. -/
def execAtomicPerformed (wid op lane : Nat) (s : State) : Host.Outcome State Fault Refusal :=
  .next (match (s.warp wid).op? op with
    | none => s
    | some o =>
      match o.accesses.find? fun a => a.lane == lane && !a.done && !a.denied with
      | none => s
      | some a => if o.isAtomic && o.atOrder then (s.performAtomic wid op o a).finishAtomic wid op else s)

/-- DEFERRED_DENIAL (R149): a denial response is in: trap 0x06 falls due at the warp's next run boundary, with the address
of the lowest lane denied so far; one that is due already stays as it is (DEDUCED, log entry 14). -/
def execDeferredDenial (wid op : Nat) (s : State) : Host.Outcome State Fault Refusal :=
  .next (match (s.warp wid).op? op with
    | none => s
    | some o =>
      match o.accesses.find? (·.denied) with
      | none => s
      | some a =>
        if o.reads then s
        else (s.updWarp wid fun w => { w with
            pend06 := if w.pend06.isSome then w.pend06 else some ⟨0, a.addr⟩ }).updOp wid op fun o =>
          { o with accesses := o.accesses.map fun b => if b.denied then { b with done := true, denied := false } else b })

/-- FENCE_COMPLETE (R169): a .rel or .ar FENCE whose older accesses are complete at its scope; until then its fence is sent
as soon as they have reached the order point (R314). -/
def execFenceComplete (wid op : Nat) (s : State) : Host.Outcome State Fault Refusal :=
  .next (match (s.warp wid).op? op with
    | none => s
    | some o =>
      match o.ins with
      | .fence _ =>
        if !o.release then s
        else if s.releasedOp wid op o && (!o.acquire || (s.warp wid).mayRead op) then
          ((s.finishOp wid op fun _ _ => 0).acquireOf wid o).settleAll wid
        else s.noteCut wid op
      | _ => s)

/-- GRAFT_FENCE (R314): the Graft switch reports the fence of a .dev or .sys release, once every write and atomic that the
core sent to the other die before it has been acknowledged. -/
def execGraftFence (wid op : Nat) (s : State) : Host.Outcome State Fault Refusal :=
  let s := s.noteCut wid op
  .next (match (s.warp wid).op? op with
    | none => s
    | some o =>
      match o.cut with
      | none => s
      | some c =>
        if o.release && decide (3 ≤ o.scope) && decide (s.graftCount (s.warp wid).core c = 0) then
          s.updOp wid op fun o => { o with fenceDone := true }
        else s)

/-- PAGE_WALK (R76, R78): a walk that finds a page installs it; one that faults leaves nothing. -/
def execPageWalk (core cid : Nat) (va : DWord) (s : State) : Host.Outcome State Fault Refusal :=
  .next (if (va >>> 48) != 0 then s else s.installPage core cid va.toNat)

/-- An access that waits for the fill of a line: one of a load of global memory that looks up the L1. -/
def State.waitsFor (s : State) (w : Warp) (o : Op) (line : Nat) (a : Access) : Bool :=
  !a.done && !a.denied && lineOf a.key == line && !s.passesL1 w o a

/-- The loads of warps on a core that wait for a line. -/
def State.waitingLoads (s : State) (core line : Nat) : List (Nat × Nat) :=
  s.warps.flatMap fun w =>
    if w.2.core = core then
      (w.2.ops.filter fun e => e.2.isLoad && e.2.space == .global
        && e.2.accesses.any (s.waitsFor w.2 e.2 line)).map fun e => (w.1, e.1)
    else []

/-- Sectors of a line (0 to 3) that a waiting load touches. -/
def State.wantsSector (s : State) (core line sector : Nat) : Bool :=
  s.warps.any fun w => w.2.core == core && w.2.ops.any fun e => e.2.isLoad && e.2.space == .global
    && e.2.accesses.any fun a => s.waitsFor w.2 e.2 line a && a.key / 32 == 4 * line + sector

/-- The accesses of a waiting load that the line's target refuses, as the read reaches it (R83, R84, R149). -/
def State.refuseWaiting (s : State) (line wid id : Nat) : State :=
  let w := s.warp wid
  match w.op? id with
  | none => s
  | some o =>
    let bad := fun a => s.waitsFor w o line a && !a.granted && s.readRefused (dieOfCore w.core) w.cid a.key o.size
    let t := s.updOp wid id fun o => { o with accesses := o.accesses.map fun a => if bad a then { a with denied := true } else a }
    (o.accesses.filter bad).foldl (fun t a => t.noteDenial w.cid .read a.key o.size) t

/-- The bytes of the line that a fill brings: all of it, or over a link some of its 8-byte units now and the others later
(R155). -/
def State.brings (s : State) (f : Fill) (i : Nat) : Bool :=
  inModule (128 * f.line) || f.overtaken || s.freeBool (4 * 10 ^ 12 + i / 8)

/-- The line's data reach the L1: the loads that wait for them bind, and the sectors they touch stay allocated under the
policy they were asked for with, the whole line where none waits, nothing where an invalidation overtook the fill (R57,
R59). -/
def State.landFill (s : State) (core : Nat) (f : Fill) (wait : List (Nat × Nat)) : State :=
  let base := 128 * f.line
  let data := s.coreView core base 128
  let held := fun (i : Nat) => (s.l1Byte core (base + i)).isSome
  let brings := fun (i : Nat) => !held i && s.brings f i
  let keep := fun (i : Nat) => held i || (!f.overtaken && (wait.isEmpty || s.wantsSector core f.line (i / 32)))
  let whole := (List.range 128).all fun i => held i || brings i
  let pick := s.pick .l1 f.line
  let s := s.updCore core fun c =>
    let c := if f.overtaken then c else c.l1Alloc f.line pick f.mark
    { c with
      l1 := data.zipIdx.foldl (fun m e => if brings e.2 then Sparse.set none m (base + e.2) (some e.1) else m) c.l1
      fills := if whole then c.fills.filter fun g => g.line != f.line else c.fills }
  let s := s.noteRead (dieOfCore core) base 128 (decide (f.mark = .stream))
  let s := wait.foldl (fun s e => s.bindLoad e.1 e.2) s
  s.updCore core fun c => c.l1Keep fun a => !(decide (base ≤ a) && decide (a < base + 128) && !keep (a - base))

/-- L1_FILL (R57): the answer for a line. The targets of the waiting loads, or of the context that asked for it, are asked as
the read reaches them (R83); Graft may hold the read (R313); an uncorrectable error terminates the contexts that asked
(R389). -/
def execL1Fill (core line : Nat) (s : State) : Host.Outcome State Fault Refusal :=
  let die := dieOfCore core
  .next (match (s.core core).fills.find? fun f => f.line == line with
    | none => s
    | some f =>
      if s.graftHolds die (128 * line) 128 then s
      else if s.isBad (128 * line) 128 then
        (f.cid :: (s.waitingLoads core line).map fun e => (s.warp e.1).cid).eraseDups.foldl (fun t c => t.terminate c 0x10)
          (s.updCore core fun c => { c with fills := c.fills.filter fun g => g.line != line })
      else
        let asked := s.waitingLoads core line
        let t := asked.foldl (fun t e => t.refuseWaiting line e.1 e.2) s
        let wait := t.waitingLoads core line
        if wait.isEmpty && (!asked.isEmpty || s.readRefused die f.cid (128 * line) 128) then
          t.updCore core fun c => { c with fills := c.fills.filter fun g => g.line != line }
        else t.landFill core f wait)

/-- The home L2 still has to invalidate the other die's copy of a line (R62). -/
def State.copyOf (s : State) (key n : Nat) : Option (Nat × Nat) :=
  match placeOf key with
  | .hbm d => ((linesOf key n).find? fun ln => match (s.die d).l2.get? ln with
      | some l => l.remote
      | none => false).map fun ln => (d, ln)
  | _ => none

/-- The home L2 of die `d` sends an invalidation, if none is on its way. -/
def State.sendInvalidation (s : State) (d line : Nat) : State :=
  s.updDie (1 - d) fun x =>
    if x.graft.contains (.inval line) then x else { x with graft := x.graft ++ [.inval line] }

/-- A write of a core that has left the core is over: performed, or refused, which drops what the L1 holds of it too
(R87). Its lane is performed with the last of its writes. -/
def State.writeOver (s : State) (core write : Nat) (e : Outbound) (deny : Bool) : State :=
  let s := s.updCore core fun c => { c with outbound := c.outbound.filter fun x => x.1 != write }
  let more := (s.core core).outbound.any fun x => x.2.wid == e.wid && x.2.op == e.op && x.2.lane == e.lane
  let s := s.updOp e.wid e.op fun o => { o with
    accesses := o.accesses.map fun a =>
      if a.lane != e.lane then a
      else if deny then { a with denied := true }
      else if more then a else { a with done := true } }
  if deny then (s.noteDenial e.cid .write e.key e.data.length).dropL1 core e.key e.data.length else s

/-- The target of the atomic that a write comes from has granted it (R149, R380). -/
def State.grantedTo (s : State) (e : Outbound) : Bool :=
  (((s.warp e.wid).op? e.op).map fun o => o.accesses.any fun a => a.lane == e.lane && a.granted).getD false

/-- HOME_L2_WRITE (R62): the write is performed, writes of one core to the same bytes in order and after the core's older
atomics of those bytes (R311, R317), over Graft after those of the die that were accepted before it (R313, R324); Graft has
accepted one to the other die (R314), and a remote copy has to go first. One that its target refuses is dropped, and its
lane waits for the denial response (R149, R412). -/
def execHomeL2Write (core write : Nat) (s : State) : Host.Outcome State Fault Refusal :=
  let c := s.core core
  .next (match findKey? write c.outbound with
    | none => s
    | some e =>
      let n := e.data.length
      let older := ((c.outbound.takeWhile fun x => x.1 != write).any fun x => sameBytes e.key n x.2.key x.2.data.length)
        || s.acceptedBefore false core write e.key n
      let held := remoteTo (dieOfCore core) e.key && !s.graftAccepts core write
      if older || held || s.atomicsAhead core .global 0 write e.key n then s
      else if !s.grantedTo e && s.refused e.cid .write e.key n then (s.writeOver core write e true).finishAtomic e.wid e.op
      else match s.copyOf e.key n with
        | some (d, ln) => s.sendInvalidation d ln
        | none => ((s.homeWriteAs e.first e.key e.data).writeOver core write e false).finishAtomic e.wid e.op)

/-- REMOTE_READ (R61): the home L2 supplies the line and sets its remote-copy flag; not while it waits for the
acknowledgement of an invalidation of that line (R62). -/
def execRemoteRead (die line : Nat) (s : State) : Host.Outcome State Fault Refusal :=
  .next (match (s.die die).rdcMiss.get? line with
    | none => s
    | some first =>
      if s.graftHolds die (128 * line) 128 || (s.die die).graft.contains (.inval line) then s
      else
        let s := (s.l2Fill (1 - die) line first).updDie (1 - die) fun x => { x with
          l2 := x.l2.upd line fun e => { e with remote := true } }
        s.updDie die fun x => { x with
          rdcMiss := x.rdcMiss.erase line
          graft := x.graft ++ [.data line ⟨s.memBytes (128 * line) 128, first⟩] })

/-- The oldest Graft message about a line (R62: one line's messages stay in order). -/
def Die.message? (d : Die) (line : Nat) : Option GraftMsg := d.graft.find? fun g => g.line == line

/-- RDC_FILL (R61): the line is allocated, unless a write of the die to it is outstanding (R313). -/
def execRdcFill (die line : Nat) (s : State) : Host.Outcome State Fault Refusal :=
  .next (match (s.die die).message? line with
    | some (.data l e) =>
      let pick := s.pick .rdc line
      let holds := s.graftHolds die (128 * line) 128
      s.updDie die fun x =>
        let x := { x with graft := x.graft.erase (.data l e) }
        if holds then x else x.rdcPut line pick e
    | _ => s)

/-- RDC_INVALIDATION (R62): the copy is dropped if present, and the acknowledgement clears the remote-copy flag. -/
def execRdcInvalidation (die line : Nat) (s : State) : Host.Outcome State Fault Refusal :=
  .next (match (s.die die).message? line with
    | some (.inval l) =>
      let s := s.updDie die fun x => { x with graft := x.graft.erase (.inval l), rdc := x.rdc.erase line }
      s.updDie (1 - die) fun x => { x with l2 := x.l2.upd line fun e => { e with remote := false } }
    | _ => s)

/-- L2_EVICTION (R62): an RDC copy is invalidated first; a dirty line goes to Canopy (R64). -/
def execL2Eviction (die line : Nat) (s : State) : Host.Outcome State Fault Refusal :=
  .next (match (s.die die).l2.get? line with
    | none => s
    | some e => if e.remote then s.sendInvalidation die line else s.l2Drop die line)

end Sys2Proof.Machine
end

