-- ==== Sys2Proof/Machine/Stop.lean ====
section
/-! DEFINITION. The stop walk, save, restore and migration (14, R392 to R397; 13, R363, R364) and the watchdogs (R390,
R391). An event whose condition does not hold leaves the state as it is. -/

namespace Sys2Proof.Machine

/-! ## The walk (R392, R393) -/

/-- A stop of the blocks listed begins, unless one is in progress in the context (DEDUCED, log entry 47). -/
def State.startWalk (s : State) (cid : Nat) (blocks : List Nat) (whole : Bool) (dest : Option Nat) : State :=
  s.updCtx cid fun c => if c.walk.isSome then c else { c with walk := some ⟨blocks, 0, s.time.toNat, whole, dest⟩ }

/-- Blocks of a context that hold resources on a core. -/
def State.placedBlocks (s : State) (cid : Nat) : List Nat :=
  (s.blocks.filter fun e => e.2.cid == cid && e.2.placedNow).map (·.1)

/-- A context-wide stop. -/
def State.stopAll (s : State) (cid : Nat) : State :=
  if s.placedBlocks cid = [] then s else s.startWalk cid (s.placedBlocks cid) true none

/-- The warp is at rest: stopped, or ended. -/
def Warp.atRest (w : Warp) : Bool := w.life == .ended || (w.life == .stopped && !w.restless)

/-- Warps of one role of a walk's blocks of one grid. -/
def State.stageWarps (s : State) (w : Walk) (role : Role) (grid : Nat) : List Nat :=
  w.blocks.flatMap fun b => match s.blocks.get? b with
    | none => []
    | some x => if x.grid = grid then x.warps.filter fun y => (s.warp y).role == role else []

/-- Grids of a walk's blocks, in launch order, which puts a predecessor first. -/
def State.walkGrids (s : State) (cid : Nat) (w : Walk) : List Nat :=
  let mine := (w.blocks.filterMap fun b => (s.blocks.get? b).map (·.grid)).eraseDups
  let next := (s.ctx cid).nextGrid
  let count := fun (g : Nat) => (mine.filter fun h => decide (launchesBack next g < launchesBack next h)).length
  (List.range mine.length).filterMap fun i => mine.find? fun g => count g == i

/-- The stages of a walk in their order (DEDUCED, log entry 47). -/
def State.stages (s : State) (cid : Nat) (w : Walk) : List (Role × Nat) :=
  [Role.copy, .matrix, .vector].flatMap fun r => (s.walkGrids cid w).map fun g => (r, g)

/-- Inbound multicast into the walk's blocks of a grid is over. -/
def State.inboundClear (s : State) (w : Walk) (grid : Nat) : Bool :=
  w.blocks.all fun b => match s.blocks.get? b with
    | none => true
    | some x => x.grid != grid || x.inbound == 0

/-- The stage's warps rest, their commands have completed, for the copy step the inbound multicasts too. -/
def State.stageDone (s : State) (w : Walk) (st : Role × Nat) : Bool :=
  let ws := s.stageWarps w st.1 st.2
  (ws.all fun x => (s.warp x).atRest) && (s.cmds.all fun e => !ws.contains e.2.wid)
    && (st.1 != .copy || s.inboundClear w st.2)

/-- A warp stops at a run boundary, out of handler mode and with no trap due; one that a trap has come to issues again. -/
def State.stopWarp (s : State) (wid : Nat) : State :=
  let w := s.warp wid
  if w.life = .stopped ∧ w.restless then s.updWarp wid fun w => { w with life := .resident }
  else if w.life = .resident && w.live != 0 && !s.hasRun wid && !w.restless then
    s.updWarp wid fun w => { w with life := .stopped, stopping := true }
  else s.updWarp wid fun w => { w with stopping := true }

/-- An APPEND that waits for room in a list. -/
def State.appendFull (s : State) (c : Cmd) : Bool :=
  match c.ins with
  | .append _ => c.st == .started && c.fault.isNone
      && c.groups.any fun g => decide (s.listCapacity c.cid < (s.list c.cid g.1).length + g.2.length)
  | _ => false

/-- An APPEND that is to be withdrawn: it waits for room, or comes after one of its warp that does. -/
def State.appendWaits (s : State) (id : Nat) (c : Cmd) : Bool :=
  match c.ins with
  | .append _ => c.st != .finishing && c.fault.isNone
      && s.cmds.any fun e => decide (e.1 ≤ id) && e.2.wid == c.wid && s.appendFull e.2
  | _ => false

/-- Lanes whose items a started APPEND has appended already. -/
def Cmd.appendDone (c : Cmd) : List Nat :=
  if c.st = .queued then []
  else (c.appendItems.map (·.1)).filter fun l => !c.groups.any fun g => g.2.any fun x => x.lane == l

/-- An APPEND of a stopped warp is withdrawn: its run's threads start again at the RPC they had as it issued, so that it
issues again, and what it has appended already stays recorded, so that no item goes in twice (R393) (DEDUCED, log entry 37).
-/
def State.withdraw (s : State) (id : Nat) (c : Cmd) : State :=
  let s := ((s.dropOp c.wid id).dropCmd id).updWarp c.wid fun w =>
    { (c.rpcs.filter fun e => w.live.getLsbD e.1).foldl (fun x e => x.setPc e.1 e.2) w with
      fetched := none
      appendOrd := Nat.min w.appendOrd c.ordinal
      appended := c.appendDone.map (fun l => (c.place, l)) ++ w.appended }
  (s.settleOpt c.wid c.setA).settleOpt c.wid c.setB

/-- Step 6 for the walk's warps: nothing in flight. -/
def State.walkQuiet (s : State) (w : Walk) : Bool :=
  let ws := w.blocks.flatMap fun b => ((s.blocks.get? b).map (·.warps)).getD []
  (ws.all fun x => (s.warp x).ops.isEmpty) && s.cores.all fun k => k.2.outbound.all fun e => !ws.contains e.2.wid

/-- The walk's blocks that still hold resources. -/
def State.walkLeft (s : State) (w : Walk) : List Nat :=
  w.blocks.filter fun b => ((s.blocks.get? b).map Block.placedNow).getD false

/-- A walk with no block left is over. -/
def State.endWalk (s : State) (cid : Nat) : State :=
  match (s.ctx cid).walk with
  | none => s
  | some w => if s.walkLeft w = [] then s.updCtx cid fun c => { c with walk := none } else s

/-- STOP_WALK (R392): the first stage that is not done goes on; with all done and nothing in flight the walk has finished. Of
several APPENDs of a warp that are withdrawn the oldest says where its threads start again. -/
def execStopWalk (cid : Nat) (s : State) : Host.Outcome State Fault Refusal :=
  .next (match (s.ctx cid).walk with
    | none => if (s.ctx cid).stop then s.stopAll cid else s
    | some w =>
      if s.walkLeft w = [] then s.endWalk cid
      else if w.step ≠ 0 then s
      else match (s.stages cid w).find? fun st => !s.stageDone w st with
        | some st =>
          let t := (s.stageWarps w st.1 st.2).foldl (fun t x => t.stopWarp x) s
          (t.cmds.filter fun e => (t.warp e.2.wid).life == .stopped && (s.stageWarps w st.1 st.2).contains e.2.wid
            && t.appendWaits e.1 e.2).reverse.foldl (fun t e => t.withdraw e.1 e.2) t
        | none =>
          if s.walkQuiet w then s.updCtx cid fun c => { c with walk := some { w with step := 1 } } else s)

/-! ## Save (R394, R395) -/

/-- A free block image of a die's save area (R404). -/
def State.freeImage (s : State) (die : Nat) : Option Nat :=
  if (s.ctlWord die 0x2400).getLsbD 0 then
    (List.range ((s.ctlWord die 0x2408).extractLsb' 0 16).toNat).find? fun j => !(s.die die).blockImages.contains j
  else none

/-- The block's image: its own from an earlier save, else a free one of the die. -/
def State.pickImage (s : State) (b : Block) : Option (Nat × Nat) :=
  match b.saveImage with
  | some i => some i
  | none => (s.freeImage (dieOfCore b.core)).map fun j => (dieOfCore b.core, j)

/-- The register lines of a warp become evictable; a dirty register is in a line (R73). -/
def State.releaseLines (s : State) (core wid : Nat) : State :=
  let w := s.warp wid
  let keys := ((List.range 64).filter fun r => w.dirty.getLsbD r && decide (r < w.regs)).map fun r => 64 * wid + r
  s.updCore core fun c =>
    let own := c.rlines.map fun e => if e.1 / 64 = wid then (e.1, true) else e
    { c with rlines := keys.foldl (fun m k => Tbl.put m k true) own }

/-- What the core the block leaves has sent comes before the completion of the block's grid (R323). -/
def State.noteSent (s : State) (b : Block) : State :=
  s.updGrid b.cid b.grid fun g => { g with sent := (b.core, s.nextId) :: g.sent }

/-- A block becomes Saved: its resources on the core are free (DEDUCED, log entry 46). -/
def State.saveBlock (s : State) (blk : Nat) (b : Block) (img : Nat × Nat) : State :=
  let s := if b.saveImage.isSome then s else s.updDie img.1 fun d => { d with blockImages := img.2 :: d.blockImages }
  let s := b.warps.foldl (fun s w => s.releaseLines b.core w) s
  let s := s.writeImage blk b (s.imageAddr img)
  let s := (s.noteSent b).updBlock blk fun x => { x with life := .saved, saveImage := some img }
  let s := b.warps.foldl (fun s w => s.updWarp w fun x =>
    { x with life := if x.life = .ended then .ended else .saved, fetched := none }) s
  s.updCore b.core fun c => { c with
    age := c.age.map fun (l : List Nat) => l.filter fun x => !b.warps.contains x
    tft := c.tft.filter fun e => e.1 / 256 != b.cid }

/-- A rotated gang joins the unplaced ones at the back once the walk is over (R364). -/
def State.requeue (s : State) (cid : Nat) (w : Walk) (b : Block) : State :=
  if w.whole then s
  else s.updGrid cid b.grid fun g => { g with
    waiting := if g.waiting.contains b.gang then g.waiting else g.waiting ++ [b.gang] }

/-- SAVE (R394): once the walk has finished, the inbound-write counter is zero and an image is free. -/
def execSave (blk : Nat) (s : State) : Host.Outcome State Fault Refusal :=
  .next (match s.blocks.get? blk with
    | none => s
    | some b => match (s.ctx b.cid).walk with
      | none => s
      | some w =>
        if w.step = 0 || w.migrateTo.isSome || !w.blocks.contains blk || !b.placedNow || b.inbound != 0
            || (b.warps.all fun x => (s.warp x).life == .ended) then s
        else match s.pickImage b with
          | none => s
          | some img => ((s.saveBlock blk b img).requeue b.cid w b).endWalk b.cid)

/-! ## Restore (R396, R397) and migration (R363) -/

/-- The former core gives up a warp's register lines, dirty ones written back (R73). -/
def State.flushLines (s : State) (core wid : Nat) : State :=
  let s := (List.range 64).foldl (fun s r => s.writeBack wid r) s
  s.updCore core fun c => { c with rlines := c.rlines.filter fun e => e.1 / 64 != wid }

/-- On the same core the warp reclaims its lines. -/
def State.reclaimLines (s : State) (core wid : Nat) : State :=
  s.updCore core fun c => { c with rlines := c.rlines.map fun e => if e.1 / 64 = wid then (e.1, false) else e }

/-- A block takes its place on `core`; a projection is to be reloaded there (R274). -/
def State.arrive (s : State) (blk core : Nat) (b : Block) : State :=
  let s := b.warps.foldl (fun s w => if b.core = core then s.reclaimLines core w else s.flushLines b.core w) s
  let s := s.updCore b.core fun c => { c with
    age := c.age.map fun (l : List Nat) => l.filter fun x => !b.warps.contains x }
  let s := (s.unidle core).updBlock blk fun x => { x with life := .saved }
  let slots := s.freeSlots core
  let residency := s.freeResidency core
  let s := s.updBlock blk fun x => { x with
    life := .resident, core := core, residency := residency, since := s.time.toNat, lastActive := s.time.toNat }
  b.warps.zipIdx.foldl (fun s e =>
    let slot := slots.getD e.2 0
    let s := s.updWarp e.1 fun w => { w with
      core := core, slot := slot, fetched := none, life := if w.life = .ended then .ended else .resident
      stopping := false
      proj := w.proj.map fun p => { p with load := 0 } }
    if (s.warp e.1).life = .ended then s else s.joinAge core slot e.1) s

/-- The blocks of a gang, with their numbers. -/
def State.gangBlocks (s : State) (cid grid gang : Nat) : List (Nat × Block) :=
  s.blocks.filter fun e => e.2.cid == cid && e.2.grid == grid && e.2.gang == gang

/-- What the gang's blocks need on core `i` of their span. -/
def restoreNeed (k : Kernel) (bs : List (Nat × Block)) (i : Nat) : Room :=
  let n := (bs.filter fun e => k.spanCore e.2.rank == i).length
  Room.plus (Room.times n k.need) (if i = 0 ∧ 1 < k.gangb then gangPhasers else [0, 0, 0, 0, 0, 0])

/-- It is the gang's turn: a rotated one waits behind the unplaced (R364). -/
def Grid.turn (g : Grid) (gang : Nat) : Bool := !g.waiting.contains gang || g.waiting.head? == some gang

/-- What the copy engine of the new core reads of a saved block's images (R395, R396): control images, tile image, allocated
banks, block control record. -/
def State.imageParts (s : State) (b : Block) : List (Nat × Nat) :=
  let tile := ((s.grid? b.cid b.grid).map fun g => g.kernel.tileBytes).getD 0
  (b.warps.map fun w => (s.ctlImage (s.warp w), 0x400)) ++ match b.saveImage with
    | none => []
    | some i =>
      let a := s.imageAddr i
      (a, tile) :: (List.range b.acc.length).map (fun j => (a + 0x100000 + j * 0x20000, 0x20000)) ++ [(a + 0x1C0000, 0x4000)]

/-- An uncorrectable error stands in one of them (R389). -/
def State.imageBad (s : State) (b : Block) : Bool :=
  let parts := s.imageParts b
  s.bad.any fun e => parts.any fun p => decide (p.1 ≤ e.1) && decide (e.1 < p.1 + p.2)

/-- RESTORE (R396): the whole gang of the block, on the span that starts at `core`; an uncorrectable error in one of its
images terminates the context (R389). -/
def execRestore (blk core : Nat) (s : State) : Host.Outcome State Fault Refusal :=
  .next (match s.blocks.get? blk with
    | none => s
    | some b => match s.grid? b.cid b.grid with
      | none => s
      | some g =>
        let k := g.kernel
        let bs := s.gangBlocks b.cid b.grid b.gang
        if !s.mayPlace b.cid b.grid || s.outOfTurn b.cid || !g.turn b.gang || !bs.all (fun e => e.2.life == .saved && e.2.inbound == 0) then s
        else match spanAt core k.span with
          | none => s
          | some l =>
            if !l.zipIdx.all fun e => Room.has (s.usedOn e.1) (restoreNeed k bs e.2) then s
            else if bs.any fun e => s.imageBad e.2 then s.terminate b.cid 0x10
            else
              let t := s.beginSlice b.cid
              let t := bs.foldl (fun t e =>
                let c := l.getD (k.spanCore e.2.rank) core
                (t.noteReads (dieOfCore c) (s.imageParts e.2) false).arrive e.1 c e.2) t
              let t := { t with gangs := t.gangs.mapVals fun _ x =>
                if x.cid = b.cid ∧ x.grid = b.grid ∧ x.idx = b.gang then { x with home := core } else x }
              let t := l.foldl (fun t c => t.acquire c 3) t
              let t := t.updGrid b.cid b.grid fun g => { g with waiting := g.waiting.erase b.gang }
              t.restartHang b.cid b.grid)

def State.isMigratable (s : State) (b : Block) : Bool :=
  ((s.grid? b.cid b.grid).map fun g => g.kernel.migr && g.kernel.gangb == 1).getD false

/-- No span has room for a grid's next gang, but one through `core` would once its migratable blocks moved (R363); where a
deterministic context's virtual cores have none, no move makes it fit (R367). -/
def State.wantsMove (s : State) (core cid n : Nat) (g : Grid) : Bool :=
  let k := g.kernel
  let moved := { s with blocks := s.blocks.filter fun e => !s.isMigratable e.2 || e.2.life == Life.saved }
  g.open && s.mayPlace cid n && (!g.queuedOrHeld || (g.gr.start == 0 && s.predMet cid g)) &&
    match s.nextGang cid n g with
    | none => false
    | some j => s.virtualFits cid k j && (allSpans k.span).all (fun l => !s.spanFits cid k l (k.gangb * k.warps))
        && (allSpans k.span).any fun l => l.contains core && moved.spanFits cid k l (k.gangb * k.warps)

/-- BLOCK_MIGRATION (R363): first the block's stop begins; when its walk has finished the block moves. -/
def execBlockMigration (blk core : Nat) (s : State) : Host.Outcome State Fault Refusal :=
  .next (match s.blocks.get? blk with
    | none => s
    | some b => match s.grid? b.cid b.grid with
      | none => s
      | some g =>
        let room := coreEnabled core && core != b.core && Room.has (s.usedOn core) g.kernel.need
        match (s.ctx b.cid).walk with
        | none =>
          if b.placedNow && s.isMigratable b && room && !(s.ctx b.cid).stop
              && s.contexts.any (fun c => c.2.grids.any fun e => s.wantsMove b.core c.1 e.1 e.2) then
            s.startWalk b.cid [blk] false (some core)
          else s
        | some w =>
          if w.step = 0 || w.migrateTo != some core || !w.blocks.contains blk || !b.placedNow || b.inbound != 0 || !room then s
          else
            let t := (((s.noteSent b).arrive blk core b).acquire core 3).updCtx b.cid fun c => { c with walk := none }
            t.restartHang b.cid b.grid)

/-! ## QUANTUM (R364) -/

/-- Effective policy (R362): 0 FREE, 1 ORDERED, 2 QUANTUM. -/
def State.policy (s : State) (cid : Nat) (g : Grid) : Nat :=
  if s.det cid then 1 else if g.gr.pol = 0 then g.kernel.policy else g.gr.pol - 1

/-- QUS in ns (DEDUCED, log entry 48). -/
def State.quantum (s : State) (cid : Nat) : Nat :=
  let q := ((s.desc cid 6).extractLsb' 32 32).toNat
  1000 * (if q = 0 then 1000 else q)

/-- QUANTUM_SLICE_END (R364), and the time-multiplexing of deterministic mode (R367). -/
def execQuantumSliceEnd (cid : Nat) (s : State) : Host.Outcome State Fault Refusal :=
  let c := s.ctx cid
  let quantum := s.blocks.any fun b => b.2.cid == cid && b.2.placedNow
    && (((s.grid? cid b.2.grid).map fun g => s.policy cid g == 2).getD false || s.det cid)
  let others := s.contexts.any fun e => e.1 != cid && s.hasWaiting e.1
  .next (if c.walk.isNone && quantum && decide (c.sliceSince + s.quantum cid ≤ s.time.toNat)
      && (others || (s.det cid && s.hasWaiting cid)) then (s.stopAll cid).updCtx cid fun c => { c with sliced := others }
    else s)

/-- Resident blocks of a grid that spin, with their numbers. -/
def State.spinning (s : State) (cid grid : Nat) : List (Nat × Block) :=
  s.blocks.filter fun e => e.2.cid == cid && e.2.grid == grid && e.2.placedNow
    && decide (e.2.lastActive + s.quantum cid ≤ s.time.toNat)

/-- The one longest resident. -/
def longest : List (Nat × Block) → Option (Nat × Block)
  | [] => none
  | e :: l => some (l.foldl (fun a b => if b.2.since < a.2.since then b else a) e)

/-- QUANTUM_ROTATION (R364): the gang of the longest resident spinning block is stopped. -/
def execQuantumRotation (cid grid : Nat) (s : State) : Host.Outcome State Fault Refusal :=
  .next (match s.grid? cid grid with
    | none => s
    | some g =>
      let k := g.kernel
      match g.waiting.head?, longest (s.spinning cid grid) with
      | some j, some e =>
        let full := (allSpans k.span).all fun l => !s.gangFits cid k j l (k.gangb * k.warps)
        if s.policy cid g == 2 && full && (s.ctx cid).walk.isNone && decide (g.rotatedAt + s.quantum cid ≤ s.time.toNat)
            && g.open && s.mayPlace cid grid then
          (s.startWalk cid ((s.gangBlocks cid grid e.2.gang).map (·.1)) false none).updGrid cid grid fun g =>
            { g with rotatedAt := s.time.toNat }
        else s
      | _, _ => s)

/-! ## Watchdogs (R390, R391) -/

/-- The hang timer runs: the grid has been placed, no stop covers it and none of its blocks is saved
(DEDUCED, log entry 49). -/
def State.hangRuns (s : State) (cid grid : Nat) (g : Grid) : Bool :=
  (g.st == .placing || g.st == .running)
    && !(s.blocks.any fun b => b.2.cid == cid && b.2.grid == grid && b.2.life == .saved)
    && match (s.ctx cid).walk with
      | none => true
      | some w => !w.blocks.any fun b => ((s.blocks.get? b).map (·.grid)) == some grid

/-- A warp takes code 0x0F: a blocked one at once, another at its next run boundary (DEDUCED, log entry 49). -/
def State.hangWarp (s : State) (wid : Nat) : State :=
  match s.warps.get? wid with
  | none => s
  | some w =>
    if w.live = 0 then s
    else if w.blocked.isSome then
      (s.updWarp wid fun w => { w with heldWait := w.blocked, heldWord := w.pendWord, blocked := none }).trap wid
        ⟨0x0F, 0, 0, none, none, none, true, w.headRun.2, .current⟩
    else s.updWarp wid fun w => { w with pend0F := some ⟨0, 0⟩ }

/-- HANG_WATCHDOG_EXPIRY (R390). -/
def execHangWatchdogExpiry (cid grid : Nat) (s : State) : Host.Outcome State Fault Refusal :=
  .next (match s.grid? cid grid, (s.ctx cid).job with
    | some g, some j =>
      if j.hangLim = 0 || !s.hangRuns cid grid g || decide (s.time.toNat < g.hangSince + j.hangLim) then s
      else
        let mine := s.warps.filter fun e => e.2.cid == cid && e.2.grid == grid && e.2.life == .resident
        if mine.any fun e => e.2.inHandler then s.terminate cid 0x0F
        else (mine.foldl (fun t e => t.hangWarp e.1) s).restartHang cid grid
    | _, _ => s)

/-- SAVE_LIMIT_EXPIRY (R391): the context is lost. The limit counts from the stop message: the walk's, or that of the STOP
which still waits for one. -/
def execSaveLimitExpiry (cid : Nat) (s : State) : Host.Outcome State Fault Refusal :=
  let c := s.ctx cid
  .next (match c.job with
    | none => s
    | some j =>
      let limit := if j.saveLim = 0 then 100000000 else j.saveLim
      let expired := fun (since : Nat) => decide (since + limit < s.time.toNat)
      if (c.walk.map fun w => expired w.since).getD false || (c.stop && s.placedBlocks cid != [] && expired c.stopAt) then
        s.terminate cid 0x0E
      else s)

end Sys2Proof.Machine
end

