-- ==== Sys2Proof/Machine/Registers.lean ====
section
/-! DEFINITION. The registers the outside world reaches (15, 03): Job Entry and STOPCTL, the denial captures, the
invalidation of translations, the writable fields of every other register (R4), and what each register reads as. -/

namespace Sys2Proof.Machine

/-! ## JOBENT (R401, Tables 15.3 and 15.4) -/

/-- Word `i` of a context's descriptor as it stands in die 0's control space (R74). -/
def State.descWord (s : State) (cid i : Nat) : DWord := s.ctlWord 0 (0x10000 + 0x40 * cid + 8 * i)

/-- A descriptor that JOBENT refuses (R74, R336). -/
def State.descBad (s : State) (cid : Nat) : Bool :=
  let w := s.descWord cid
  !(w 0).getLsbD 0 || !(w 1).getLsbD 0 || !(w 2).getLsbD 0 || (w 1).getLsbD 40 || !(w 2).getLsbD 40
    || decide (13 ≤ ((w 4).extractLsb' 0 4).toNat) || decide (12 ≤ ((w 5).extractLsb' 0 4).toNat)

/-- The context with its descriptor sampled. -/
def State.sampleDesc (s : State) (cid : Nat) : State :=
  s.updCtx cid fun c => { c with desc := (List.range 8).map (s.descWord cid) }

/-- The outcome of a JOBENT write that changes nothing but LAST. -/
def State.jobLast (s : State) (cid : Nat) (v : BitVec 8) : State := s.updCtx cid fun c => { c with last := v }

/-- The conductor of a job (R337, R354): one lane, w0 to w3 given, everything else zero. -/
def conductorWarp (cid die : Nat) (jcb entry param : DWord) : Warp :=
  { Warp.empty with
    cid := cid, role := .control, regs := 0, core := 128 + die, life := .resident, entry := entry.truncate 48, live := 1
    w := Sparse.setList 0 [] 0
      [jcb.truncate 32, (jcb >>> 32).truncate 32, param.truncate 32, (param >>> 32).truncate 32] }

/-! ## Obligations without a stated outcome (R1, R74, R335, R404) -/

/-- An enabled window of target `t` of die `d` opens some of the addresses from `lo` to below `hi` to a master below
`masters`. -/
def State.windowOver (s : State) (d t i lo hi masters : Nat) : Bool :=
  let w := fun (j : Nat) => s.ctlWord d (0x100000 + t * 0x2000 + i * 128 + 8 * j)
  (w 0).getLsbD 63 && decide (((w 0).extractLsb' 16 30).toNat * 0x10000 < hi)
    && decide (lo < (((w 1).extractLsb' 16 30).toNat + 1) * 0x10000)
    && (List.range masters).any fun m => [false, true].any fun write =>
      s.windowPermits d t i m write (Nat.max lo (((w 0).extractLsb' 16 30).toNat * 0x10000))

def State.windowsOver (s : State) (lo hi masters : Nat) : Bool :=
  [0, 1].any fun d => (List.range 22).any fun t => (List.range 64).any fun i => s.windowOver d t i lo hi masters

/-- The context's images are open to others: its pools to a context or to the host (R74), a save area to any master but
firmware (R404). -/
def State.imagesOpen (s : State) (cid : Nat) : Bool :=
  [0, 1].any fun d =>
    let pool := s.imageBase cid d
    let area := ((s.ctlWord d 0x2400).extractLsb' 21 25).toNat * 2 ^ 21
    s.windowsOver pool (pool + 0x2400000) 65
      || (s.ctlWord d 0x2400).getLsbD 0
        && s.windowsOver area (area + ((s.ctlWord d 0x2408).extractLsb' 0 16).toNat * 2 ^ 21) 255

/-- A save area in use is not as Table 15.12 asks for: 64 images at least, from an address of its own die on, all of them in
that die's HBM4 (R404). -/
def State.areaWrong (s : State) : Bool :=
  [0, 1].any fun d =>
    let base := ((s.ctlWord d 0x2400).extractLsb' 21 25).toNat * 2 ^ 21
    let count := ((s.ctlWord d 0x2408).extractLsb' 0 16).toNat
    (s.ctlWord d 0x2400).getLsbD 0
      && (decide (count < 64) || placeOf base != .hbm d || placeOf (base + count * 2 ^ 21 - 1) != .hbm d)

/-- Contexts that run a job while such an obligation is broken have lost what they can observe (R1): `area` says that a save
area is changed now (DEDUCED, log entry 72). -/
def State.noteBreach (s : State) (area : Bool) : State :=
  { s with contexts := s.contexts.mapVals fun n c =>
      { c with breached := c.breached || (c.job.isSome && (area || s.imagesOpen n)) } }

/-- An accepted JOBENT write: `t` has the descriptor sampled, `ws` are the words of the job control block; what the reserved
bytes 0x80 to 0xFF hold beside zero breaks an obligation that has no outcome of its own (R1, R4, R335), as images that
others may reach and a save area out of its bounds do (DEDUCED, log entry 50; DEDUCED, log entry 72). -/
def State.startJob (t : State) (cid : Nat) (jcb : DWord) (ws : List DWord) : State :=
  let die := if (ws.getD 3 0).getLsbD 0 then 1 else 0
  let id := t.nextId
  let t := t.updCtx cid fun c => { c with
    seq := c.seq + 1, last := 1, jcberr := false
    breached := c.breached || t.imagesOpen cid || t.areaWrong || (ws.drop 16).any fun x => x != 0
    job := some ⟨jcb, (ws.getD 14 0).toNat, (ws.getD 15 0).toNat, die, id, none⟩ }
  let t := { t with
    nextId := id + 1
    cores := t.cores.mapVals fun _ k => { k with
      icache := k.icache.filter fun e => e.1 / 2 ^ 64 != cid
      tft := k.tft.filter fun e => e.1 / 256 != cid } }
  let t := t.setWarp id (conductorWarp cid die jcb (ws.getD 0 0) (ws.getD 1 0))
  let t := t.joinAge (128 + die) 0 id
  match t.ctxWrite (128 + die) cid (jcb + 0x20) (bytes64 1) with
  | .ok u => u
  | .error f => (t.noteFault f).terminate cid f.cause

/-- JOBENT (R401): the conditions of Table 15.4 in their order, else the job starts (R337) (DEDUCED, log entry 50). -/
def execJobent (cid bytes : Nat) (value : DWord) (s : State) : Host.Outcome State Fault Refusal :=
  let t := s.sampleDesc cid
  .next (if 64 ≤ cid then s
    else if bytes < 8 then s.jobLast cid 5
    else if !s.ready then s.jobLast cid 6
    else if (s.ctx cid).job.isSome then s.jobLast cid 2
    else if value.extractLsb' 48 16 != 0 || value.extractLsb' 0 6 != 0 then s.jobLast cid 4
    else if s.descBad cid then s.jobLast cid 3
    else match t.ctxRead 128 cid value 256 with
      | .error f => (s.noteFault f).jobLast cid 7
      | .ok bs =>
        let ws := words64 bs
        if (ws.getD 3 0) >>> 1 != 0 then s.jobLast cid 7 else (t.noteCtxRead 128 cid value 256).startJob cid value ws)

/-! ## STOPCTL (R402) -/

/-- STOPPED (Table 15.3). -/
def State.stopped (s : State) (cid : Nat) : Bool := (s.ctx cid).stop && (s.placedBlocks cid).isEmpty

def execStopctlStop (cid : Nat) (value : DWord) (s : State) : Host.Outcome State Fault Refusal :=
  .next (if value.getLsbD 0 && decide (cid < 64) then
      (s.updCtx cid fun c => { c with stop := true, stopAt := if c.stop then c.stopAt else s.time.toNat }).stopAll cid
    else s)

def execStopctlResume (cid : Nat) (value : DWord) (s : State) : Host.Outcome State Fault Refusal :=
  .next (if value.getLsbD 2 && !value.getLsbD 0 && s.stopped cid then s.updCtx cid fun c => { c with stop := false } else s)

/-! ## Denial captures (R405) -/

def execCaptureClear (die target : Nat) (value : DWord) (s : State) : Host.Outcome State Fault Refusal :=
  let blank : Capture := ⟨false, 0, 0, 0, 0⟩
  .next (if value.getLsbD 63 then
      s.updDie die fun d => { d with
        captures := Sparse.set blank d.captures target { Sparse.get blank d.captures target with v := false, count := 0 } }
    else s)

/-! ## Invalidation of translations (R81, R82) -/

/-- XINVCTL_GO: a write while GO reads 1 is ignored. -/
def execXinvctlGo (die : Nat) (value : DWord) (s : State) : Host.Outcome State Fault Refusal :=
  .next (if (s.ctlWord die 0x1008).getLsbD 0 || decide (2 ≤ die) then s else s.setCtl die 0x1008 (value &&& 0xFF0003))

/-- The invalidation that a die's registers ask for covers a page of `bits` bits, page number `va`, of context `cid`
(DEDUCED, log entry 51). Of a scope 00 one the page is that which XINVADDR names as it completes: R81 freezes XINVCTL alone
while GO reads 1 (DESIGN CHOICE, log entry 70). -/
def State.invHits (s : State) (die cid va bits : Nat) : Bool :=
  let c := s.ctlWord die 0x1008
  let mine := (c.extractLsb' 18 6).toNat == cid
  match (c.extractLsb' 16 2).toNat with
  | 0 => mine && va == ((s.ctlWord die 0x1000).extractLsb' 16 32).toNat * 65536 / 2 ^ bits
  | 1 => mine
  | 2 => true
  | _ => false

/-- Pointer entries of a context are cleared (DEDUCED, log entry 51). -/
def State.invClears (s : State) (die cid : Nat) : Bool :=
  let c := s.ctlWord die 0x1008
  match (c.extractLsb' 16 2).toNat with
  | 0 | 1 => (c.extractLsb' 18 6).toNat == cid
  | 2 => true
  | _ => false

/-- Dies the invalidation reaches. -/
def State.invDies (s : State) (die : Nat) : List Nat :=
  if (s.ctlWord die 0x1008).getLsbD 1 then [die, 1 - die] else [die]

/-- An access of the warp at `va` used a translation that goes: in whichever of the three page sizes. -/
def State.invVa (s : State) (die cid : Nat) (va : DWord) : Bool :=
  [16, 21, 30].any fun b => s.invHits die cid (va.toNat / 2 ^ b) b

/-- Every access that used such a translation has been performed or has faulted. -/
def State.invQuiet (s : State) (die : Nat) : Bool :=
  let there := fun (core : Nat) => (s.invDies die).contains (dieOfCore core)
  s.cores.all (fun k => !there k.1 || k.2.outbound.all fun e => !s.invVa die e.2.cid e.2.va)
    && s.warps.all fun w => !there w.2.core || w.2.ops.all fun e =>
      e.2.space != .global || e.2.accesses.all fun a => a.done || a.denied || !s.invVa die w.2.cid a.addr

/-- INVALIDATION_COMPLETE (R82) (DESIGN CHOICE, log entry 70). -/
def execInvalidationComplete (die : Nat) (s : State) : Host.Outcome State Fault Refusal :=
  let c := s.ctlWord die 0x1008
  let there := fun (d : Nat) => (s.invDies die).contains d
  let stays := fun (e : Tlb) => !s.invHits die e.cid e.va e.bits
  .next (if !c.getLsbD 0 || !s.invQuiet die then s
    else
      let s' := { s with
        cores := s.cores.mapVals fun n k => if there (dieOfCore n) then { k with tlb := k.tlb.filter stays } else k
        dies := s.dies.mapVals fun n d => if there n then { d with
            stc := d.stc.filter stays, ptrc := d.ptrc.filter fun e => !s.invClears die e.cid } else d }
      s'.setCtl die 0x1008 (c &&& ~~~1))

/-! ## REGISTER_WRITE (R4): the writable fields -/

/-- Writable bits of a descriptor word (Tables 3.6 and 13.4). -/
def descMask : Nat → DWord
  | 0 => 0x00003FFFFFFFF001
  | 1 | 2 => 0x00003FFFFFE00001
  | 3 => 0x0000FFFFFFFFFFC0
  | 4 => 0x0000FFFFFFFFFFCF
  | 5 => 0x0000FFFFFFFF000F
  | 6 => 0xFFFFFFFF000000F2
  | _ => 0

/-- Writable bits of a word of a die's control space: XINVADDR, SLEWCTL, RATION, the save area, and on die 0 the
storage grants and the descriptors; the access tables hold every bit, reserved ones too (R84). -/
def ctlMask (die off : Nat) : DWord :=
  if off = 0x1000 then 0x0000FFFFFFFF0000
  else if off = 0x2000 then 0x3F
  else if 0x2200 ≤ off ∧ off < 0x2280 then 0x1F
  else if off = 0x2400 then 0x00003FFFFFE00001
  else if off = 0x2408 then 0xFFFF
  else if die = 0 ∧ 0x3000 ≤ off ∧ off < 0x3800 then 0x80000000FFFFFFFF
  else if die = 0 ∧ 0x10000 ≤ off ∧ off < 0x11000 then descMask (off % 0x40 / 8)
  else if 0x100000 ≤ off ∧ off < 0x12C000 then BitVec.allOnes 64
  else 0

/-- Firmware writes a register of a die's control space. A save area that changes while jobs run, or a window that opens
images, breaks an obligation (R74, R404) (DEDUCED, log entry 72). -/
def State.writeControl (s : State) (die off : Nat) (value : DWord) : State :=
  if off % 8 ≠ 0 ∨ 2 ≤ die ∨ ctlMask die off = 0 then s
  else
    let t := s.setCtl die off (value &&& ctlMask die off)
    if off = 0x2400 ∨ off = 0x2408 then t.noteBreach true else if 0x100000 ≤ off then t.noteBreach false else t

/-- B2BASE as it is kept: a multiple of the BAR2 size (R400). -/
def b2Round (x : BitVec 10) (log : Nat) : BitVec 10 := BitVec.ofNat 10 (x.toNat / 2 ^ log * 2 ^ log)

/-- The host writes a BAR0 register: B2BASE or a JOBIRQ. -/
def State.writeBar0 (s : State) (off : Nat) (value : DWord) : State :=
  let cid := (off - 0x100000) / 0x100
  if off = 0x8 then { s with b2base := b2Round (value.truncate 10) s.bar2log }
  else if 0x100000 ≤ off ∧ off < 0x104000 ∧ off % 0x100 = 0x18 then
    s.updCtx cid fun c => { c with irqen := value.getLsbD 0 }
  else s

/-- Firmware sets the one field of BAR0 that is its own: RBEN (Table 15.2). -/
def State.writeFirmware (s : State) (off : Nat) (value : DWord) : State :=
  if off = 0x20 then { s with rben := value.getLsbD 0 } else s

/-- The power limit as a write leaves it (Table 15.10). -/
def clampLimit (x : Nat) : Nat := if x < 1000 then 1000 else if 3600 < x then 3600 else x

/-- A management write: the power limit, the sample rings. -/
def State.writeManagement (s : State) (off : Nat) (value : DWord) : State :=
  match off with
  | 0x10 => { s with powerLimit := clampLimit value.toNat }
  | 0x20 => s.updDie 0 fun d => { d with smpRing := value &&& 0x000F3FFFFFFFF000 }
  | 0x28 => s.updDie 0 fun d => { d with smpGet := (value >>> 32).truncate 32 }
  | 0x30 => s.updDie 1 fun d => { d with smpRing := value &&& 0x000F3FFFFFFFF000 }
  | 0x38 => s.updDie 1 fun d => { d with smpGet := (value >>> 32).truncate 32 }
  | _ => s

def execRegisterWrite (target : RegTarget) (off : Nat) (value : DWord) (s : State) : Host.Outcome State Fault Refusal :=
  .next (match target with
    | .bar0 => s.writeBar0 off value
    | .firmware => s.writeFirmware off value
    | .control die => s.writeControl die off value
    | .management => s.writeManagement off value)

/-! ## What registers read as -/

/-- Images of a die's save area that are free (SAVEFREE). -/
def State.saveFree (s : State) (die : Nat) : Nat :=
  ((s.ctlWord die 0x2408).extractLsb' 0 16).toNat - (s.die die).blockImages.length

/-- A word of a die's control space as firmware reads it. -/
def State.readControl (s : State) (die off : Nat) : DWord :=
  if off = 0x2410 then BitVec.ofNat 64 (s.saveFree die) else s.ctlWord die off

/-- JOBSTAT (Table 15.3). -/
def State.jobstat (s : State) (cid : Nat) : DWord :=
  let c := s.ctx cid
  0#16 ++ (c.seq ++ (0#5 ++ (BitVec.ofBool c.jcberr ++ (BitVec.ofBool (s.stopped cid) ++ (BitVec.ofBool c.job.isSome
    ++ c.last)))))

/-- A context's control registers. -/
def State.readContext (s : State) (cid off : Nat) : DWord :=
  match off with
  | 0x08 => s.jobstat cid
  | 0x10 => if (s.ctx cid).stop then 1 else 0
  | 0x18 => if (s.ctx cid).irqen then 1 else 0
  | _ => 0

/-- A denial-capture entry (Table 15.5). -/
def State.readCapture (s : State) (die target word : Nat) : DWord :=
  let c := Sparse.get (⟨false, 0, 0, 0, 0⟩ : Capture) (s.die die).captures target
  if word = 0 then BitVec.ofBool c.v ++ (c.master ++ (c.kind ++ (0#7 ++ c.pa)))
  else if word = 1 then c.count.zeroExtend 64
  else 0

/-- The global registers (Table 15.2). -/
def State.readGlobal (s : State) (off : Nat) : DWord :=
  match off with
  | 0x00 => 0#32 ++ (BitVec.ofBool s.ready ++ (0#7 ++ (BitVec.ofNat 8 (dieCores 1).length
      ++ (BitVec.ofNat 8 (dieCores 0).length ++ Config.rev))))
  | 0x08 => s.b2base.zeroExtend 64
  | 0x10 => s.time
  | 0x18 => (s.die 1).ce ++ (s.die 0).ce
  | 0x20 => if s.rben then 1 else 0
  | 0x28 => Config.enmask 0
  | 0x30 => Config.enmask 1
  | _ => 0

/-! ## State readback (R418, Table 15.8c) -/

/-- Eight bytes of a list from `off`, zero beyond it. -/
def wordAt (bs : List Byte) (off : Nat) : DWord := BitVec.ofNat 64 (ofBytes ((bs.drop off).take 8))

/-- The warp that holds a slot of a core. -/
def State.warpIn (s : State) (core slot : Nat) : Option Warp :=
  (s.warps.find? fun e => e.2.core == core && e.2.slot == slot
    && ((s.blocks.get? e.2.blk).map Block.placedNow).getD false).map (·.2)

/-- The full and empty phasers of a ring's stages (R352). -/
def Ring.phasers (r : Ring) : List Phaser :=
  (List.range r.stages).flatMap fun i => [⟨r.count true i, []⟩, ⟨r.count false i, []⟩]

/-- The phasers of a core, those of its rings among them (R338), in the order of its blocks' residencies: the synchronisation
engine's numbers (DEDUCED, log entry 58). -/
def State.corePhasers (s : State) (core : Nat) : List Phaser :=
  ((List.range 16).flatMap fun r => match s.blocks.find? fun e =>
      e.2.placedNow && e.2.core == core && e.2.residency == r with
    | some e => e.2.phasers ++ e.2.rings.flatMap Ring.phasers
    | none => []) ++ (s.gangs.filter fun g => g.2.home == core).flatMap fun g => g.2.phasers

/-- Bounds of range `i` of an entry, the upper with its space, destination and used bits. -/
def Lock.rangeBytes (l : Lock) (i : Nat) : List Byte :=
  match l.ranges.find? fun r => r.idx == i with
  | none => List.replicate 16 0
  | some r => bytes64 (BitVec.ofNat 64 r.lo) ++ bytes64 (r.space.code ++ (BitVec.ofBool r.dst ++ (1#1 ++ BitVec.ofNat 60 r.hi)))

/-- RLOCKST [30:8] of an entry's first range with [31] valid, and its ranges. -/
def Lock.bytes (l : Lock) : List Byte :=
  let word := rlockWord l (l.ranges.headD ⟨0, .global, false, 0, 0⟩) &&& 0xFFFFFF00
  bytes32 word ++ List.replicate 12 0 ++ (List.range 7).flatMap l.rangeBytes

/-- The commands in an engine's queue, oldest first: word 0, literal, slot, valid; those that `State.queueLen` counts
(DEDUCED, log entry 58). -/
def State.queueBytes (s : State) (core : Nat) (u : EngineUnit) : List Byte :=
  (s.cmds.filter fun e => e.2.core == core && e.2.unit == u && (u == .copy || e.2.st == .queued)).flatMap fun e =>
    let ws := encode e.2.ins
    bytes32 (ws.getD 0 0) ++ bytes32 (ws.getD 1 0) ++ toBytes 4 (s.warp e.2.wid).slot ++ bytes32 1

/-- A word of the readback window of physical core `p` (DEDUCED, log entry 58). -/
def State.readback (s : State) (p off : Nat) : DWord :=
  if !coreEnabled p then 0
  else if off < 0x8000 then
    match s.warpIn p (off / 0x200) with
    | some w => wordAt w.pctBytes (off % 0x200)
    | none => 0
  else if off < 0x8400 then
    match s.warpIn p ((off - 0x8000) / 16) with
    | some w => wordAt w.flagBytes ((off - 0x8000) % 16)
    | none => 0
  else if off < 0x8600 then wordAt (phsBytes ((s.corePhasers p)[(off - 0x8400) / 8]?)) 0
  else if off < 0x9600 then
    match (s.core p).locks.find? fun l => l.entry == (off - 0x8600) / 128 with
    | some l => wordAt l.bytes ((off - 0x8600) % 128)
    | none => 0
  else if off < 0xB600 then
    match s.blocks.find? fun e => e.2.placedNow && e.2.core == p && e.2.residency == (off - 0x9600) / 512 with
    | some e => wordAt e.2.ringBytes ((off - 0x9600) % 512)
    | none => 0
  else if off < 0xB700 then wordAt (s.queueBytes p .copy) (off - 0xB600)
  else if off < 0xB780 then wordAt (s.queueBytes p .matrix) (off - 0xB700)
  else 0

/-- A BAR0 register as the host reads it (Table 15.1). -/
def State.readBar0 (s : State) (off : Nat) : DWord :=
  if off < 0x10000 then s.readGlobal off
  else if off < 0x14000 then
    let o := off - 0x10000
    if o < 0x800 ∧ o % 0x400 / 0x20 < 22 then s.readCapture (o / 0x400) (o % 0x400 / 0x20) (o % 0x20 / 8) else 0
  else if 0x100000 ≤ off ∧ off < 0x104000 then s.readContext ((off - 0x100000) / 0x100) (off % 0x100)
  else if 0x1000000 ≤ off ∧ off < 0x1800000 then
    if s.rben then s.readback ((off - 0x1000000) / 0x10000) (off % 0x10000) else 0
  else 0

/-- A management register as it reads (Table 15.10). -/
def State.readManagement (s : State) (off : Nat) : DWord :=
  let ring := fun (d : Die) => d.smpGet ++ d.smpPut
  match off with
  | 0x00 => s.powerEst
  | 0x08 => s.temperature
  | 0x10 => BitVec.ofNat 64 s.powerLimit
  | 0x18 => s.uevt.zeroExtend 64
  | 0x20 => (s.die 0).smpRing
  | 0x28 => ring (s.die 0)
  | 0x30 => (s.die 1).smpRing
  | 0x38 => ring (s.die 1)
  | 0x40 => (s.die 1).smpDrop ++ (s.die 0).smpDrop
  | _ => 0

end Sys2Proof.Machine
end

