-- ==== Sys2Proof/Machine/Platform.lean ====
section
/-! DEFINITION. The platform (15; R389): accesses from outside, links and drives, errors, sampling, performance levels,
power and temperature, the timebase, bring-up and reset. An event whose condition does not hold leaves the state as it
is. -/

namespace Sys2Proof.Machine

def State.send (s : State) (m : OutMsg) : State := { s with outbox := s.outbox ++ [m] }

/-! ## Accesses from outside (R331, R400, R408, R410 to R412) -/

def accKind : HostAccess → Kind
  | .read _ => .read
  | .write _ => .write
  | .atomic .. => .atomic

def atomSize (op : BitVec 8) : Nat := if op = 0x17 ∨ op = 0x22 then 8 else 4

def accSize : HostAccess → Nat
  | .read n => n
  | .write bs => bs.length
  | .atomic op _ _ => atomSize op

/-- A read from outside is served by the home L2, which then holds the line (R60). -/
def State.homeRead (s : State) (key n : Nat) : State :=
  match placeOf key with
  | .hbm _ => s.noteHome key n false
  | _ => s

/-- The access as it is performed, with what is returned. -/
def State.perform (s : State) (key : Nat) : HostAccess → State × Option (List Byte)
  | .read n => (s.homeRead key n, some (s.bytesAt 4 key n))
  | .write bs => (s.homeWrite key bs, none)
  | .atomic op x y =>
    let n := atomSize op
    let old := BitVec.ofNat 64 (ofBytes (s.bytesAt 4 key n))
    (s.homeWrite key (toBytes n ((AtomOp.ofCode op.toNat).apply n old x y).toNat), some (toBytes n old.toNat))

/-- The first denial of an access of master `m`: at the ingress target `t` of die `d`, then at the home (R83). -/
def State.ingressDenial (s : State) (d t m : Nat) (k : Kind) (key n : Nat) : Option (Nat × Nat × Nat) :=
  match (linesOf key n).find? fun ln => !s.targetPermits d t m (k != .read) (ln * 128) with
  | some ln => some (d, t, ln * 128)
  | none => s.denial m k key n

/-- Physical address of a BAR2 offset (R400) (DEDUCED, log entry 53). -/
def State.bar2Addr (s : State) (off : Nat) : Nat :=
  let x := (s.b2base.toNat * 2 ^ 30 + off) % 2 ^ 40
  if x < 2 ^ 39 then x else x - 2 ^ 39 + 2 ^ 40

/-- The host's atomics are those PCIe has (R167); another is no request. -/
def hostAtom : HostAccess → Bool
  | .atomic op _ _ => decide (0x16 ≤ op.toNat) && decide (op.toNat ≤ 0x22) && (AtomOp.ofCode op.toNat).onHost
  | _ => true

/-- A request from outside that has to read bytes in uncorrectable error: nothing is returned as data (R389). -/
def State.readsBad (s : State) (key : Nat) (acc : HostAccess) : Bool :=
  decide (accKind acc ≠ .write) && s.isBad key (accSize acc)

/-- BAR2_ACCESS (R399, R400, R87, R389) (DEDUCED, log entry 59). -/
def execBar2Access (off : Nat) (acc : HostAccess) (s : State) : Host.Outcome State Fault Refusal :=
  let key := s.bar2Addr off
  .next (if 2 ^ (30 + s.bar2log) < off + (accSize acc) ∨ hostAtom acc = false then s
    else match s.ingressDenial 0 2 64 (accKind acc) key (accSize acc) with
      | some t =>
        let u := s.capture 64 (accKind acc) t
        if accKind acc = Kind.write then u else u.send .completerAbort
      | none => if s.readsBad key acc then s.send .completerAbort else match s.perform key acc with
        | (t, some bs) => t.send (.readData bs)
        | (t, none) => t)

/-- DRIVE_DMA (R408): denied by target 3. -/
def execDriveDma (drive pa : Nat) (write : Bool) (s : State) : Host.Outcome State Fault Refusal :=
  .next (if 4 ≤ drive then s
    else
      let t := s.capture (65 + drive) (if write then .write else .read) (0, 3, lineOf pa * 128)
      if write then t else t.send .completerAbort)

/-- Table 15.8a. -/
def peerAtom : HostAccess → Bool
  | .atomic op _ _ => decide (0x16 ≤ op.toNat) && decide (op.toNat ≤ 0x22) && (AtomOp.ofCode op.toNat).onPeer
  | _ => true

/-- One request carries 1 to 256 bytes within a 256-byte block (R410). -/
def oneRequest (pa n : Nat) : Bool := decide (1 ≤ n) && decide (pa % 256 + n ≤ 256) && decide (pa < 2 ^ 46)

/-- SCALE_UP_REQUEST (R389, R411, R412) (DEDUCED, log entry 59). -/
def execScaleUpRequest (port pa : Nat) (acc : HostAccess) (s : State) : Host.Outcome State Fault Refusal :=
  let up := decide (port < 36) && s.linkUp.getLsbD port
  .next (if !up || !oneRequest pa (accSize acc) || !peerAtom acc then s
    else match s.ingressDenial (port / 18) (4 + port % 18) (96 + port) (accKind acc) pa (accSize acc) with
      | some t => (s.capture (96 + port) (accKind acc) t).send (.peerError port)
      | none => if s.readsBad pa acc then s.send (.peerError port) else match s.perform pa acc with
        | (t, some bs) => t.send (.peerData port bs)
        | (t, none) => t)

/-! ## Links and drives -/

/-- A write to a peer that was outstanding on the port: performed or not, it is no longer on its way
(DEDUCED, log entry 54). -/
def State.loseWrite (s : State) (core : Nat) (performed : List Nat) (e : Nat × Outbound) : State :=
  let o := e.2
  let s := if performed.contains e.1 then s.homeWrite o.key o.data else s
  (s.writeOver core e.1 o false).finishAtomic o.wid o.op

/-- Loads and atomics to peers that were outstanding on the port are denied (R412). -/
def State.loseReads (s : State) : State :=
  { s with warps := s.warps.mapVals fun wid w => { w with
    ops := w.ops.map fun e => (e.1, if e.2.isLoad || e.2.isAtomic then { e.2 with
        accesses := e.2.accesses.map fun a =>
          if a.key / 2 ^ 46 ≠ 0 ∧ a.done = false ∧ e.2.space = .global ∧ s.freeBool (21000000 + 64 * wid + a.lane) then
            { a with denied := true } else a }
      else e.2) } }

/-- LINK_DOWN (R412): which of the requests to peers were on the port is left open (DEDUCED, log entry 54). -/
def execLinkDown (port : Nat) (performed : List Nat) (s : State) : Host.Outcome State Fault Refusal :=
  .next (if !(decide (port < 36) && s.linkUp.getLsbD port) then s
    else
      let t := { s with linkUp := s.linkUp &&& ~~~(1#36 <<< port) }
      let t := t.cores.keys.foldl (fun t c =>
        (((t.core c).outbound.filter fun e => e.2.key / 2 ^ 46 != 0 && t.freeBool (22000000 + e.1))).foldl
          (fun t e => t.loseWrite c performed e) t) t
      t.loseReads)

/-- DRIVE_REMOVAL (R408): the drive's outstanding commands complete with Command Abort Requested. -/
def execDriveRemoval (drive : Nat) (s : State) : Host.Outcome State Fault Refusal :=
  .next (if 4 ≤ drive then s
    else
      let t := { s with drivesUp := s.drivesUp &&& ~~~(1#4 <<< drive) }
      (t.cmds.filter fun e => e.2.unit == .storage && e.2.st != .finishing && e.2.fault.isNone
          && reqDrive e.2.words == drive).foldl (fun t e =>
        match t.cmds.get? e.1 with
        | some c => t.completeStorage e.1 c 0x07 []
        | none => t) t)

/-- FLIT_REPLAY (R409): a replay changes timing only. -/
def execFlitReplay (_die : Nat) (s : State) : Host.Outcome State Fault Refusal := .next s

/-! ## Errors (R389, R406) -/

/-- Contexts with a running job. -/
def State.running (s : State) : List Nat := (s.contexts.filter fun e => e.2.job.isSome).map (·.1)

def State.terminateAll (s : State) (status : BitVec 8) : State :=
  s.running.foldl (fun t c => t.terminate c status) s

/-- An error in state of no single context. -/
def State.sharedError (s : State) : State :=
  let t := s.terminateAll 0x10
  ({ t with uevt := t.uevt ||| 1, held := true } : State).send .managementInterrupt

/-- A location of module memory, any, is in uncorrectable error from now on, until it is written (R389)
(DEDUCED, log entry 64). -/
def State.spoil (s : State) : State :=
  let key := 8 * ((s.free 24000000).toNat % 2 ^ 38)
  if inModule key then { s with bad := (List.range 8).foldl (fun m i => Sparse.set false m (key + i) true) s.bad } else s

/-- UNCORRECTABLE_ERROR (R389, R406): the error is one that a read has found; the location keeps it
(DEDUCED, log entry 64). -/
def execUncorrectableError (source : ErrorSource) (s : State) : Host.Outcome State Fault Refusal :=
  .next (match source with
    | .context cid => if (s.ctx cid).job.isSome then s.spoil.terminate cid 0x10 else s
    | .hostRead | .driveRead _ => s.spoil.send .completerAbort
    | .peerRead port => s.spoil.send (.peerError port)
    | .shared => s.sharedError)

/-- GRAFT_LOSS (R409). -/
def execGraftLoss (s : State) : Host.Outcome State Fault Refusal := .next s.sharedError

/-- CORRECTABLE_ERROR (R406): CE0 or CE1, saturating. -/
def execCorrectableError (die : Nat) (s : State) : Host.Outcome State Fault Refusal :=
  .next (if 2 ≤ die then s
    else s.updDie die fun d => { d with ce := if d.ce = BitVec.allOnes 32 then d.ce else d.ce + 1 })

/-- UEVT_CLEAR (R419). -/
def execUevtClear (value : DWord) (s : State) : Host.Outcome State Fault Refusal :=
  .next { s with uevt := s.uevt &&& ~~~(value.truncate 2) }

/-! ## Sampling (R417) -/

/-- The warp is resident on its core (Table 13.6): neither saved nor ended. -/
def Warp.onCore (w : Warp) : Bool := w.life == .resident || w.life == .stopped

/-- The warps of a core that take part in sampling: slot and number. -/
def State.sampled (s : State) (core : Nat) : List (Nat × Nat) :=
  (s.warps.filter fun e => e.2.core == core && e.2.onCore && e.2.samplecfg.getLsbD 0 && e.2.issuing != 0).map
    fun e => (e.2.slot, e.1)

/-- The next one in slot order. -/
def nextSample (l : List (Nat × Nat)) (start : Nat) : Option (Nat × Nat) :=
  let slots := (List.range 64).map fun i => (start + i) % 64
  slots.findSome? fun x => l.find? fun e => e.1 == x

/-- A sample record (Table 15.8b). -/
def sampleBytes (w : Warp) (power : BitVec 16) (time : DWord) : List Byte :=
  toBytes 6 w.headRun.1.toNat ++ [BitVec.ofNat 8 w.slot, BitVec.ofNat 8 (w.cid % 64)] ++ toBytes 2 (w.core % 128)
    ++ toBytes 2 power.toNat ++ toBytes 4 (time.toNat % 2 ^ 32)

/-- The record goes into its die's ring, or is dropped and counted. -/
def State.putSample (s : State) (die : Nat) (bs : List Byte) : State :=
  let d := s.die die
  let capacity := 2 ^ ((d.smpRing.extractLsb' 48 4).toNat + 8)
  if capacity ≤ (d.smpPut - d.smpGet).toNat then
    s.updDie die fun x => { x with smpDrop := if x.smpDrop = BitVec.allOnes 32 then x.smpDrop else x.smpDrop + 1 }
  else
    let at' := (d.smpRing.extractLsb' 12 34).toNat * 4096 + d.smpPut.toNat % capacity * 16
    (s.homeWrite at' bs).updDie die fun x => { x with smpPut := x.smpPut + 1 }

/-- PC_SAMPLE_TICK (R417). -/
def execPcSampleTick (core : Nat) (power : BitVec 16) (s : State) : Host.Outcome State Fault Refusal :=
  .next (if 128 ≤ core then s
    else match nextSample (s.sampled core) (s.core core).sampleNext with
      | none => s
      | some e =>
        (s.putSample (core / 64) (sampleBytes (s.warp e.2) power s.time)).updCore core fun c =>
          { c with sampleNext := (e.1 + 1) % 64 })

/-! ## Levels, power, temperature (R370, R414, R415) -/

/-- A context's request on a cluster: the highest LVL of its resident warps there, clamped to PLCAP
(DESIGN CHOICE, log entry 55). -/
def State.requestOf (s : State) (cid cluster : Nat) : Option Nat :=
  match (s.warps.filter fun e => e.2.cid == cid && e.2.role != .control && e.2.onCore
      && clusterOfCore e.2.core == cluster).map (fun e => e.2.perfLvl.toNat) with
  | [] => none
  | l => some (Nat.min (l.foldl Nat.max 0) ((s.desc cid 6).extractLsb' 4 4).toNat)

/-- The level resolved for a cluster; with no warp resident firmware's idle level 0 (R414). -/
def State.resolved (s : State) (cluster : Nat) : Option Nat :=
  match s.contexts.keys.filterMap fun c => s.requestOf c cluster with
  | [] => none
  | l => some (l.foldl Nat.max 0)

def State.setLevel (s : State) (cluster n : Nat) : State :=
  { s with clusterLevel := Sparse.set 8 s.clusterLevel cluster (BitVec.ofNat 4 n) }

def State.loweredBy (s : State) (cluster : Nat) : Nat := Sparse.get 0 s.lowered cluster

/-- Temperature of a die, in sixteenths of a degree (Table 15.10). -/
def dieTemp (t : DWord) (die : Nat) : Nat := (t.extractLsb' (16 * die) 16).toNat

/-- The die is at 105 °C or more: its clusters are held at level 1 (R415). -/
def State.hot (s : State) (die : Nat) : Bool := decide (105 * 16 ≤ dieTemp s.temperature die)

/-- The resolved level, lowered by firmware, takes effect; every cluster of a hot die is at level 1, and one with a resident
warp is never at level 0 (R414, R415) (DESIGN CHOICE, log entry 55). -/
def State.applyLevel (s : State) (cluster : Nat) : State :=
  s.setLevel cluster (if s.hot (cluster / 16) then 1 else match s.resolved cluster with
    | none => 0
    | some r => Nat.max 1 (r - s.loweredBy cluster))

/-- PERF_LEVEL_CHANGE (R370). -/
def execPerfLevelChange (cluster : Nat) (s : State) : Host.Outcome State Fault Refusal :=
  .next (if 32 ≤ cluster then s else s.applyLevel cluster)

/-- The cluster whose level is lowered next: the highest level above 1, and of those the highest (die, cluster). -/
def State.lowerNext (s : State) : Option Nat :=
  (List.range 32).foldl (fun r c =>
    let n := (s.levelOf c).toNat
    if n ≤ 1 then r
    else match r with
      | none => some c
      | some b => if (s.levelOf b).toNat ≤ n then some c else r) none

/-- POWER_LIMIT_EXCEEDED (R415): one step. -/
def execPowerLimitExceeded (milliwatts : Nat) (s : State) : Host.Outcome State Fault Refusal :=
  let t := { s with powerEst := BitVec.ofNat 64 milliwatts }
  .next (if milliwatts ≤ 1000 * s.powerLimit then t
    else match t.lowerNext with
      | none => t
      | some c =>
        ({ t with lowered := Sparse.set 0 t.lowered c (t.loweredBy c + 1), lowerLog := c :: t.lowerLog } : State).setLevel c
          ((t.levelOf c).toNat - 1))

/-- EFFECTIVE_LEVEL_RESTORE (R415): the last lowering is taken back. -/
def execEffectiveLevelRestore (milliwatts : Nat) (s : State) : Host.Outcome State Fault Refusal :=
  let t := { s with powerEst := BitVec.ofNat 64 milliwatts }
  .next (if 1000 * s.powerLimit < milliwatts then t
    else match t.lowerLog with
      | [] => t
      | c :: l =>
        ({ t with lowered := Sparse.set 0 t.lowered c (t.loweredBy c - 1), lowerLog := l } : State).applyLevel c)

/-- The temperature of a die, in sixteenths of a degree (Table 15.10). -/
def State.senseDie (s : State) (die n : Nat) : State :=
  { s with temperature := if die = 0 then s.temperature &&& ~~~0xFFFF ||| BitVec.ofNat 64 n
      else s.temperature &&& ~~~0xFFFF0000 ||| BitVec.ofNat 64 (65536 * n) }

/-- What a sensor shows next of a die: reaching 105 °C is THERMAL_LEVEL_FORCE's, 110 °C THERMAL_SHUTDOWN's
(DESIGN CHOICE, log entry 55). -/
def State.sensed (s : State) (die : Nat) (value : DWord) : BitVec 16 :=
  let n := dieTemp value die
  if n < 105 * 16 ∨ s.hot die ∧ n < 110 * 16 then BitVec.ofNat 16 n else s.temperature.extractLsb' (16 * die) 16

/-- The temperature word as the sensors show it: the dies', the coolant's at its inlet and its outlet (Table 15.10). -/
def State.sense (s : State) (value : DWord) : State :=
  { s with temperature := value.extractLsb' 32 32 ++ (s.sensed 1 value ++ s.sensed 0 value) }

/-- THERMAL_LEVEL_FORCE (R415): every cluster of the die at level 1. -/
def execThermalLevelForce (die : Nat) (s : State) : Host.Outcome State Fault Refusal :=
  .next (if 2 ≤ die then s
    else (List.range 16).foldl (fun t c => t.setLevel (16 * die + c) 1) (s.senseDie die (105 * 16)))

/-- THERMAL_SHUTDOWN (R415): every running context ends with 0x0E, the module holds itself in reset. -/
def execThermalShutdown (die : Nat) (s : State) : Host.Outcome State Fault Refusal :=
  .next (if 2 ≤ die then s
    else
      let t := (s.senseDie die (110 * 16)).terminateAll 0x0E
      { t with uevt := t.uevt ||| 2, held := true, ready := false, bringup := 0 })

/-! ## Time, BAR2, management address -/

/-- TIMEBASE_CORRECTION (R413): a correction forward of 1 µs or more is a step; any other is slewed, which only the rate of
time shows (DEDUCED, log entry 52). -/
def execTimebaseCorrection (delta : Int) (s : State) : Host.Outcome State Fault Refusal :=
  .next (if 1000 ≤ delta then { s with time := s.time + BitVec.ofNat 64 delta.toNat } else s)

/-- RESIZABLE_BAR_WRITE (R399, R400). -/
def execResizableBarWrite (log2GiB : Nat) (s : State) : Host.Outcome State Fault Refusal :=
  .next (if 9 < log2GiB then s else { s with bar2log := log2GiB, b2base := b2Round s.b2base log2GiB })

/-- I3C_DYNAMIC_ADDRESS (R419). -/
def execI3cDynamicAddress (addr : BitVec 7) (s : State) : Host.Outcome State Fault Refusal := .next { s with i3c := some addr }

/-! ## Bring-up and reset (R420, R419) -/

/-- Firmware clears the access tables, the grants and the descriptors (DEDUCED, log entry 57). -/
def clearTables (die : Nat) (d : Die) : Die :=
  let window := fun (o : Nat) => decide (0x100000 ≤ o) && decide (o < 0x12C000)
  let gone := fun (o : Nat) => decide (die = 0)
    && (decide (0x3000 ≤ o) && decide (o < 0x3800) || decide (0x10000 ≤ o) && decide (o < 0x11000))
  { d with ctl := d.ctl.filterMap fun e =>
      if gone e.1 then none
      else if window e.1 && e.1 % 128 == 0 then
        let x := e.2 &&& 0x7FFFFFFFFFFFFFFF
        if x = 0 then none else some (e.1, x)
      else some e }

/-- Both dies, listed. -/
def State.bothDies (s : State) (f : Nat → Die → Die) : State := (s.updDie 0 (f 0)).updDie 1 (f 1)

/-- The drives that the bifurcation mode in use has (Table 15.6). -/
def drivesThere : BitVec 4 :=
  BitVec.ofBool (Config.driveThere 3) ++ (BitVec.ofBool (Config.driveThere 2)
    ++ (BitVec.ofBool (Config.driveThere 1) ++ BitVec.ofBool (Config.driveThere 0)))

/-- BRING_UP (R420): the next step ends. HBM4 or Graft that fails to train keeps bring-up where it is; READY waits for the
save areas (DEDUCED, log entry 57). -/
def execBringUp (hbmOk graftOk : Bool) (links : BitVec 36) (drives : BitVec 4) (s : State) : Host.Outcome State Fault Refusal :=
  let t := { s with bringup := s.bringup + 1 }
  .next (match s.bringup with
    | 2 => if graftOk then t else s
    | 3 => if hbmOk then t.bothDies fun _ d => { d with l2 := [], rdc := [], canopy := [], graft := [], rdcMiss := [] }
      else s
    | 4 => t.bothDies clearTables
    | 5 => { t with drivesUp := drives &&& drivesThere }
    | 6 => { t with linkUp := links }
    | 8 => if (s.ctlWord 0 0x2400).getLsbD 0 && (s.ctlWord 1 0x2400).getLsbD 0 then { t with ready := true } else s
    | n => if n < 9 then t else s)

/-- Module memory after a reset: what was written there is unspecified; host and peer memory are not the module's
(DEDUCED, log entry 56). -/
def State.memAfterReset (s : State) : List Host.Cell :=
  s.mem.filterMap fun e =>
    if inModule e.1 then (let x := s.freeByte (30000000 + e.1); if x = Memory.blank then none else some (e.1, x)) else some e

/-- MODULE_RESET (R419) (DEDUCED, log entry 56). -/
def execModuleReset (value : DWord) (s : State) : Host.Outcome State Fault Refusal :=
  .next (if value = 0x5253 then
      { State.reset with
        mem := s.memAfterReset, fresh := s.fresh, agenda := s.agenda, ticks := s.ticks, nextId := s.nextId }
    else s)

end Sys2Proof.Machine
end

