-- ==== Sys2Proof/Machine/Dispatch.lean ====
section
/-! DEFINITION. Which meaning each instruction and each event has: one arm per constructor of `Instr`. -/

namespace Sys2Proof.Machine

def exec (i : Instr) (s : State) : Host.Outcome State Fault Refusal :=
  match i with
  | .movw o => Sys2Proof.Machine.execMovw o s
  | .liw o => Sys2Proof.Machine.execLiw o s
  | .addw o => Sys2Proof.Machine.execAddw o s
  | .addwi o => Sys2Proof.Machine.execAddwi o s
  | .subw o => Sys2Proof.Machine.execSubw o s
  | .mulw o => Sys2Proof.Machine.execMulw o s
  | .mulhwI o => Sys2Proof.Machine.execMulhwI o s
  | .mulhwN o => Sys2Proof.Machine.execMulhwN o s
  | .shlw o => Sys2Proof.Machine.execShlw o s
  | .shrw o => Sys2Proof.Machine.execShrw o s
  | .sarw o => Sys2Proof.Machine.execSarw o s
  | .shlwi o => Sys2Proof.Machine.execShlwi o s
  | .shrwi o => Sys2Proof.Machine.execShrwi o s
  | .sarwi o => Sys2Proof.Machine.execSarwi o s
  | .andw o => Sys2Proof.Machine.execAndw o s
  | .orw o => Sys2Proof.Machine.execOrw o s
  | .xorw o => Sys2Proof.Machine.execXorw o s
  | .notw o => Sys2Proof.Machine.execNotw o s
  | .minwI o => Sys2Proof.Machine.execMinwI o s
  | .maxwI o => Sys2Proof.Machine.execMaxwI o s
  | .minwN o => Sys2Proof.Machine.execMinwN o s
  | .maxwN o => Sys2Proof.Machine.execMaxwN o s
  | .cmpwI o => Sys2Proof.Machine.execCmpwI o s
  | .cmpwN o => Sys2Proof.Machine.execCmpwN o s
  | .selw o => Sys2Proof.Machine.execSelw o s
  | .add64w o => Sys2Proof.Machine.execAdd64w o s
  | .sub64w o => Sys2Proof.Machine.execSub64w o s
  | .faddw o => Sys2Proof.Machine.execFaddw o s
  | .fsubw o => Sys2Proof.Machine.execFsubw o s
  | .fmulw o => Sys2Proof.Machine.execFmulw o s
  | .ffmaw o => Sys2Proof.Machine.execFfmaw o s
  | .fdivw o => Sys2Proof.Machine.execFdivw o s
  | .fcmpw o => Sys2Proof.Machine.execFcmpw o s
  | .cvtw o => Sys2Proof.Machine.execCvtw o s
  | .v2w o => Sys2Proof.Machine.execV2w o s
  | .bcntw o => Sys2Proof.Machine.execBcntw o s
  | .clzw o => Sys2Proof.Machine.execClzw o s
  | .mov o => Sys2Proof.Machine.execMov o s
  | .li o => Sys2Proof.Machine.execLi o s
  | .w2v o => Sys2Proof.Machine.execW2v o s
  | .iadd o => Sys2Proof.Machine.execIadd o s
  | .iaddi o => Sys2Proof.Machine.execIaddi o s
  | .isub o => Sys2Proof.Machine.execIsub o s
  | .imul o => Sys2Proof.Machine.execImul o s
  | .imulhI o => Sys2Proof.Machine.execImulhI o s
  | .imulhN o => Sys2Proof.Machine.execImulhN o s
  | .imad o => Sys2Proof.Machine.execImad o s
  | .iabs o => Sys2Proof.Machine.execIabs o s
  | .ineg o => Sys2Proof.Machine.execIneg o s
  | .iminI o => Sys2Proof.Machine.execIminI o s
  | .imaxI o => Sys2Proof.Machine.execImaxI o s
  | .iminN o => Sys2Proof.Machine.execIminN o s
  | .imaxN o => Sys2Proof.Machine.execImaxN o s
  | .shl o => Sys2Proof.Machine.execShl o s
  | .shr o => Sys2Proof.Machine.execShr o s
  | .sar o => Sys2Proof.Machine.execSar o s
  | .shli o => Sys2Proof.Machine.execShli o s
  | .shri o => Sys2Proof.Machine.execShri o s
  | .sari o => Sys2Proof.Machine.execSari o s
  | .vand o => Sys2Proof.Machine.execVand o s
  | .vor o => Sys2Proof.Machine.execVor o s
  | .vxor o => Sys2Proof.Machine.execVxor o s
  | .vnot o => Sys2Proof.Machine.execVnot o s
  | .popc o => Sys2Proof.Machine.execPopc o s
  | .clz o => Sys2Proof.Machine.execClz o s
  | .brev o => Sys2Proof.Machine.execBrev o s
  | .bfe o => Sys2Proof.Machine.execBfe o s
  | .bfi o => Sys2Proof.Machine.execBfi o s
  | .isetpEq o => Sys2Proof.Machine.execIsetpEq o s
  | .isetpNe o => Sys2Proof.Machine.execIsetpNe o s
  | .isetpLt o => Sys2Proof.Machine.execIsetpLt o s
  | .isetpLe o => Sys2Proof.Machine.execIsetpLe o s
  | .isetpGt o => Sys2Proof.Machine.execIsetpGt o s
  | .isetpGe o => Sys2Proof.Machine.execIsetpGe o s
  | .isetpLtN o => Sys2Proof.Machine.execIsetpLtN o s
  | .isetpLeN o => Sys2Proof.Machine.execIsetpLeN o s
  | .isetpGtN o => Sys2Proof.Machine.execIsetpGtN o s
  | .isetpGeN o => Sys2Proof.Machine.execIsetpGeN o s
  | .sel o => Sys2Proof.Machine.execSel o s
  | .iadd64 o => Sys2Proof.Machine.execIadd64 o s
  | .isub64 o => Sys2Proof.Machine.execIsub64 o s
  | .imulwI o => Sys2Proof.Machine.execImulwI o s
  | .imulwN o => Sys2Proof.Machine.execImulwN o s
  | .pmov o => Sys2Proof.Machine.execPmov o s
  | .vmovp o => Sys2Proof.Machine.execVmovp o s
  | .sreg o => Sys2Proof.Machine.execSreg o s
  | .fadd o => Sys2Proof.Machine.execFadd o s
  | .fsub o => Sys2Proof.Machine.execFsub o s
  | .fmul o => Sys2Proof.Machine.execFmul o s
  | .ffma o => Sys2Proof.Machine.execFfma o s
  | .fmin o => Sys2Proof.Machine.execFmin o s
  | .fmax o => Sys2Proof.Machine.execFmax o s
  | .fabs o => Sys2Proof.Machine.execFabs o s
  | .fneg o => Sys2Proof.Machine.execFneg o s
  | .fsetpEq o => Sys2Proof.Machine.execFsetpEq o s
  | .fsetpNe o => Sys2Proof.Machine.execFsetpNe o s
  | .fsetpLt o => Sys2Proof.Machine.execFsetpLt o s
  | .fsetpLe o => Sys2Proof.Machine.execFsetpLe o s
  | .fsetpGt o => Sys2Proof.Machine.execFsetpGt o s
  | .fsetpGe o => Sys2Proof.Machine.execFsetpGe o s
  | .fsetpNan o => Sys2Proof.Machine.execFsetpNan o s
  | .fclass o => Sys2Proof.Machine.execFclass o s
  | .hadd2 o => Sys2Proof.Machine.execHadd2 o s
  | .hmul2 o => Sys2Proof.Machine.execHmul2 o s
  | .hfma2 o => Sys2Proof.Machine.execHfma2 o s
  | .badd2 o => Sys2Proof.Machine.execBadd2 o s
  | .bmul2 o => Sys2Proof.Machine.execBmul2 o s
  | .bfma2 o => Sys2Proof.Machine.execBfma2 o s
  | .rcp o => Sys2Proof.Machine.execRcp o s
  | .rsq o => Sys2Proof.Machine.execRsq o s
  | .sqrt o => Sys2Proof.Machine.execSqrt o s
  | .ex2 o => Sys2Proof.Machine.execEx2 o s
  | .lg2 o => Sys2Proof.Machine.execLg2 o s
  | .sin o => Sys2Proof.Machine.execSin o s
  | .cos o => Sys2Proof.Machine.execCos o s
  | .tanh o => Sys2Proof.Machine.execTanh o s
  | .fdiv o => Sys2Proof.Machine.execFdiv o s
  | .cvt o => Sys2Proof.Machine.execCvt o s
  | .cvts o => Sys2Proof.Machine.execCvts o s
  | .cvtxB0 o => Sys2Proof.Machine.execCvtxB0 o s
  | .cvtxB1 o => Sys2Proof.Machine.execCvtxB1 o s
  | .cvtxB2 o => Sys2Proof.Machine.execCvtxB2 o s
  | .cvtxB3 o => Sys2Proof.Machine.execCvtxB3 o s
  | .qadd o => Sys2Proof.Machine.execQadd o s
  | .qsub o => Sys2Proof.Machine.execQsub o s
  | .qmul o => Sys2Proof.Machine.execQmul o s
  | .qdiv o => Sys2Proof.Machine.execQdiv o s
  | .qcvt o => Sys2Proof.Machine.execQcvt o s
  | .qfrom o => Sys2Proof.Machine.execQfrom o s
  | .qnum o => Sys2Proof.Machine.execQnum o s
  | .qden o => Sys2Proof.Machine.execQden o s
  | .qmed o => Sys2Proof.Machine.execQmed o s
  | .qrnd o => Sys2Proof.Machine.execQrnd o s
  | .qsetpEq o => Sys2Proof.Machine.execQsetpEq o s
  | .qsetpNe o => Sys2Proof.Machine.execQsetpNe o s
  | .qsetpLt o => Sys2Proof.Machine.execQsetpLt o s
  | .qsetpLe o => Sys2Proof.Machine.execQsetpLe o s
  | .qsetpGt o => Sys2Proof.Machine.execQsetpGt o s
  | .qsetpGe o => Sys2Proof.Machine.execQsetpGe o s
  | .qrec o => Sys2Proof.Machine.execQrec o s
  | .qclass o => Sys2Proof.Machine.execQclass o s
  | .ldN8 o => Sys2Proof.Machine.execLdN8 o s
  | .ldI8 o => Sys2Proof.Machine.execLdI8 o s
  | .ldN16 o => Sys2Proof.Machine.execLdN16 o s
  | .ldI16 o => Sys2Proof.Machine.execLdI16 o s
  | .ld32 o => Sys2Proof.Machine.execLd32 o s
  | .ld64 o => Sys2Proof.Machine.execLd64 o s
  | .ld128 o => Sys2Proof.Machine.execLd128 o s
  | .st8 o => Sys2Proof.Machine.execSt8 o s
  | .st16 o => Sys2Proof.Machine.execSt16 o s
  | .st32 o => Sys2Proof.Machine.execSt32 o s
  | .st64 o => Sys2Proof.Machine.execSt64 o s
  | .st128 o => Sys2Proof.Machine.execSt128 o s
  | .ldt32 o => Sys2Proof.Machine.execLdt32 o s
  | .ldt64 o => Sys2Proof.Machine.execLdt64 o s
  | .ldt128 o => Sys2Proof.Machine.execLdt128 o s
  | .stt32 o => Sys2Proof.Machine.execStt32 o s
  | .stt64 o => Sys2Proof.Machine.execStt64 o s
  | .stt128 o => Sys2Proof.Machine.execStt128 o s
  | .lda o => Sys2Proof.Machine.execLda o s
  | .sta o => Sys2Proof.Machine.execSta o s
  | .ldc o => Sys2Proof.Machine.execLdc o s
  | .atomAddN32 o => Sys2Proof.Machine.execAtomAddN32 o s
  | .atomAddN64 o => Sys2Proof.Machine.execAtomAddN64 o s
  | .atomMinI32 o => Sys2Proof.Machine.execAtomMinI32 o s
  | .atomMaxI32 o => Sys2Proof.Machine.execAtomMaxI32 o s
  | .atomMinN32 o => Sys2Proof.Machine.execAtomMinN32 o s
  | .atomMaxN32 o => Sys2Proof.Machine.execAtomMaxN32 o s
  | .atomAnd o => Sys2Proof.Machine.execAtomAnd o s
  | .atomOr o => Sys2Proof.Machine.execAtomOr o s
  | .atomXor o => Sys2Proof.Machine.execAtomXor o s
  | .atomExch o => Sys2Proof.Machine.execAtomExch o s
  | .atomCas o => Sys2Proof.Machine.execAtomCas o s
  | .atomFaddF32 o => Sys2Proof.Machine.execAtomFaddF32 o s
  | .atomExch64 o => Sys2Proof.Machine.execAtomExch64 o s
  | .redAddN32 o => Sys2Proof.Machine.execRedAddN32 o s
  | .redAddN64 o => Sys2Proof.Machine.execRedAddN64 o s
  | .redMinI32 o => Sys2Proof.Machine.execRedMinI32 o s
  | .redMaxI32 o => Sys2Proof.Machine.execRedMaxI32 o s
  | .redMinN32 o => Sys2Proof.Machine.execRedMinN32 o s
  | .redMaxN32 o => Sys2Proof.Machine.execRedMaxN32 o s
  | .redAnd o => Sys2Proof.Machine.execRedAnd o s
  | .redOr o => Sys2Proof.Machine.execRedOr o s
  | .redXor o => Sys2Proof.Machine.execRedXor o s
  | .redFaddF32 o => Sys2Proof.Machine.execRedFaddF32 o s
  | .atomtAddN32 o => Sys2Proof.Machine.execAtomtAddN32 o s
  | .atomtMinI32 o => Sys2Proof.Machine.execAtomtMinI32 o s
  | .atomtMaxI32 o => Sys2Proof.Machine.execAtomtMaxI32 o s
  | .atomtExch o => Sys2Proof.Machine.execAtomtExch o s
  | .atomtCas o => Sys2Proof.Machine.execAtomtCas o s
  | .fence o => Sys2Proof.Machine.execFence o s
  | .cinv o => Sys2Proof.Machine.execCinv o s
  | .pref o => Sys2Proof.Machine.execPref o s
  | .nop o => Sys2Proof.Machine.execNop o s
  | .xch o => Sys2Proof.Machine.execXch o s
  | .qbc o => Sys2Proof.Machine.execQbc o s
  | .qsum o => Sys2Proof.Machine.execQsum o s
  | .qmin o => Sys2Proof.Machine.execQmin o s
  | .qmax o => Sys2Proof.Machine.execQmax o s
  | .qdiff o => Sys2Proof.Machine.execQdiff o s
  | .voteAny o => Sys2Proof.Machine.execVoteAny o s
  | .voteAll o => Sys2Proof.Machine.execVoteAll o s
  | .ballot o => Sys2Proof.Machine.execBallot o s
  | .matchLanes o => Sys2Proof.Machine.execMatchLanes o s
  | .redtAdd o => Sys2Proof.Machine.execRedtAdd o s
  | .redtMin o => Sys2Proof.Machine.execRedtMin o s
  | .redtMax o => Sys2Proof.Machine.execRedtMax o s
  | .scantAdd o => Sys2Proof.Machine.execScantAdd o s
  | .part o => Sys2Proof.Machine.execPart o s
  | .plop o => Sys2Proof.Machine.execPlop o s
  | .bra o => Sys2Proof.Machine.execBra o s
  | .brx o => Sys2Proof.Machine.execBrx o s
  | .call o => Sys2Proof.Machine.execCall o s
  | .ret o => Sys2Proof.Machine.execRet o s
  | .exit o => Sys2Proof.Machine.execExit o s
  | .yield o => Sys2Proof.Machine.execYield o s
  | .active o => Sys2Proof.Machine.execActive o s
  | .mma o => Sys2Proof.Machine.execMma o s
  | .mbound o => Sys2Proof.Machine.execMbound o s
  | .mzero o => Sys2Proof.Machine.execMzero o s
  | .mzeroX4 o => Sys2Proof.Machine.execMzeroX4 o s
  | .mlatK o => Sys2Proof.Machine.execMlatK o s
  | .mlatV o => Sys2Proof.Machine.execMlatV o s
  | .mstat o => Sys2Proof.Machine.execMstat o s
  | .cpy o => Sys2Proof.Machine.execCpy o s
  | .cpym o => Sys2Proof.Machine.execCpym o s
  | .enc o => Sys2Proof.Machine.execEnc o s
  | .dect o => Sys2Proof.Machine.execDect o s
  | .sread o => Sys2Proof.Machine.execSread o s
  | .swrite o => Sys2Proof.Machine.execSwrite o s
  | .swriteFua o => Sys2Proof.Machine.execSwriteFua o s
  | .append o => Sys2Proof.Machine.execAppend o s
  | .drain o => Sys2Proof.Machine.execDrain o s
  | .quiesce o => Sys2Proof.Machine.execQuiesce o s
  | .tfset o => Sys2Proof.Machine.execTfset o s
  | .tfsetOvcur o => Sys2Proof.Machine.execTfsetOvcur o s
  | .tfget o => Sys2Proof.Machine.execTfget o s
  | .phregSo o => Sys2Proof.Machine.execPhregSo o s
  | .phregWo o => Sys2Proof.Machine.execPhregWo o s
  | .phregSw o => Sys2Proof.Machine.execPhregSw o s
  | .phdrop o => Sys2Proof.Machine.execPhdrop o s
  | .phsig o => Sys2Proof.Machine.execPhsig o s
  | .phwait o => Sys2Proof.Machine.execPhwait o s
  | .phsw o => Sys2Proof.Machine.execPhsw o s
  | .phget o => Sys2Proof.Machine.execPhget o s
  | .racqP o => Sys2Proof.Machine.execRacqP o s
  | .racqC o => Sys2Proof.Machine.execRacqC o s
  | .rrelP o => Sys2Proof.Machine.execRrelP o s
  | .rrelC o => Sys2Proof.Machine.execRrelC o s
  | .launch o => Sys2Proof.Machine.execLaunch o s
  | .succhint o => Sys2Proof.Machine.execSucchint o s
  | .predwait o => Sys2Proof.Machine.execPredwait o s
  | .time o => Sys2Proof.Machine.execTime o s
  | .twait o => Sys2Proof.Machine.execTwait o s
  | .csrr o => Sys2Proof.Machine.execCsrr o s
  | .csrw o => Sys2Proof.Machine.execCsrw o s
  | .plvl o => Sys2Proof.Machine.execPlvl o s
  | .trap o => Sys2Proof.Machine.execTrap o s
  | .rte o => Sys2Proof.Machine.execRte o s
  | .bkpt o => Sys2Proof.Machine.execBkpt o s
  | .evwait o => Sys2Proof.Machine.execEvwait o s
  | .evpop o => Sys2Proof.Machine.execEvpop o s
  | .selectRun core slot => Sys2Proof.Machine.execSelectRun core slot s
  | .clauseFetch wid => Sys2Proof.Machine.execClauseFetch wid s
  | .registerCacheFill core wid reg => Sys2Proof.Machine.execRegisterCacheFill core wid reg s
  | .bbcPark core slot => Sys2Proof.Machine.execBbcPark core slot s
  | .setaFlagClear wid flag => Sys2Proof.Machine.execSetaFlagClear wid flag s
  | .longLatencyResult wid op => Sys2Proof.Machine.execLongLatencyResult wid op s
  | .loadResponse wid op => Sys2Proof.Machine.execLoadResponse wid op s
  | .storePerformed wid op => Sys2Proof.Machine.execStorePerformed wid op s
  | .atomicPerformed wid op lane => Sys2Proof.Machine.execAtomicPerformed wid op lane s
  | .deferredDenial wid op => Sys2Proof.Machine.execDeferredDenial wid op s
  | .fenceComplete wid op => Sys2Proof.Machine.execFenceComplete wid op s
  | .pageWalk core cid va => Sys2Proof.Machine.execPageWalk core cid va s
  | .l1Fill core line => Sys2Proof.Machine.execL1Fill core line s
  | .homeL2Write core write => Sys2Proof.Machine.execHomeL2Write core write s
  | .remoteRead die line => Sys2Proof.Machine.execRemoteRead die line s
  | .rdcFill die line => Sys2Proof.Machine.execRdcFill die line s
  | .rdcInvalidation die line => Sys2Proof.Machine.execRdcInvalidation die line s
  | .l2Eviction die line => Sys2Proof.Machine.execL2Eviction die line s
  | .graftFence wid op => Sys2Proof.Machine.execGraftFence wid op s
  | .engineCommandStart cmd => Sys2Proof.Machine.execEngineCommandStart cmd s
  | .engineCommandComplete cmd => Sys2Proof.Machine.execEngineCommandComplete cmd s
  | .conversionLimitCrossing wid => Sys2Proof.Machine.execConversionLimitCrossing wid s
  | .engineFault cmd => Sys2Proof.Machine.execEngineFault cmd s
  | .eventAppend cid => Sys2Proof.Machine.execEventAppend cid s
  | .multicastDelivery cmd rank => Sys2Proof.Machine.execMulticastDelivery cmd rank s
  | .cpymGangSignal cmd => Sys2Proof.Machine.execCpymGangSignal cmd s
  | .mmaStart cmd => Sys2Proof.Machine.execMmaStart cmd s
  | .projectionReload cmd => Sys2Proof.Machine.execProjectionReload cmd s
  | .mmaComplete cmd => Sys2Proof.Machine.execMmaComplete cmd s
  | .matrixFault cmd => Sys2Proof.Machine.execMatrixFault cmd s
  | .mlatLoadComplete cmd => Sys2Proof.Machine.execMlatLoadComplete cmd s
  | .storageCompletion cmd sf data => Sys2Proof.Machine.execStorageCompletion cmd sf data s
  | .appendGroup cmd => Sys2Proof.Machine.execAppendGroup cmd s
  | .terminationDetectorSignal cid => Sys2Proof.Machine.execTerminationDetectorSignal cid s
  | .slewAdmission cid grid => Sys2Proof.Machine.execSlewAdmission cid grid s
  | .twaitDeadline wid => Sys2Proof.Machine.execTwaitDeadline wid s
  | .gridStartTime cid grid => Sys2Proof.Machine.execGridStartTime cid grid s
  | .blockPlacement cid grid gang core => Sys2Proof.Machine.execBlockPlacement cid grid gang core s
  | .blockMigration blk core => Sys2Proof.Machine.execBlockMigration blk core s
  | .quantumSliceEnd cid => Sys2Proof.Machine.execQuantumSliceEnd cid s
  | .quantumRotation cid grid => Sys2Proof.Machine.execQuantumRotation cid grid s
  | .warpEnd wid => Sys2Proof.Machine.execWarpEnd wid s
  | .blockEnd blk => Sys2Proof.Machine.execBlockEnd blk s
  | .gridCompletion cid grid => Sys2Proof.Machine.execGridCompletion cid grid s
  | .jobEnd cid => Sys2Proof.Machine.execJobEnd cid s
  | .hangWatchdogExpiry cid grid => Sys2Proof.Machine.execHangWatchdogExpiry cid grid s
  | .saveLimitExpiry cid => Sys2Proof.Machine.execSaveLimitExpiry cid s
  | .stopWalk cid => Sys2Proof.Machine.execStopWalk cid s
  | .save blk => Sys2Proof.Machine.execSave blk s
  | .restore blk core => Sys2Proof.Machine.execRestore blk core s
  | .uncorrectableError source => Sys2Proof.Machine.execUncorrectableError source s
  | .correctableError die => Sys2Proof.Machine.execCorrectableError die s
  | .jobent cid bytes value => Sys2Proof.Machine.execJobent cid bytes value s
  | .stopctlStop cid value => Sys2Proof.Machine.execStopctlStop cid value s
  | .stopctlResume cid value => Sys2Proof.Machine.execStopctlResume cid value s
  | .captureClear die target value => Sys2Proof.Machine.execCaptureClear die target value s
  | .xinvctlGo die value => Sys2Proof.Machine.execXinvctlGo die value s
  | .invalidationComplete die => Sys2Proof.Machine.execInvalidationComplete die s
  | .registerWrite target off value => Sys2Proof.Machine.execRegisterWrite target off value s
  | .bar2Access off acc => Sys2Proof.Machine.execBar2Access off acc s
  | .driveDma drive pa write => Sys2Proof.Machine.execDriveDma drive pa write s
  | .scaleUpRequest port pa acc => Sys2Proof.Machine.execScaleUpRequest port pa acc s
  | .linkDown port performed => Sys2Proof.Machine.execLinkDown port performed s
  | .driveRemoval drive => Sys2Proof.Machine.execDriveRemoval drive s
  | .flitReplay die => Sys2Proof.Machine.execFlitReplay die s
  | .graftLoss => Sys2Proof.Machine.execGraftLoss s
  | .uevtClear value => Sys2Proof.Machine.execUevtClear value s
  | .moduleReset value => Sys2Proof.Machine.execModuleReset value s
  | .pcSampleTick core power => Sys2Proof.Machine.execPcSampleTick core power s
  | .perfLevelChange cluster => Sys2Proof.Machine.execPerfLevelChange cluster s
  | .powerLimitExceeded milliwatts => Sys2Proof.Machine.execPowerLimitExceeded milliwatts s
  | .thermalLevelForce die => Sys2Proof.Machine.execThermalLevelForce die s
  | .thermalShutdown die => Sys2Proof.Machine.execThermalShutdown die s
  | .timebaseCorrection delta => Sys2Proof.Machine.execTimebaseCorrection delta s
  | .bringUp hbmOk graftOk links drives => Sys2Proof.Machine.execBringUp hbmOk graftOk links drives s
  | .conductorRun die cid => Sys2Proof.Machine.execConductorRun die cid s
  | .resizableBarWrite log2GiB => Sys2Proof.Machine.execResizableBarWrite log2GiB s
  | .effectiveLevelRestore milliwatts => Sys2Proof.Machine.execEffectiveLevelRestore milliwatts s
  | .i3cDynamicAddress addr => Sys2Proof.Machine.execI3cDynamicAddress addr s
  | .mboundResult wid op => Sys2Proof.Machine.execMboundResult wid op s

end Sys2Proof.Machine
end

