-- ==== Sys2Proof/Machine/Step.lean ====
section
/-! DEFINITION. One step of the machine: the next agent moves (DESIGN CHOICE, log entry 5). The agent is the head of `State.agenda`;
with nothing listed there it is any, as a free value says. -/

namespace Sys2Proof.Machine

/-- Which agent moves when nothing is listed: a free value. -/
opaque Config.freeMove : Nat → Move

/-- The issue slot continues its run: the next word of the clause is decoded and executed. -/
noncomputable def issueMove (s : State) (core slot : Nat) : Host.Outcome State Fault Refusal :=
  match s.issueWord core slot with
  | .error t => .next t
  | .ok (t, i, n) =>
    match exec i t with
    | .next u => .next (u.issued n)
    | .fault f => .fault f
    | .refused r => .refused r

/-- One agent moves. Words of a program are no events: they run from an issue slot alone
(DESIGN CHOICE, log entry 5). -/
noncomputable def move (s : State) (m : Move) : Host.Outcome State Fault Refusal :=
  match m with
  | .event i => if (Instr.cls i).isNone then exec i s else .next s
  | .issue core slot => issueMove s core slot
  | .orderPoint wid => .next (s.orderPoint wid)
  | .transfer id k => .next (s.transferPart id k)
  | .tick ns => .next (s.tick ns)
  | .sense value => .next (s.sense value)

/-- A module held after an uncorrectable error or in reset after thermal shutdown moves only by its reset (R406, R415); the
management port is there (R419). -/
def Move.allowed (s : State) : Move → Bool
  | .event (.moduleReset _) | .event (.uevtClear _) | .event (.i3cDynamicAddress _) => true
  | .event (.registerWrite .management _ _) => true
  | _ => !s.held

/-- One step (DESIGN CHOICE, log entry 5). -/
noncomputable def step (s : State) : Host.Outcome State Fault Refusal :=
  let s1 := { s with fresh := s.fresh + 1 }
  match s.agenda with
  | m :: rest =>
    let s2 := { s1 with agenda := rest }
    if m.allowed s then move s2 m else .next s2
  | [] =>
    let s2 := { s1 with ticks := s.ticks + 1 }
    let m := Config.freeMove s.ticks
    if m.allowed s then move s2 m else .next s2

/-- The instruction whose bits are `w` as the only word of a clause in progress on issue slot 0 of core 0, with a
resident warp of a role that may run its class, and that slot the next to move. It stands for a launch and the issue
of a clause: at reset no program runs (DESIGN CHOICE, log entry 6). -/
noncomputable def State.withFetchWord (s : State) (nbits w : Nat) : State :=
  let r := decodeTableClass nbits w
  let cls := (r.map fun x => x.1).getD .s
  let n := (r.map fun x => x.2.2).getD 1
  { s.updCore 0 fun c => { c with rlines := (List.range 64).map fun r => (64 + r, false) } with
    warps := s.warps.put 1 { Warp.empty with
      role := fetchRole cls, life := .resident, live := BitVec.allOnes 32, grid := 1, blk := 1 }
    runs := s.runs.put 0 { Run.idle with
      wid := 1, threads := BitVec.allOnes 32, all := BitVec.allOnes 32, cls := cls, words := (tableWords nbits w).take n, atClause := false
      total := n }
    agenda := [.issue 0 0] }

end Sys2Proof.Machine
end

