-- ==== Sys2Proof/Safety.lean ====
section
/-! DEFINITION. What counts as a safe run, and the frames that claims are stated with: what an instruction that writes
registers leaves alone, what reading a register back gives, which states a run reaches. -/

namespace Sys2Proof.Machine

/-- The memory is in its canonical form: addresses strictly rising, no byte listed that reads as memory nothing has
written (DESIGN CHOICE, log entry 1). -/
def State.MemWf (s : State) : Prop := Memory.wf s.mem = true

/-- A run: one step after another, none of them a fault or a refusal. -/
inductive Reaches : State → State → Prop where
  | refl (s : State) : Reaches s s
  | step (s t u : State) (h : Reaches s t) (h' : Machine.step t = .next u) : Reaches s u

/-- A state from which the machine goes on. -/
def State.Safe (s : State) : Prop := ∃ t, Machine.step s = .next t

/-! ## Registers -/

/-- The register exists (Table 0.3, R134, R382). -/
def RegName.valid : RegName → Bool
  | .v r => decide (r < 64)
  | .p r => decide (r < 16)
  | .w r => decide (r < 64)
  | .k r => decide (r < 8)
  | .hw r => decide (r < 8)

/-- What a register holds after `x` is written to it: a predicate holds one bit, and k7 keeps reading true (R134). -/
def RegName.holds : RegName → Word → Word
  | .v _, x | .w _, x | .hw _, x => x
  | .p _, x => boolWord (x != 0)
  | .k r, x => if r = 7 then 1 else boolWord (x != 0)

/-- The register holds a value of its own in each lane. -/
def RegName.perLane : RegName → Bool
  | .v _ | .p _ => true
  | _ => false

/-- An operation without what an overwritten register may change in it (R113). -/
def Op.fixed (o : Op) : Op :=
  { o with caps := o.caps.map fun (c : Cap) => { c with vals := [] }, stray := 0 }

/-- Nothing but registers of the executing warp differs: memory, every other warp, every block, cache, engine and
register of the device, and the warp's own PCs, flags, masks, control registers and operations are as before. -/
structure OnlyRegs (s t : State) : Prop where
  rest : t = { s with warps := t.warps }
  others : ∀ wid, wid ≠ s.focus.wid → t.warps.get? wid = s.warps.get? wid
  self : t.self = { s.self with
    v := t.self.v, p := t.self.p, w := t.self.w, k := t.self.k, hw := t.self.hw, dirty := t.self.dirty
    unspec := t.self.unspec, ops := t.self.ops, spent := t.self.spent }
  ops : t.self.ops.map (fun e => (e.1, e.2.fixed)) = s.self.ops.map (fun e => (e.1, e.2.fixed))
  spent : t.self.spent.map (fun e => (e.1, e.2.fixed)) = s.self.spent.map (fun e => (e.1, e.2.fixed))

/-- Only the executing warp's record differs. -/
structure OnlySelf (s t : State) : Prop where
  rest : t = { s with warps := t.warps }
  others : ∀ wid, wid ≠ s.focus.wid → t.warps.get? wid = s.warps.get? wid

/-- After `s` the register `n` of lane `l` holds `f n l` where that is a value, and what it held where it is none; it reads as
unspecified afterwards where it was written while it was still to receive another operation's result (R113), and where
it was not written if it did before; and nothing but registers of the executing warp differs. -/
def WritesRegs (s t : State) (f : RegName → Nat → Option Word) : Prop :=
  OnlyRegs s t ∧ (∀ n l, l < 32 →
    t.self.raw n l = match f n l with
      | some x => n.holds x
      | none => s.self.raw n l) ∧
  ∀ n l, l < 32 → t.self.unspec.contains (n.place l) = match f n l with
    | some _ => s.self.pendingAt n l
    | none => s.self.unspec.contains (n.place l)

/-- `f l` to one register in the active lanes under a prefix's write mask (R131): a lane the mask turns off keeps its
value, or receives zero with ZP. -/
def laneWrites (s : State) (x : Option VPfx) (act : Lanes) (n : RegName) (f : Nat → Word) (m : RegName) (l : Nat) :
    Option Word :=
  if m = n ∧ act.getLsbD l = true then
    match x with
    | none => some (f l)
    | some p => if p.wme = false ∨ s.rdMask p.wmp.toNat l = true then some (f l) else if p.zp then some 0 else none
  else none

/-- `x` to the uniform register that the executing warp means by a name (R382). -/
def scalarWrites (s : State) (n : RegName) (x : Word) (m : RegName) (_ : Nat) : Option Word :=
  if m = s.self.named n then some x else none

/-! ## Rounding and conversions -/

/-- The ordinary magnitude code `c` of a format, and what would follow the largest one if exponents went on. -/
def Fmt.mag (m : Fmt) (c : Nat) : Val := m.value c
def Fmt.afterTop (m : Fmt) : Val := Val.add .rne (Val.add .rne (m.mag m.top) (m.mag m.top)) (m.mag (m.top - 1)).neg

/-- `x`, rounded as if exponents went on past the largest finite value, is beyond it (R28, R35): nearest even at or past the
midpoint when the largest code is odd, past it when that is even; away from zero when above the largest; toward zero
from the next value on. -/
def Fmt.Beyond (m : Fmt) (rm : Rm) (neg : Bool) (x : Val) : Prop :=
  let twice := Val.add .rne x x
  let mid := Val.add .rne (m.mag m.top) m.afterTop
  match rm, neg with
  | .rne, _ => mid.lt twice = true ∨ mid.eqv twice = true ∧ m.top % 2 = 1
  | .rd, true | .ru, false => (m.mag m.top).lt x = true
  | _, _ => x.lt m.afterTop = false

/-- MODE's flush bit for inputs or outputs of a format (Table 2.5). -/
def flushBit (mode : Word) (m : Fmt) (out : Bool) : Bool :=
  mode.getLsbD ((if m.bits = 32 then 12 else if m.bits = 16 then 10 else 8) + if out then 1 else 0)

/-- A source of format `m` as a unit takes it that honours the flush bits if `on` (R33, R34): its value, and whether it was
flushed. -/
def SourceIs (on : Bool) (mode : Word) (m : Fmt) (code : Nat) (v : Val) (flushed : Bool) : Prop :=
  if on = true ∧ flushBit mode m false = true ∧ m.subnormal code = true then v = .fin (m.value code).sign 0 1 ∧ flushed = true
  else v = m.value code ∧ flushed = false

/-- A conversion into a floating format (R28, R34, R35, Table 2.6): `sat` where finite values saturate, `satInf` where
infinite ones do too; `c` is what is written, and which events are counted. -/
def ToFloat (on : Bool) (mode : Word) (m : Fmt) (rm : Rm) (sat satInf : Bool) (v : Val) (flushed : Bool) (c : Conv) : Prop :=
  let code := fun (neg : Bool) (mag : Nat) => BitVec.ofNat 32 (mag + if neg then 2 ^ (m.bits - 1) else 0)
  match v with
  | .nan => c = ⟨BitVec.ofNat 32 m.nan, false, false, true⟩
  | .inf s => if satInf then c = ⟨code s m.top, true, flushed, false⟩
    else ∃ i, m.inf = some i ∧ c = ⟨code s i, false, flushed, false⟩
  | .fin s n d =>
    if on = true ∧ flushBit mode m true = true ∧ n ≠ 0 ∧ (Val.fin false n d).lt (m.mag (2 ^ m.f)) = true then
      c = ⟨code s 0, false, true, false⟩
    else (sat = true → m.Beyond rm s (.fin false n d) → c = ⟨code s m.top, true, flushed, false⟩) ∧
      (sat = false ∨ ¬ m.Beyond rm s (.fin false n d) → c = ⟨BitVec.ofNat 32 (m.round rm v), false, flushed, false⟩)

/-- A conversion into an integer format of `w` bits (R35, R36). -/
def ToInteger (lo hi : Int) (w : Nat) (rm : Rm) (v : Val) (flushed : Bool) (c : Conv) : Prop :=
  let code := fun (x : Int) => BitVec.ofNat 32 (x % 2 ^ w).toNat
  match v with
  | .nan => c = ⟨0, false, false, true⟩
  | .inf s => c = ⟨code (if s then lo else hi), true, flushed, false⟩
  | .fin s n d =>
    let x : Int := (if s then -1 else 1) * (roundInt rm s n d : Int)
    c = ⟨code (max lo (min hi x)), decide (x < lo ∨ hi < x), flushed, false⟩

/-- A conversion into q32 (Table 2.6, R292, R49). -/
def ToRational (mode : Word) (v : Val) (flushed : Bool) (c : Conv) : Prop :=
  c = ⟨qEncode (qRound (qrmOf mode) 26 v), false, flushed && !v.isNan, v.isNan⟩

/-- Table 2.6, row by row: what CVT (`on`) or CVTW makes of `x` under the conversion code. -/
def Converts (on : Bool) (mode : Word) (rm : Rm) (code : BitVec 6) (x : Word) (c : Conv) : Prop :=
  let src := fun (m : Fmt) (yields : Val → Bool → Conv → Prop) => ∃ v fl, SourceIs on mode m x.toNat v fl ∧ yields v fl c
  let signed : Val := .fin (decide (x.toInt < 0)) x.toInt.natAbs 1
  match code.toNat with
  | 0x00 => src .f32 (ToInteger (-2 ^ 31) (2 ^ 31 - 1) 32 rm)
  | 0x01 => src .f32 (ToInteger 0 (2 ^ 32 - 1) 32 rm)
  | 0x02 => ToFloat on mode .f32 rm false false signed false c
  | 0x03 => ToFloat on mode .f32 rm false false (.fin false x.toNat 1) false c
  | 0x04 => src .f32 (ToFloat on mode .f16 rm false false)
  | 0x05 => src .f16 (ToFloat on mode .f32 rm false false)
  | 0x06 => src .f32 (ToFloat on mode .bf16 rm false false)
  | 0x07 => src .bf16 (ToFloat on mode .f32 rm false false)
  | 0x08 => src .f32 (ToFloat on mode .e4m3 rm true true)
  | 0x09 => src .e4m3 (ToFloat on mode .f32 rm false false)
  | 0x0A => src .f32 (ToFloat on mode .e5m2 rm true false)
  | 0x0B => src .e5m2 (ToFloat on mode .f32 rm false false)
  | 0x0C => src .f32 (ToFloat on mode .e2m1 rm true true)
  | 0x0D => src .e2m1 (ToFloat on mode .f32 rm false false)
  | 0x0E => src .f32 (ToRational mode)
  | 0x0F => ToFloat on mode .f32 rm false false (qVal x) false c
  | 0x10 => ToRational mode signed false c
  | 0x11 => src .f32 (ToInteger (-128) 127 8 rm)
  | 0x12 => src .f32 (ToInteger (-8) 7 4 rm)
  | 0x13 => ToFloat on mode .f32 rm false false (.fin (decide (x.toNat % 256 ≥ 128)) (if x.toNat % 256 ≥ 128 then 256 - x.toNat % 256 else x.toNat % 256) 1) false c
  | _ => False

/-- An E8M0 scale applied to an exact value: divided by 2^(e − 127), or multiplied by it; 0xFF is the NaN scale (R37 to
R39). -/
def scaledBy (divide : Bool) (e : BitVec 8) (v : Val) : Val :=
  let k : Int := (e.toNat : Int) - 127
  if e = 0xFF then .nan else Val.mul v (.dyadic false 1 (if divide then -k else k))

/-- R38, R231: a lane of CVTS, into the format that its code names. -/
def NarrowsTo (mode : Word) (code : Nat) (e : BitVec 8) (x : Word) (c : Conv) : Prop :=
  ∃ v fl r, SourceIs true mode .f32 x.toNat v fl ∧ c = { r with ftz := r.ftz || fl } ∧
    match code with
    | 0x08 => ToFloat true mode .e4m3 .rne true true (scaledBy true e v) fl r
    | 0x0A => ToFloat true mode .e5m2 .rne true true (scaledBy true e v) fl r
    | 0x0C => ToFloat true mode .e2m1 .rne true true (scaledBy true e v) fl r
    | 0x11 => ToInteger (-128) 127 8 .rne (scaledBy true e v) fl r
    | 0x12 => ToInteger (-8) 7 4 .rne (scaledBy true e v) fl r
    | _ => False

/-- R39, R232: a lane of CVTX, from byte `n` of its source. -/
def WidensTo (mode : Word) (code : Nat) (e : BitVec 8) (n : Nat) (x : Word) (c : Conv) : Prop :=
  let b := x.toNat / 2 ^ (8 * n) % 256
  ∃ v fl r, c = { r with ftz := r.ftz || fl } ∧ ToFloat true mode .f32 .rne false false (scaledBy false e v) fl r ∧
    match code with
    | 0x09 => SourceIs true mode .e4m3 b v fl
    | 0x0B => SourceIs true mode .e5m2 b v fl
    | 0x0D => SourceIs true mode .e2m1 b v fl
    | 0x13 => fl = false ∧ v = .fin (decide (128 ≤ b)) (if 128 ≤ b then 256 - b else b) 1
    | _ => False

/-- A counting conversion (R40 to R42): its registers are written; with no event, or no job to count for, nothing else
happens; with events of one counter `k` alone, in the lanes `thr`, their number is added to that counter, which stays at
2^64 − 1, and a crossing of its limit waits for the warp's run boundary, joined to one already waiting (DEDUCED, log entry
17). With events of several counters each is counted after the one before it in the states `u`: its value and limit are
read, the limit's line passes its home L2, the new value is stored; the limits crossed by the instruction form one mask. -/
def CountsConversion (s : State) (i : Instr) (writes : RegName → Nat → Option Word) (thr : Lanes) (f : Nat → Conv) : Prop :=
  let w := s.self
  let n := fun (k : Nat) => ((List.range 32).filter fun l => thr.getLsbD l && match k with
    | 0 => (f l).sat
    | 1 => (f l).ftz
    | _ => (f l).nan).length
  ((∀ k, k < 3 → n k = 0) ∨ (s.ctx w.cid).job = none → ∃ t, exec i s = .next t ∧ WritesRegs s t writes) ∧
  (∀ (k : Nat) (j : Job) (old lim : DWord) (key : Nat), k < 3 → n k ≠ 0 → (∀ m, m < 3 → m ≠ k → n m = 0) →
    (s.warps.get? s.focus.wid).isSome = true → (s.ctx w.cid).job = some j →
    let at_ := j.jcb + BitVec.ofNat 64 (0x30 + 8 * k)
    let new := Nat.min (old.toNat + n k) (2 ^ 64 - 1)
    s.ctxRead64 w.core w.cid at_ = .ok old → s.ctxRead64 w.core w.cid (j.jcb + BitVec.ofNat 64 (0x50 + 8 * k)) = .ok lim →
    (s.noteCtxHome w.core w.cid (j.jcb + BitVec.ofNat 64 (0x50 + 8 * k)) 8).ctxSegments w.core w.cid .write at_ 8 =
      .ok [(key, 8)] →
    ∃ t, exec i s = .next t ∧ t.mem = Memory.setList s.mem key (toBytes 8 new) ∧
      (∀ r l, l < 32 → t.self.raw r l = match writes r l with
        | some x => r.holds x
        | none => s.self.raw r l) ∧
      t.self.crossing = if lim ≠ 0 ∧ old.toNat ≤ lim.toNat ∧ lim.toNat < new then
          some (match s.self.crossing with
            | some p => ⟨p.cause ||| (1#8 <<< k), p.addr⟩
            | none => ⟨1#8 <<< k, s.focus.hdr.zeroExtend 64⟩)
        else s.self.crossing) ∧
  ∀ (j : Job) (u : Nat → State) (old lim : Nat → DWord), (s.warps.get? s.focus.wid).isSome = true →
    (s.ctx w.cid).job = some j → u 0 = s →
    let at_ := fun (k : Nat) => j.jcb + BitVec.ofNat 64 (0x30 + 8 * k)
    let limit := fun (k : Nat) => j.jcb + BitVec.ofNat 64 (0x50 + 8 * k)
    let new := fun (k : Nat) => Nat.min ((old k).toNat + n k) (2 ^ 64 - 1)
    (∀ k, k < 3 → if n k = 0 then u (k + 1) = u k
      else (u k).ctxRead64 w.core w.cid (at_ k) = .ok (old k) ∧ (u k).ctxRead64 w.core w.cid (limit k) = .ok (lim k) ∧
        ((u k).noteCtxHome w.core w.cid (limit k) 8).ctxWrite w.core w.cid (at_ k)
          (bytes64 (BitVec.ofNat 64 (new k))) = .ok (u (k + 1))) →
    let crossed := fun (k : Nat) =>
      decide (n k ≠ 0 ∧ lim k ≠ 0 ∧ (old k).toNat ≤ (lim k).toNat ∧ (lim k).toNat < new k)
    let mask := (if crossed 0 then 1#8 else 0#8) ||| (if crossed 1 then 2#8 else 0#8) |||
      if crossed 2 then 4#8 else 0#8
    ∃ t, exec i s = .next t ∧ t.mem = (u 3).mem ∧
      (∀ r l, l < 32 → t.self.raw r l = match writes r l with
        | some x => r.holds x
        | none => s.self.raw r l) ∧
      t.self.crossing = if mask = 0 then s.self.crossing
        else some (match s.self.crossing with
          | some p => ⟨p.cause ||| mask, p.addr⟩
          | none => ⟨mask, s.focus.hdr.zeroExtend 64⟩)

/-! ## Engine commands -/

/-- The executing word issues the command `i` to the engine `u`: the newest command, queued, with the operands `vals`;
its registers `dests` among the warp's operations; a range-lock entry if `lock`. No register, no other warp and no byte
of memory changes, and of other commands only what they share with a storage command (R201). -/
def Issues (s t : State) (i : Instr) (u : EngineUnit) (vals : List Word) (dests : List RegName) (lock : Bool) : Prop :=
  t.mem = s.mem ∧ t.nextId = s.nextId + 1 ∧ (∀ n l, t.self.raw n l = s.self.raw n l) ∧
  (∀ wid, wid ≠ s.focus.wid → t.warps.get? wid = s.warps.get? wid) ∧
  (∀ id, id ≠ s.nextId → (t.cmds.get? id).map (fun c : Cmd => { c with hazy := [] }) =
    (s.cmds.get? id).map fun c : Cmd => { c with hazy := [] }) ∧
  (∃ c : Cmd, t.cmds.get? s.nextId = some c ∧ c.ins = i ∧ c.unit = u ∧ c.st = .queued ∧ c.wid = s.focus.wid ∧
    c.cid = s.self.cid ∧ c.blk = s.self.blk ∧ c.ops = vals ∧ c.setA = s.focus.setA ∧ c.setB = s.focus.setB ∧
    c.srcPending = true) ∧
  (∃ q : Op, t.self.ops = s.self.ops ++ [(s.nextId, q)] ∧ q.ins = i ∧ q.dests.map (·.reg) = dests.map s.self.named) ∧
  if lock then ∃ l : Lock, (t.core s.self.core).locks = (s.core s.self.core).locks ++ [l] ∧ l.cmd = s.nextId ∧
    l.blk = s.self.blk
  else (t.core s.self.core).locks = (s.core s.self.core).locks

/-- Command `id` is over: it is gone, its registers are no longer awaited, its range-lock entry is clear. -/
def Finished (t : State) (id : Nat) (c : Cmd) : Prop :=
  t.cmds.get? id = none ∧ (t.warp c.wid).op? id = none ∧
    ∀ l ∈ (t.core c.core).locks, l.cmd = id → l.owner = .multicast

/-- The operation of command `id` is to write the uniform registers `ns`, and nothing has overwritten them. -/
def Awaits (s : State) (wid id : Nat) (ns : List RegName) : Prop :=
  ∃ q : Op, (s.warp wid).op? id = some q ∧ q.dests = (ns.map fun n => (⟨n, 1⟩ : Dest)) ∧
    ∀ n ∈ ns, (s.warp wid).unspec.contains (n.place 0) = false

/-- A uniform register an instruction named by `r` when it issued: outside a handler, or in one (R382). -/
def namedAs (r : Nat) (n : RegName) : Prop := n = .w r ∨ 56 ≤ r ∧ n = .hw (r - 56)

/-- The phaser that block `blk` names by `n`. -/
def State.blockPhaser (s : State) (blk n : Nat) : Option Phaser := (s.blocks.get? blk).bind fun b => s.phaser? b n

/-! ## Transfers (R184 to R201) -/

/-- R185: what element `x` of a copy becomes under scale byte `e`. -/
def Shape.Carries (r : Shape) (x : Nat) (e : BitVec 8) (y : Nat) : Prop :=
  if r.cven = false then y = x
  else ∃ c : Conv, y = c.res.toNat ∧ match r.scm with
    | 0 => Converts false 0 .rne (BitVec.ofNat 6 r.code) (BitVec.ofNat 32 x) c
    | 1 => NarrowsTo 0 r.code e (BitVec.ofNat 32 x) c
    | _ => WidensTo 0 r.code e 0 (BitVec.ofNat 32 x) c

/-- R185, R186: the bytes that the write of a copy with the elements `g` carries, of sources as they stand in `s`: one
element, or the two of a byte of a packed 4-bit destination, low nibble first (R184). No byte they are made of, of elements
or of scales, is a destination byte of the copy too, by whatever address (R188). -/
def State.CopyBytes (s : State) (c : Cmd) (r : Shape) (g : List (List Nat)) (bs : List Byte) : Prop :=
  (∀ e ∈ g, meet (s.sourcesOf c r e) (s.putPlaces c r).flatten = false) ∧
  ∃ ys : List Nat, ys.length = g.length ∧
    (∀ (i : Nat) e y, g[i]? = some e → ys[i]? = some y → ∃ raw sc,
      s.spaceRead c (if r.srcTile then .tile else .global) 0 (r.srcAddr e) r.srcBytes = .ok raw ∧
      (if r.scm = 0 then sc = 0x7F else s.spaceRead c .global 0 (r.scaleAddr e) 1 = .ok [sc]) ∧
      r.Carries (if r.bits.1 = 4 then ofBytes raw / 16 ^ (e.getD 0 0 % 2) % 16 else ofBytes raw) sc y) ∧
    bs = if r.bits.2 = 4 then toBytes 1 (ys.getD 0 0 % 16 + 16 * (ys.getD 1 0 % 16)) else toBytes r.dstBytes (ys.getD 0 0)

/-- R195, R97, R98: the terms of an element of value `v` in the source format with code `f`. -/
def EncodesAs (f : Nat) (v : Val) (ts : List Term) : Prop :=
  if v.isNan = true then ts = []
  else ∃ c w, (match floatFmt f with
      | some m => ToFloat false 0 m .rne true true v false c
      | none => ToInteger (-128) 127 8 .rne v false c) ∧
    termsOf (denseVal f c.res.toNat) = some w ∧ ts = match w with
      | (sg, e) :: _ => if 128 ≤ e then [(sg, 127), (sg, 125), (sg, 123), (sg, 121)] else w
      | [] => []

/-- R197: an element of terms `ts` under scale byte `e` in the destination format with code `f`. -/
def DecodesTo (f : Nat) (e : BitVec 8) (ts : List Term) (c : Conv) : Prop :=
  match floatFmt f with
  | some m => ToFloat false 0 m .rne (decide (m = .e4m3 ∨ m = .e5m2)) (decide (m = .e4m3)) (scaledBy false e (termSum ts)) false c
  | none => ToInteger (-128) 127 8 .rne (scaledBy false e (termSum ts)) false c

/-- The tile memory of block `blk` after `s` holds `bs` from `a` on and is otherwise as it was, and so is memory. -/
def TileWritten (s t : State) (blk a : Nat) (bs : List Byte) : Prop :=
  t.mem = s.mem ∧ ∀ j, t.tileByte blk j = if a ≤ j ∧ j < a + bs.length then bs.getD (j - a) 0 else s.tileByte blk j

/-- The same with part of the bytes written only: each byte of the place is old or new, whatever a free value says. -/
def TilePartly (s t : State) (blk a : Nat) (bs : List Byte) : Prop :=
  (∀ j, Memory.get t.mem j = Memory.get s.mem j) ∧ ∀ j, t.tileByte blk j = s.tileByte blk j ∨
    a ≤ j ∧ j < a + bs.length ∧ t.tileByte blk j = bs.getD (j - a) 0

/-! ## Images -/

/-- What the control image at `a` holds of a warp (Table 14.6). -/
def State.ControlImage (t : State) (a : Nat) (x : Warp) : Prop :=
  (∀ l, l < 32 → t.memBytes (a + 16 * l) 12 = toBytes 6 (x.pcOf l).toNat ++ toBytes 6 (x.rpcOf l).toNat ∧
    t.memBytes (a + 16 * l + 12) 4 = [BitVec.ofNat 8 ((if x.pk.getLsbD l then 1 else 0) +
      if x.live.getLsbD l then 0 else if x.helper.getLsbD l then 2 else 4), 0, 0, 0]) ∧
  (∀ n, n < 64 → t.memBytes (a + 0x200 + 4 * n) 4 = bytes32 (x.getW n)) ∧
  (∀ n, n < 8 → t.memBytes (a + 0x300 + 4 * n) 4 = bytes32 (x.getHw n)) ∧
  (∀ l, l < 32 → t.memBytes (a + 0x320 + 2 * l) 2 = toBytes 2 (Sparse.get 0 x.p l).toNat) ∧
  t.memBytes (a + 0x360) 4 = bytes32 x.flagstat ∧
  t.memBytes (a + 0x364) 4 = [x.k ||| 0x80, x.bbc,
    BitVec.ofNat 8 ((if x.blocked.isSome then 1 else 0) + if x.boundaryTrap.isSome then 2 else 0), x.side] ∧
  t.memBytes (a + 0x368) 12 = bytes32 x.mode ++ bytes32 x.part ++ bytes32 x.trapen ∧
  t.memBytes (a + 0x374) 12 = bytes32 x.trapinfo0 ++ bytes32 x.trapinfo1 ++ bytes32 x.rlockst ∧
  t.memBytes (a + 0x380) 8 = bytes64 x.trapaddr ∧ t.memBytes (a + 0x38C) 4 = bytes32 x.samplecfg ∧
  (∀ f, f < 12 → t.memBytes (a + 0x390 + 4 * f) 4 = toBytes 4 ((Sparse.get 0 x.frpc f).toNat % 2 ^ 32)) ∧
  t.memBytes (a + 0x3C0) 4 = bytes32 (if x.blocked.isSome then x.pendWord else 0) ∧
  (∀ d, x.blocked = some (.time d) → t.memBytes (a + 0x3C8) 8 = bytes64 d) ∧
  (x.boundaryTrap = none → t.memBytes (a + 0x3D4) 4 = [0, 0, 0, 0]) ∧
  (∀ code p, x.boundaryTrap = some (code, p) → t.memBytes (a + 0x3D4) 4 = [code, p.cause, 0, 0] ∧
    t.memBytes (a + 0x3E0) 8 = bytes64 p.addr) ∧
  ∀ i, i < 4 → t.memBytes (a + 0x3D8 + 2 * i) 2 = toBytes 2 (x.gepOf i).toNat

/-- What the block image at `a` holds of a block saved in `s` (Tables 14.7, 14.8): its specified tile bytes, its banks, and
the block control record. -/
def State.BlockImage (t s : State) (a : Nat) (b : Block) (k : Kernel) : Prop :=
  let r := a + 0x1C0000
  (∀ i v, i < k.tileBytes → i < 0x100000 → Sparse.get none b.tile i = some v → t.memBytes (a + i) 1 = [v]) ∧
  (∀ n bank i v, n < 6 → b.acc[n]? = some bank → i < 32768 → bank.elem i = some v →
    t.memBytes (a + 0x100000 + 0x20000 * n + 4 * i) 4 = bytes32 v) ∧
  t.memBytes r 24 = toBytes 4 b.grid ++ toBytes 4 b.lin ++ bytes64 k.va ++ toBytes 4 b.inbound ++
    [BitVec.ofNat 8 b.warps.length, BitVec.ofNat 8 k.phn, BitVec.ofNat 8 (b.acc.length % 8), BitVec.ofNat 8 b.rank] ∧
  t.memBytes (r + 0x18) 8 = toBytes 8 k.tileBytes ∧
  (∀ n y, n < 32 → b.warps[n]? = some y → t.memBytes (r + 0x20 + 2 * n) 2 = toBytes 2 (s.warp y).image.2 ∧
    ∀ f, f < 12 → ((s.warp y).ferr.get? f = none → t.memBytes (r + 0x2800 + 96 * n + 8 * f) 8 = List.replicate 8 0) ∧
      ∀ e, (s.warp y).ferr.get? f = some e → t.memBytes (r + 0x2800 + 96 * n + 8 * f) 8 =
        toBytes 6 (if e.code = 8 ∧ 4 ≤ e.cause.toNat ∧ e.cause.toNat ≤ 6 then e.addr.toNat % 2 ^ 48 else 0) ++ [e.cause, e.code]) ∧
  (∀ n bank mo me, n < 6 → b.acc[n]? = some bank → bank.modelled = some mo → bank.measured = some me →
    t.memBytes (r + 0x60 + 8 * n) 8 = toBytes 4 mo ++ toBytes 4 me) ∧
  (∀ n q, n < 8 → b.rings[n]? = some q → t.memBytes (r + 0x100 + 64 * n) 1 = [BitVec.ofNat 8 q.stages] ∧
    ∀ i, i < 8 → t.memBytes (r + 0x108 + 64 * n + 2 * i) 2 = toBytes 2 (q.count true i).toNat ∧
      t.memBytes (r + 0x118 + 64 * n + 2 * i) 2 = toBytes 2 (q.count false i).toNat) ∧
  ∀ n p, n < 48 → b.phasers[n]? = some p →
    t.memBytes (r + 0x300 + 8 * n) 8 = toBytes 2 p.phase.toNat ++ [1, 0, 0, 0, 0, 0] ∧
    ∀ i y, i < 32 → b.warps[i]? = some y → (p.reg? y = none → t.memBytes (r + 0x800 + 128 * n + 4 * i) 4 = [0, 0, 0, 0]) ∧
      ∀ q, p.reg? y = some q → q.pending = none → t.memBytes (r + 0x800 + 128 * n + 4 * i) 4 =
        [(match q.mode with
          | none => 0
          | some .so => 1
          | some .wo => 2
          | some .sw => 3), BitVec.ofNat 8 q.a] ++ toBytes 2 q.ep.toNat

end Sys2Proof.Machine
end

