-- ==== Sys2Proof/Certificates/Slice0/Obligations.lean ====
section
/-! DEFINITION. The statements about this model. Each formalises rules of the spec (its docstring names them); the values
are written out from the rules' own words, and what a statement takes from the model are its reads of registers, the
guards and masks, and the frames of Safety.lean. -/

open Sys2Proof Sys2Proof.Machine

/-! ## Registers -/

/-- R113, R134, R382, R2: a register that is no pending destination and was not left unspecified reads, as any operand, what it
holds; in handler mode w56 to w63 name the handler registers; what an instruction writes is read back; k7 is no
destination and reads true. (A context whose obligations were breached without a stated outcome reads anything, R1.) -/
def Obligations.RegisterReads : Prop :=
  ∀ (s : State) (i : Nat) (n : RegName) (l : Nat) (x : Word), s.lost s.self.cid = false →
    let m := s.self.named n
    (s.self.unspecAt m l = false → s.rdAt i n l = s.self.raw m l) ∧
    (n.valid = true → l < 32 → s.self.pendingAt m l = false → (s.wr n l x).rdAt i n l = n.holds x) ∧
    (∀ r, s.self.named (.w r) = if s.self.inHandler = true ∧ 56 ≤ r then .hw (r - 56) else .w r) ∧
    s.self.pendingAt (.k 7) l = false ∧ s.self.raw (.k 7) l = 1

/-! ## Class S -/

/-- R213, R212, R207, R121: Table 8.2 for two sources. Under a true guard wd receives the value, every other register
and everything else is as it was; under a false one nothing changes. -/
def Obligations.ScalarInteger : Prop :=
  ∀ (s : State) (o : SRR),
    let a := s.rdW o.a
    let b := s.rdW1 o.b
    let n := b.toNat % 256
    ∀ p ∈ ([(.addw o, a + b), (.subw o, a - b), (.mulw o, BitVec.ofNat 32 (a.toNat * b.toNat)),
        (.mulhwI o, BitVec.ofInt 32 (a.toInt * b.toInt / 2 ^ 32)),
        (.mulhwN o, BitVec.ofNat 32 (a.toNat * b.toNat / 2 ^ 32)),
        (.shlw o, if 32 ≤ n then 0 else BitVec.ofNat 32 (a.toNat * 2 ^ n)),
        (.shrw o, if 32 ≤ n then 0 else BitVec.ofNat 32 (a.toNat / 2 ^ n)),
        (.sarw o, if 32 ≤ n then (if a.getLsbD 31 then 0xFFFFFFFF else 0) else BitVec.ofInt 32 (a.toInt / 2 ^ n)),
        (.andw o, a &&& b), (.orw o, a ||| b), (.xorw o, a ^^^ b),
        (.minwI o, if a.toInt ≤ b.toInt then a else b), (.maxwI o, if a.toInt ≤ b.toInt then b else a),
        (.minwN o, if a.toNat ≤ b.toNat then a else b), (.maxwN o, if a.toNat ≤ b.toNat then b else a)] :
        List (Instr × Word)),
      ∃ t, exec p.1 s = .next t ∧
        if s.uholds o.g then WritesRegs s t (scalarWrites s (.w o.d.toNat) p.2) else t = s

/-- R213, R212: Table 8.2 for one source, an immediate, or a literal; ADDWI's immediate is −32 to 31. -/
def Obligations.ScalarOneSource : Prop :=
  ∀ (s : State) (o : SR1) (i : SRI) (j : SRI) (c : SRL), i.imm.toNat < 32 →
    let a := s.rdW o.a
    let b := s.rdW i.a
    (∃ t, exec (.addwi j) s = .next t ∧
      if s.uholds j.g then
        WritesRegs s t (scalarWrites s (.w j.d.toNat) (BitVec.ofInt 32 ((s.rdW j.a).toNat + j.imm.toInt)))
      else t = s) ∧
    (∀ p ∈ ([(.movw o, a), (.notw o, 0xFFFFFFFF - a),
          (.bcntw o, BitVec.ofNat 32 ((List.range 32).countP fun j => a.getLsbD j)),
          (.clzw o, BitVec.ofNat 32 (if a = 0 then 32 else 31 - a.toNat.log2))] : List (Instr × Word)),
        ∃ t, exec p.1 s = .next t ∧
          if s.uholds o.g then WritesRegs s t (scalarWrites s (.w o.d.toNat) p.2) else t = s) ∧
    (∀ p ∈ ([(.shlwi i, BitVec.ofNat 32 (b.toNat * 2 ^ i.imm.toNat)),
          (.shrwi i, BitVec.ofNat 32 (b.toNat / 2 ^ i.imm.toNat)),
          (.sarwi i, BitVec.ofInt 32 (b.toInt / 2 ^ i.imm.toNat))] : List (Instr × Word)),
        ∃ t, exec p.1 s = .next t ∧
          if s.uholds i.g then WritesRegs s t (scalarWrites s (.w i.d.toNat) p.2) else t = s) ∧
    ∃ t, exec (.liw c) s = .next t ∧
      if s.uholds c.g then WritesRegs s t (scalarWrites s (.w c.d.toNat) c.lit) else t = s

/-- R213, R214, R210, R131: the forms that write a pair, ADD64W and SUB64W of class S, IADD64, ISUB64 and IMULW of class V:
all sources are read before either register of the destination is written. -/
def Obligations.PairArithmetic : Prop :=
  ∀ (s : State) (o : SRR) (v : VRR),
    (o.d.toNat % 2 = 0 →
      let a := (s.rd (.w (o.a.toNat + 1)) 0).toNat * 2 ^ 32 + (s.rdW o.a).toNat
      let b := (s.rdAt 1 (.w (o.b.toNat + 1)) 0).toNat * 2 ^ 32 + (s.rdW1 o.b).toNat
      ∀ p ∈ ([(.add64w o, BitVec.ofNat 64 (a + b)), (.sub64w o, BitVec.ofNat 64 a - BitVec.ofNat 64 b)] :
          List (Instr × DWord)),
        ∃ t, exec p.1 s = .next t ∧
          if s.uholds o.g then WritesRegs s t fun n l =>
            (scalarWrites s (.w (o.d.toNat + 1)) (p.2.extractLsb' 32 32) n l).or
              (scalarWrites s (.w o.d.toNat) (p.2.extractLsb' 0 32) n l)
          else t = s) ∧
    (v.d.toNat % 2 = 0 →
      let a := fun l => s.rdV v.a l
      let b := fun l => s.rdV1 v.b l
      let a2 := fun l => (s.rd (.v (v.a.toNat + 1)) l).toNat * 2 ^ 32 + (a l).toNat
      let b2 := fun l => (s.rdAt 1 (.v (v.b.toNat + 1)) l).toNat * 2 ^ 32 + (b l).toNat
      ∀ p ∈ ([(.iadd64 v, fun l => BitVec.ofNat 64 (a2 l + b2 l)),
          (.isub64 v, fun l => BitVec.ofNat 64 (a2 l) - BitVec.ofNat 64 (b2 l)),
          (.imulwI v, fun l => BitVec.ofInt 64 ((a l).toInt * (b l).toInt)),
          (.imulwN v, fun l => BitVec.ofNat 64 ((a l).toNat * (b l).toNat))] : List (Instr × (Nat → DWord))),
        ∃ t, exec p.1 s = .next t ∧ WritesRegs s t fun n l =>
          (laneWrites s v.x (s.active v.g) (.v (v.d.toNat + 1)) (fun l => (p.2 l).extractLsb' 32 32) n l).or
            (laneWrites s v.x (s.active v.g) (.v v.d.toNat) (fun l => (p.2 l).extractLsb' 0 32) n l))

/-- R216, R218, R219: CMPW under each of its six conditions (Table 5.5), SELW, which has no guard, and V2W, which reads
the lane that wb names whatever that lane's state. k7 keeps reading true. -/
def Obligations.ScalarCompareSelect : Prop :=
  ∀ (s : State) (o : SCS) (q : SSel) (v : SRR), o.cond.toNat ≤ 5 →
    let a := s.rdW o.a
    let b := s.rdW1 o.b
    let test := fun (x y : Int) => match o.cond.toNat with
      | 0 => decide (x = y)
      | 1 => decide (x ≠ y)
      | 2 => decide (x < y)
      | 3 => decide (x ≤ y)
      | 4 => decide (y < x)
      | _ => decide (y ≤ x)
    (∀ p ∈ ([(.cmpwI o, test a.toInt b.toInt), (.cmpwN o, test a.toNat b.toNat)] : List (Instr × Bool)),
      ∃ t, exec p.1 s = .next t ∧
        if s.uholds o.g then WritesRegs s t (scalarWrites s (.k o.t.toNat) (if p.2 then 1 else 0)) else t = s) ∧
    (∃ t, exec (.selw q) s = .next t ∧ WritesRegs s t (scalarWrites s (.w q.d.toNat)
      (if (s.rdK q.k.toNat = true) ≠ (q.s = true) then s.rdW q.a else s.rdW1 q.b))) ∧
    ∃ t, exec (.v2w v) s = .next t ∧
      if s.uholds v.g then
        WritesRegs s t (scalarWrites s (.w v.d.toNat) (s.rd (.v v.a.toNat) ((s.rdW v.b).toNat % 32)))
      else t = s

/-- R213, R221, R224, R227, R230, R297, R295: with MODE.QM clear the S-class floats round the exact result once under
MODE.FRM, FCMPW compares, and FDIVW is long-latency. CVTW converts by Table 2.6, without flush bits, in both modes
(`Converts`). With QM set the six are long-latency: each enters among the operations in flight with its sources, its
destination and the MODE it sampled (`o.ins` says which instruction it is; LongLatencyResult says what it makes of them), but an
FDIVW that divides by zero under TRAPEN bit 9 takes trap 0x09. No register changes at the issue of a long-latency one. -/
def Obligations.ScalarFloat : Prop :=
  ∀ (s : State) (o : SRR) (c : SCS) (v : SCV), c.cond.toNat ≤ 5 → v.code.toNat < 0x14 →
    let rm := frmOf s.self.mode
    let a := f32Val (s.rdW o.a)
    let b := f32Val (s.rdW1 o.b)
    let qm := s.self.mode.getLsbD 3
    let enters := fun (t : State) (i : Instr) (srcs : List Reg) (d : RegName) =>
      ∃ q : Op, q.ins = i ∧ q.mode = s.self.mode ∧
        q.caps.map (·.vals) = srcs.zipIdx.map (fun r => [s.rdAt r.2 (.w r.1.toNat) 0]) ∧
        q.dests = [⟨s.self.named d, 1⟩] ∧ q.setA = s.focus.setA ∧ q.setB = s.focus.setB ∧ t.mem = s.mem ∧
        t.self = { s.self.owe s.nextId s.focus.setB q.dests with ops := s.self.ops ++ [(s.nextId, q)] }
    (qm = false →
      (∀ p ∈ ([(.faddw o, f32Word rm (Val.add rm a b)), (.fsubw o, f32Word rm (Val.add rm a b.neg)),
          (.fmulw o, f32Word rm (Val.mul a b)),
          (.ffmaw o, f32Word rm (Val.add rm (Val.mul a b) (f32Val (s.rdW2 o.d))))] : List (Instr × Word)),
        ∃ t, exec p.1 s = .next t ∧
          if s.uholds o.g then WritesRegs s t (scalarWrites s (.w o.d.toNat) p.2) else t = s) ∧
      ∃ t, exec (.fcmpw c) s = .next t ∧
        if s.uholds c.g then WritesRegs s t (scalarWrites s (.k c.t.toNat)
          (if (Cond.ofCode c.cond).holdsVal (f32Val (s.rdW c.a)) (f32Val (s.rdW1 c.b)) then 1 else 0)) else t = s) ∧
    (qm = true →
      (∀ p ∈ ([(.faddw o, [o.a, o.b]), (.fsubw o, [o.a, o.b]), (.fmulw o, [o.a, o.b]), (.ffmaw o, [o.a, o.b, o.d])] :
          List (Instr × List Reg)),
        ∃ t, exec p.1 s = .next t ∧ if s.uholds o.g then enters t p.1 p.2 (.w o.d.toNat) else t = s) ∧
      ∃ t, exec (.fcmpw c) s = .next t ∧
        if s.uholds c.g then enters t (.fcmpw c) [c.a, c.b] (.k c.t.toNat) else t = s) ∧
    (let zero := qm = true ∧ s.self.trapen.getLsbD 9 = true ∧ (qVal (s.rdW1 o.b)).isZero = true ∧
        (qVal (s.rdW o.a)).isNan = false;
      (s.uholds o.g = false → exec (.fdivw o) s = .next s) ∧
      (s.uholds o.g = true → zero → exec (.fdivw o) s = .next (s.trap s.focus.wid
        ⟨9, 0, s.focus.hdr.zeroExtend 64, none, some s.focus.idx, none, false, s.focus.threads, .rpc⟩)) ∧
      (s.uholds o.g = true → ¬ zero → ∃ t, exec (.fdivw o) s = .next t ∧ enters t (.fdivw o) [o.a, o.b] (.w o.d.toNat))) ∧
    ∃ t r, exec (.cvtw v) s = .next t ∧ Converts false s.self.mode rm v.code (s.rdW v.a) r ∧
      if s.uholds v.g then WritesRegs s t (scalarWrites s (.w v.d.toNat) r.res) else t = s

/-! ## Class V -/

/-- R120, R208: the lanes that execute are those of the run, its threads and their helpers, whose guard predicate
differs from the sense bit; with E = 0 every lane of the run. -/
def Obligations.LaneGuard : Prop :=
  ∀ (s : State) (g : LGuard) (l : Nat), l < 32 →
    ((s.active g).getLsbD l = true ↔
      ((s.focus.threads.getLsbD l = true ∨ s.focus.shadows.getLsbD l = true) ∧
        (g.e = true → ¬ (s.rdGuard g.p.toNat l = g.s))))

/-- R214, R212, R215, R130, R131, R208: Table 8.3 for two or three register sources, in every active lane under the
write mask; every other register, lane, warp and all else is as before. -/
def Obligations.VectorInteger : Prop :=
  ∀ (s : State) (o : VRR),
    let a := fun l => s.rdV o.a l
    let b := fun l => s.rdV1 o.b l
    let c := fun l => s.rdV2 (match o.x with
      | some x => x.c
      | none => o.d) l
    let n := fun l => (b l).toNat % 256
    let pos := fun l => (b l).toNat % 32
    let len := fun l => Nat.min ((b l).toNat / 256 % 64) (32 - pos l)
    let field := fun l => (a l).toNat / 2 ^ pos l % 2 ^ len l
    let mask := fun l => BitVec.ofNat 32 ((2 ^ len l - 1) * 2 ^ pos l)
    ∀ p ∈ ([(.iadd o, fun l => a l + b l), (.isub o, fun l => a l - b l),
        (.imul o, fun l => BitVec.ofNat 32 ((a l).toNat * (b l).toNat)),
        (.imulhI o, fun l => BitVec.ofInt 32 ((a l).toInt * (b l).toInt / 2 ^ 32)),
        (.imulhN o, fun l => BitVec.ofNat 32 ((a l).toNat * (b l).toNat / 2 ^ 32)),
        (.imad o, fun l => BitVec.ofNat 32 ((a l).toNat * (b l).toNat + (c l).toNat)),
        (.iminI o, fun l => if (a l).toInt ≤ (b l).toInt then a l else b l),
        (.imaxI o, fun l => if (a l).toInt ≤ (b l).toInt then b l else a l),
        (.iminN o, fun l => if (a l).toNat ≤ (b l).toNat then a l else b l),
        (.imaxN o, fun l => if (a l).toNat ≤ (b l).toNat then b l else a l),
        (.shl o, fun l => if 32 ≤ n l then 0 else BitVec.ofNat 32 ((a l).toNat * 2 ^ n l)),
        (.shr o, fun l => if 32 ≤ n l then 0 else BitVec.ofNat 32 ((a l).toNat / 2 ^ n l)),
        (.sar o, fun l => if 32 ≤ n l then (if (a l).getLsbD 31 then 0xFFFFFFFF else 0)
          else BitVec.ofInt 32 ((a l).toInt / 2 ^ n l)),
        (.vand o, fun l => a l &&& b l), (.vor o, fun l => a l ||| b l), (.vxor o, fun l => a l ^^^ b l),
        (.bfe o, fun l => if len l = 0 then 0
          else if (b l).getLsbD 16 = true ∧ (field l).testBit (len l - 1) = true then
            BitVec.ofInt 32 ((field l : Int) - 2 ^ len l)
          else BitVec.ofNat 32 (field l)),
        (.bfi o, fun l => (c l &&& (0xFFFFFFFF - mask l)) ||| (BitVec.ofNat 32 ((a l).toNat * 2 ^ pos l) &&& mask l))] :
        List (Instr × (Nat → Word))),
      ∃ t, exec p.1 s = .next t ∧ WritesRegs s t (laneWrites s o.x (s.active o.g) (.v o.d.toNat) p.2)

/-- R214, R212, R219: Table 8.3 for one source or an immediate, and MOV, LI and W2V. BREV's result is said bit by
bit. -/
def Obligations.VectorOneSource : Prop :=
  ∀ (s : State) (o : VR1) (i : VRI) (c : VRL) (w : VRW), i.imm.toNat < 32 →
    let a := fun l => s.rdV o.a l
    let b := fun l => s.rdV i.a l
    (∀ p ∈ ([(.mov o, a), (.iabs o, fun l => BitVec.ofNat 32 (a l).toInt.natAbs),
          (.ineg o, fun l => BitVec.ofInt 32 (-(a l).toInt)), (.vnot o, fun l => 0xFFFFFFFF - a l),
          (.popc o, fun l => BitVec.ofNat 32 ((List.range 32).countP fun j => (a l).getLsbD j)),
          (.clz o, fun l => BitVec.ofNat 32 (if a l = 0 then 32 else 31 - (a l).toNat.log2))] :
          List (Instr × (Nat → Word))),
        ∃ t, exec p.1 s = .next t ∧ WritesRegs s t (laneWrites s o.x (s.active o.g) (.v o.d.toNat) p.2)) ∧
    (∃ t f, exec (.brev o) s = .next t ∧ WritesRegs s t (laneWrites s o.x (s.active o.g) (.v o.d.toNat) f) ∧
      ∀ l j, j < 32 → (f l).getLsbD j = (a l).getLsbD (31 - j)) ∧
    (∀ p ∈ ([(.iaddi i, fun l => BitVec.ofInt 32 ((b l).toNat + i.imm.toInt)),
          (.shli i, fun l => BitVec.ofNat 32 ((b l).toNat * 2 ^ i.imm.toNat)),
          (.shri i, fun l => BitVec.ofNat 32 ((b l).toNat / 2 ^ i.imm.toNat)),
          (.sari i, fun l => BitVec.ofInt 32 ((b l).toInt / 2 ^ i.imm.toNat))] : List (Instr × (Nat → Word))),
        ∃ t, exec p.1 s = .next t ∧ WritesRegs s t (laneWrites s i.x (s.active i.g) (.v i.d.toNat) p.2)) ∧
    (∃ t, exec (.li c) s = .next t ∧ WritesRegs s t (laneWrites s c.x (s.active c.g) (.v c.d.toNat) fun _ => c.lit)) ∧
    ∃ t, exec (.w2v w) s = .next t ∧ WritesRegs s t (laneWrites s w.x (s.active w.g) (.v w.d.toNat) fun _ => s.rdW w.w)

/-- R217, R224, R131: ISETP and FSETP write pd in each active lane: the comparison, or its AND or OR with the predicate as it
was before the instruction; combine code 3 is no legal instruction. With a NaN every condition of FSETP but ne and nan
is false, and those two are true. -/
def Obligations.VectorCompare : Prop :=
  ∀ (s : State) (o : VCP),
    let x := fun l => (s.rdV o.a l).toInt
    let y := fun l => (s.rdV1 o.b l).toInt
    let u := fun l => (s.rdV o.a l).toNat
    let v := fun l => (s.rdV1 o.b l).toNat
    let fx := fun l => f32Val (s.rdV o.a l)
    let fy := fun l => f32Val (s.rdV1 o.b l)
    let nan := fun l => (fx l).isNan || (fy l).isNan
    let new := fun l (c : Bool) => if o.m = 0 then c else if o.m = 1 then s.rdOld o.t.toNat l && c
      else s.rdOld o.t.toNat l || c
    ∀ p ∈ ([(.isetpEq o, fun l => decide (x l = y l)), (.isetpNe o, fun l => decide (x l ≠ y l)),
        (.isetpLt o, fun l => decide (x l < y l)), (.isetpLe o, fun l => decide (x l ≤ y l)),
        (.isetpGt o, fun l => decide (y l < x l)), (.isetpGe o, fun l => decide (y l ≤ x l)),
        (.isetpLtN o, fun l => decide (u l < v l)), (.isetpLeN o, fun l => decide (u l ≤ v l)),
        (.isetpGtN o, fun l => decide (v l < u l)), (.isetpGeN o, fun l => decide (v l ≤ u l)),
        (.fsetpEq o, fun l => !nan l && (fx l).eqv (fy l)), (.fsetpNe o, fun l => nan l || !(fx l).eqv (fy l)),
        (.fsetpLt o, fun l => !nan l && (fx l).lt (fy l)),
        (.fsetpLe o, fun l => !nan l && ((fx l).lt (fy l) || (fx l).eqv (fy l))),
        (.fsetpGt o, fun l => !nan l && !((fx l).lt (fy l) || (fx l).eqv (fy l))),
        (.fsetpGe o, fun l => !nan l && !(fx l).lt (fy l)), (.fsetpNan o, nan)] : List (Instr × (Nat → Bool))),
      (o.m = 3 → WellFormed p.1 = false) ∧ (o.m.toNat ≤ 2 → ∃ t, exec p.1 s = .next t ∧
        WritesRegs s t (laneWrites s o.x (s.active o.g) (.p o.t.toNat) fun l => if new l (p.2 l) then 1 else 0))

/-- R218, R219, R220: SEL, which every lane of the run executes; PMOV and VMOVP, between a word and sixteen
predicates; SREG, by every number of Table 5.13: those that a lane or the warp decides, those of its block and grid (R14), and
%ltime, the same in every lane. -/
def Obligations.VectorSelectMoves : Prop :=
  ∀ (s : State) (q : VSel) (o : VD) (v : VA) (r : VSr),
    (∃ t, exec (.sel q) s = .next t ∧
      WritesRegs s t (laneWrites s q.x (s.focus.threads ||| s.focus.shadows) (.v q.d.toNat) fun l =>
        if (s.rdP q.q.toNat l = true) ≠ (q.s = true) then s.rdV q.a l else s.rdV1 q.b l)) ∧
    (∃ t f, exec (.pmov o) s = .next t ∧ WritesRegs s t (laneWrites s o.x (s.active o.g) (.v o.d.toNat) f) ∧
      ∀ l j, j < 32 → (f l).getLsbD j = (decide (j < 16) && s.rdP j l)) ∧
    (∃ t, exec (.vmovp v) s = .next t ∧ WritesRegs s t fun n l => match n with
      | .p i => if i < 16 then laneWrites s v.x (s.active v.g) (.p i)
          (fun l => if (s.rdV v.a l).getLsbD i then 1 else 0) n l else none
      | _ => none) ∧
    ∃ t f, exec (.sreg r) s = .next t ∧ WritesRegs s t (laneWrites s r.x (s.active r.g) (.v r.d.toNat) f) ∧
      (r.code = 0 → ∀ l, f l = BitVec.ofNat 32 l) ∧ (r.code = 1 → ∀ l, f l = BitVec.ofNat 32 (l / 4)) ∧
      (r.code = 2 → ∀ l, f l = BitVec.ofNat 32 s.self.index) ∧ (r.code = 0x0D → ∀ l, f l = BitVec.ofNat 32 s.self.core) ∧
      (r.code = 0x10 → ∀ l, f l = BitVec.ofNat 32 s.self.cid) ∧ (r.code = 0x11 → ∀ l, f l = BitVec.ofNat 32 s.self.grid) ∧
      (r.code = 0x12 → ∀ l, f l = s.time.extractLsb' 0 32) ∧
      (r.code = 3 → ∀ l, f l = match s.self.role with
        | .copy => 0
        | .matrix => 1
        | .vector => 2
        | .control => roleNum .control) ∧
      (r.code = 0x0E → ∀ l, f l = BitVec.ofNat 32 (s.self.core / 64)) ∧
      (r.code = 0x0F → ∀ l, f l = BitVec.ofNat 32 (if s.det s.self.cid then 128 else nCores)) ∧
      (∀ b, s.blocks.get? s.self.blk = some b → (r.code = 0x0A → ∀ l, f l = BitVec.ofNat 32 b.rank) ∧
        (r.code = 0x0C → ∀ l, f l = BitVec.ofNat 32 b.lcore)) ∧
      ∀ g, s.gridOf? s.self = some g →
        (r.code = 7 → ∀ l, f l = BitVec.ofNat 32 g.gr.nx) ∧ (r.code = 8 → ∀ l, f l = BitVec.ofNat 32 g.gr.ny) ∧
        (r.code = 9 → ∀ l, f l = BitVec.ofNat 32 g.gr.nz) ∧
        (r.code = 0x0B → ∀ l, f l = BitVec.ofNat 32 g.kernel.gangb) ∧
        ∀ b x y z, s.blocks.get? s.self.blk = some b → x < g.gr.nx → y < g.gr.ny →
          b.lin = (z * g.gr.ny + y) * g.gr.nx + x →
          (r.code = 4 → ∀ l, f l = BitVec.ofNat 32 x) ∧ (r.code = 5 → ∀ l, f l = BitVec.ofNat 32 y) ∧
          (r.code = 6 → ∀ l, f l = BitVec.ofNat 32 z)

/-! ## Class F -/

/-- R221, R226, R27, R28, R30, R31: f32 and packed 16-bit arithmetic. Each result is the exact one rounded once under the
effective mode, the prefix's RND where that is not zero, else MODE.FRM. -/
def Obligations.VectorFloat : Prop :=
  ∀ (s : State) (o : VRR),
    let rm := rmOf s.self.mode o.x
    let a := fun l => s.rdV o.a l
    let b := fun l => s.rdV1 o.b l
    let c := fun l => s.rdV2 (match o.x with
      | some x => x.c
      | none => o.d) l
    let half := fun (m : Fmt) (f : Val → Val → Val → Val) l =>
      let e := fun i (x : Word) => m.value (x.toNat / 2 ^ (16 * i) % 65536)
      BitVec.ofNat 32 (m.round rm (f (e 0 (a l)) (e 0 (b l)) (e 0 (c l))) +
        65536 * m.round rm (f (e 1 (a l)) (e 1 (b l)) (e 1 (c l))))
    ∀ p ∈ ([(.fadd o, fun l => f32Word rm (Val.add rm (f32Val (a l)) (f32Val (b l)))),
        (.fsub o, fun l => f32Word rm (Val.add rm (f32Val (a l)) (f32Val (b l)).neg)),
        (.fmul o, fun l => f32Word rm (Val.mul (f32Val (a l)) (f32Val (b l)))),
        (.ffma o, fun l => f32Word rm (Val.add rm (Val.mul (f32Val (a l)) (f32Val (b l))) (f32Val (c l)))),
        (.hadd2 o, half .f16 fun x y _ => Val.add rm x y), (.hmul2 o, half .f16 fun x y _ => Val.mul x y),
        (.hfma2 o, half .f16 fun x y z => Val.add rm (Val.mul x y) z),
        (.badd2 o, half .bf16 fun x y _ => Val.add rm x y), (.bmul2 o, half .bf16 fun x y _ => Val.mul x y),
        (.bfma2 o, half .bf16 fun x y z => Val.add rm (Val.mul x y) z)] : List (Instr × (Nat → Word))),
      ∃ t, exec p.1 s = .next t ∧ WritesRegs s t (laneWrites s o.x (s.active o.g) (.v o.d.toNat) p.2)

/-- R222, R223, R225: FMIN and FMAX give the lesser or greater operand unchanged, −0 below +0, the other operand if one is a
NaN, 0x7FC0_0000 if both are; no rounding enters, and no prefix's. FABS and FNEG touch bit 31 alone, NaNs included.
FCLASS sets the one bit of Table 8.7, whatever the flush bits. `key` orders the words that are no NaNs by value. -/
def Obligations.FloatMinMaxClass : Prop :=
  ∀ (s : State) (o : VRR) (u : VR1),
    let ex := fun (x : Word) => x.toNat / 2 ^ 23 % 256
    let fr := fun (x : Word) => x.toNat % 2 ^ 23
    let nan := fun (x : Word) => ex x = 255 ∧ fr x ≠ 0
    let key := fun (x : Word) => if x.toNat < 2 ^ 31 then (x.toNat : Int) else 2 ^ 31 - (x.toNat : Int) - 1
    let pick := fun (max : Bool) (a b : Word) =>
      if nan a ∧ nan b then 0x7FC00000 else if nan a then b else if nan b then a
      else if max then (if key a ≤ key b then b else a) else if key a ≤ key b then a else b
    let cls := fun (x : Word) =>
      let side := fun (n p : Nat) => if x.toNat < 2 ^ 31 then p else n
      if nan x then 8 else if ex x = 255 then side 0 7 else if ex x ≠ 0 then side 1 6 else if fr x ≠ 0 then side 2 5
      else side 3 4
    (∀ p ∈ ([(.fmin o, fun l => pick false (s.rdV o.a l) (s.rdV1 o.b l)),
        (.fmax o, fun l => pick true (s.rdV o.a l) (s.rdV1 o.b l))] : List (Instr × (Nat → Word))),
      ∃ t, exec p.1 s = .next t ∧ WritesRegs s t (laneWrites s o.x (s.active o.g) (.v o.d.toNat) p.2)) ∧
    ∀ p ∈ ([(.fabs u, fun l => BitVec.ofNat 32 ((s.rdV u.a l).toNat % 2 ^ 31)),
        (.fneg u, fun l => s.rdV u.a l ^^^ 0x80000000), (.fclass u, fun l => BitVec.ofNat 32 (2 ^ cls (s.rdV u.a l)))] :
        List (Instr × (Nat → Word))),
      ∃ t, exec p.1 s = .next t ∧ WritesRegs s t (laneWrites s u.x (s.active u.g) (.v u.d.toNat) p.2)

/-- R26 to R28, R30, R31, R36: what rounding an exact value into a format of Table 2.2 gives, whatever the rule that rounds. A
value that a code stands for keeps that code. One between two neighbours goes to the one that Table 2.4 names, halfway
values under RNE to the even one. Beyond the largest finite value the format without infinity delivers that value, the
others what R28 says. The same for rounding to an integer. MODE and a prefix choose the mode as Tables 2.4 and 2.5 say. -/
def Obligations.Rounding : Prop :=
  (∀ m ∈ [Fmt.f32, Fmt.f16, Fmt.bf16, Fmt.e4m3, Fmt.e5m2, Fmt.e2m1], ∀ (rm : Rm),
    (∀ code, code < 2 ^ m.bits → (m.value code).isNan = false → m.round rm (m.value code) = code) ∧
    m.round rm .nan = m.nan ∧
    ∀ (neg : Bool),
      let code := fun (mag : Nat) => mag + if neg then 2 ^ (m.bits - 1) else 0
      m.round rm (.inf neg) = code (m.inf.getD m.top) ∧
      (∀ d, 0 < d → m.round rm (.fin neg 0 d) = code 0) ∧
      ∀ n d, 0 < n → 0 < d →
        let x := Val.fin false n d
        let r := m.round rm (.fin neg n d)
        (∀ c, c < m.top → (m.mag c).lt x = true → x.lt (m.mag (c + 1)) = true →
          let twice := Val.add .rne x x
          let mid := Val.add .rne (m.mag c) (m.mag (c + 1))
          r = code (match rm with
            | .rz => c
            | .rd => if neg then c + 1 else c
            | .ru => if neg then c else c + 1
            | .rne => if twice.lt mid then c else if mid.lt twice then c + 1 else if c % 2 = 0 then c else c + 1)) ∧
        ((m.mag m.top).lt x = true → ¬ m.Beyond rm neg x → r = code m.top) ∧
        (m.Beyond rm neg x → r = code (match m.inf, rm with
          | none, _ => m.top
          | some i, .rne => i
          | some _, .rz => m.top
          | some i, .rd => if neg then i else m.top
          | some i, .ru => if neg then m.top else i)) ∧
        (m.overflows rm (.fin neg n d) = true ↔ m.Beyond rm neg x)) ∧
  (∀ (rm : Rm) (neg : Bool) (n d : Nat), 0 < d →
    let k := roundInt rm neg n d
    (n % d = 0 → k * d = n) ∧
    (n % d ≠ 0 → (rm = .rz → k * d < n ∧ n < (k + 1) * d) ∧
      (rm = .rd → if neg then n < k * d ∧ k * d < n + d else k * d < n ∧ n < (k + 1) * d) ∧
      (rm = .ru → if neg then k * d < n ∧ n < (k + 1) * d else n < k * d ∧ k * d < n + d) ∧
      (rm = .rne → 2 * (k * d) ≤ 2 * n + d ∧ 2 * n ≤ 2 * (k * d) + d ∧
        ((2 * (k * d) = 2 * n + d ∨ 2 * n = 2 * (k * d) + d) → k % 2 = 0)))) ∧
  ∀ (mode : Word) (p : VPfx),
    (frmOf mode = match mode.toNat % 8 with
      | 1 => .rz
      | 2 => .rd
      | 3 => .ru
      | _ => .rne) ∧ rmOf mode none = frmOf mode ∧
    (p.rnd.toNat ≤ 4 → rmOf mode (some p) = match p.rnd.toNat with
      | 0 => frmOf mode
      | 1 => .rne
      | 2 => .rz
      | 3 => .rd
      | _ => .ru) ∧
    qrmOf mode = match mode.toNat / 16 % 8 with
      | 1 => .zero
      | 2 => .down
      | 3 => .up
      | 4 => .mediant
      | _ => .nearest

/-- R113, R227, R228, R293 to R307: FDIV, the special functions and the Q instructions are long-latency. With an active lane
each enters among the operations in flight with its sources as they are, the MODE it samples, its destination in the
lanes the mask lets through, and its clause's flags; no register changes. With none it adds nothing and changes nothing
(log entry 18). R295: under TRAPEN bit 9 a QDIV, QFROM or QREC with a zero denominator in a thread takes trap 0x09 at
the lowest such lane instead. -/
def Obligations.LongLatencyIssue : Prop :=
  ∀ (s : State) (o : VRR) (u : VR1) (c : VCP),
    let enters := fun (i : Instr) (g : LGuard) (x : Option VPfx) (srcs : List (RegName × Nat)) (d : RegName) =>
      ∃ t, exec i s = .next t ∧ if s.active g = 0 then t = s else
        ∃ (q : Op) (m : Lanes), q.ins = i ∧ q.mode = s.self.mode ∧ q.lanes = s.active g ∧
          (q.caps.map (·.vals)).take srcs.length = srcs.map (fun r => (List.range 32).map (s.rdAt r.2 r.1)) ∧
          q.dests = [⟨d, m⟩] ∧
          (∀ l, l < 32 → (m.getLsbD l = true ↔ laneWrites s x (s.active g) d (fun _ => 0) d l = some 0)) ∧
          q.setA = s.focus.setA ∧ q.setB = s.focus.setB ∧ t.mem = s.mem ∧
          t.self = { s.self.owe s.nextId s.focus.setB q.dests with ops := s.self.ops ++ [(s.nextId, q)] }
    let two := fun (i : Instr) => enters i o.g o.x [(.v o.a.toNat, 0), (.v o.b.toNat, 1)] (.v o.d.toNat)
    let one := fun (i : Instr) => enters i u.g u.x [(.v u.a.toNat, 0)] (.v u.d.toNat)
    (∀ i ∈ [Instr.fdiv o, .qadd o, .qsub o, .qmul o, .qmed o, .qrnd o], two i) ∧
    (∀ i ∈ [Instr.rcp u, .rsq u, .sqrt u, .ex2 u, .lg2 u, .sin u, .cos u, .tanh u, .qcvt u, .qnum u, .qden u, .qclass u],
      one i) ∧
    (∀ i ∈ [Instr.qsetpEq c, .qsetpNe c, .qsetpLt c, .qsetpLe c, .qsetpGt c, .qsetpGe c],
      enters i c.g c.x [(.v c.a.toNat, 0), (.v c.b.toNat, 1), (.p c.t.toNat, 5)] (.p c.t.toNat)) ∧
    ∀ y ∈ ([(.qdiv o, o.g, two (.qdiv o), fun l => (qVal (s.rdV1 o.b l)).isZero && !(qVal (s.rdV o.a l)).isNan),
        (.qfrom o, o.g, two (.qfrom o), fun l => s.rdV1 o.b l == 0),
        (.qrec u, u.g, one (.qrec u), fun l => (qVal (s.rdV u.a l)).isZero)] :
        List (Instr × LGuard × Prop × (Nat → Bool))),
      let event := fun l => (s.active y.2.1).getLsbD l && !s.self.helper.getLsbD l && y.2.2.2 l
      (s.self.trapen.getLsbD 9 = false ∨ (∀ l, l < 32 → event l = false) → y.2.2.1) ∧
      ∀ l, s.self.trapen.getLsbD 9 = true → l < 32 → event l = true → (∀ j, j < l → event j = false) →
        exec y.1 s = .next (s.trap s.focus.wid
          ⟨9, 0, s.focus.hdr.zeroExtend 64, none, some s.focus.idx, some l, false, s.focus.threads, .rpc⟩)

/-- R35, R36, R38 to R42, R230 to R232: CVT, CVTS and CVTX. Each active lane receives its conversion by Table 2.6 (`Converts`)
or the scaled conversion of R38 or R39 (`NarrowsTo`, `WidensTo`), the lanes of a quad of CVTS one word with a byte from
each active lane, and the events of the threads are counted (`CountsConversion`). A scale word with a code outside its
list or a bit set above bit 13 takes the illegal-instruction trap, and no lane is written (that it does so with no active
lane too is the model's reading, log entry 16). -/
def Obligations.Conversions : Prop :=
  ∀ (s : State) (o : VCV) (w : VAW), o.code.toNat < 0x14 →
    let mode := s.self.mode
    let thr := fun (g : LGuard) => s.active g &&& ~~~s.self.helper
    let wb := s.rdW w.w
    let trap := s.trap s.focus.wid
      ⟨2, 0, s.focus.hdr.zeroExtend 64, none, some s.focus.idx, none, false, s.focus.threads, .rpc⟩
    let act := s.active w.g
    let scale := wb.extractLsb' 0 8
    let kind := wb.toNat / 256
    (∃ f : Nat → Conv, (∀ l, l < 32 → Converts true mode (rmOf mode o.x) o.code (s.rdV o.a l) (f l)) ∧
      CountsConversion s (.cvt o) (laneWrites s o.x (s.active o.g) (.v o.d.toNat) fun l => (f l).res) (thr o.g) f) ∧
    (kind ∈ [0x08, 0x0A, 0x0C, 0x11, 0x12] →
      ∃ (f : Nat → Conv) (g : Nat → Word), (∀ l, l < 32 → NarrowsTo mode kind scale (s.rdV w.a l) (f l)) ∧
        CountsConversion s (.cvts w) (laneWrites s w.x act (.v w.d.toNat) g) (thr w.g) f ∧
        ∀ l j, l < 32 → j < 4 → (g l).extractLsb' (8 * j) 8 =
          if act.getLsbD (l / 4 * 4 + j) then (f (l / 4 * 4 + j)).res.extractLsb' 0 8 else 0) ∧
    (kind ∉ [0x08, 0x0A, 0x0C, 0x11, 0x12] → exec (.cvts w) s = .next trap) ∧
    ∀ p ∈ ([(.cvtxB0 w, 0), (.cvtxB1 w, 1), (.cvtxB2 w, 2), (.cvtxB3 w, 3)] : List (Instr × Nat)),
      (kind ∉ [0x09, 0x0B, 0x0D, 0x13] → exec p.1 s = .next trap) ∧
      (kind ∈ [0x09, 0x0B, 0x0D, 0x13] →
        ∃ f : Nat → Conv, (∀ l, l < 32 → WidensTo mode kind scale p.2 (s.rdV w.a l) (f l)) ∧
          CountsConversion s p.1 (laneWrites s w.x act (.v w.d.toNat) fun l => (f l).res) (thr w.g) f)

/-- R300 to R303, R292, R49: QNUM and QDEN of a finite value are a numerator and a denominator that QFROM puts together
to that value again in every rounding mode, in its canonical word; QREC of a finite non-zero value is exact.
R293, R294, R299: a NaR gives NaR, a sum of opposite infinities and 0 × ∞ and 0 ÷ 0 give NaR, and a sum beyond
33,554,431 gives ±∞. R291, R292: the neighbours between which a value up to the largest integer is rounded fit the budget,
enclose it, and are consecutive (hi.1 × lo.2 − lo.1 × hi.2 = 1); each mode takes one of the two. -/
def Obligations.RationalResults : Prop :=
  (∀ (mode a b : Word),
    (∀ neg n d, qVal a = .fin neg n d →
      qFrom mode (qNum a) (qDen a) = qEncode (qVal a).reduce ∧
      qVal (qFrom mode (qNum a) (qDen a)) = (qVal a).reduce ∧
      (n ≠ 0 → qVal (qRec mode a) = .fin neg (d / Nat.gcd n d) (n / Nat.gcd n d))) ∧
    (qVal a = .nan → qAdd mode a b = 0 ∧ qAdd mode b a = 0 ∧ qMul mode a b = 0 ∧ qDiv mode a b = 0 ∧ qDiv mode b a = 0) ∧
    (∀ s, qVal a = .inf s → qVal b = .inf (!s) → qAdd mode a b = 0) ∧
    (∀ s, qVal a = .inf s → (qVal b).isZero = true → qMul mode a b = 0 ∧ qMul mode b a = 0) ∧
    ((qVal a).isZero = true → (qVal b).isZero = true → qDiv mode a b = 0) ∧
    (∀ n d m e, qVal a = .fin false n d → qVal b = .fin false m e → 33554431 * (d * e) < n * e + m * d →
      qAdd mode a b = 0x04000001)) ∧
  ∀ (md : Qrm) (B : Nat) (neg : Bool) (n d : Nat), 2 ≤ B → B ≤ 26 → 0 < n → 0 < d → Nat.gcd n d = 1 →
    (bitLen n + bitLen d ≤ B → qRound md B (.fin neg n d) = .fin neg n d) ∧
    ((2 ^ (B - 1) - 1) * d < n → qRound md B (.fin neg n d) = .inf neg) ∧
    (n ≤ (2 ^ (B - 1) - 1) * d → B < bitLen n + bitLen d →
      let lo := (bracket n d B).1
      let hi := (bracket n d B).2
      bitLen lo.1 + bitLen lo.2 ≤ B ∧ bitLen hi.1 + bitLen hi.2 ≤ B ∧ lo.1 * d < n * lo.2 ∧ n * hi.2 < hi.1 * d ∧
      hi.1 * lo.2 = lo.1 * hi.2 + 1 ∧
      let is := fun (r : Nat × Nat) => qRound md B (.fin neg n d) = if r.1 = 0 then .fin false 0 1 else .fin neg r.1 r.2
      (md = .zero → is lo) ∧ (md = .down → is (if neg then hi else lo)) ∧ (md = .up → is (if neg then lo else hi)) ∧
      (md = .nearest → (2 * n * (lo.2 * hi.2) < (lo.1 * hi.2 + hi.1 * lo.2) * d → is lo) ∧
        ((lo.1 * hi.2 + hi.1 * lo.2) * d < 2 * n * (lo.2 * hi.2) → is hi)) ∧
      (md = .mediant → (n * (lo.2 + hi.2) < (lo.1 + hi.1) * d → is lo) ∧ ((lo.1 + hi.1) * d < n * (lo.2 + hi.2) → is hi)))

/-! ## Class X -/

/-- R248, R249, R251: XCH within a tile of PART.SIZE lanes, QBC, QDIFF, PLOP: every source is read in every lane before any
destination is written, whatever the source lane's state. PLOP with operation 3 is no legal instruction. -/
def Obligations.LaneExchange : Prop :=
  ∀ (s : State) (x : XRI) (q : XQd) (p : XPlop),
    let m := if q.axis then 2 else 1
    (∃ t, exec (.xch x) s = .next t ∧ WritesRegs s t (laneWrites s none (s.active x.g) (.v x.d.toNat) fun l =>
      s.rdV x.a (l ^^^ (x.imm.toNat &&& (s.self.part.toNat % 64 - 1))))) ∧
    (∃ t, exec (.qbc x) s = .next t ∧ WritesRegs s t (laneWrites s none (s.active x.g) (.v x.d.toNat) fun l =>
      s.rdV x.a (l / 4 * 4 + x.imm.toNat % 4))) ∧
    (∃ t, exec (.qdiff q) s = .next t ∧ WritesRegs s t (laneWrites s none (s.active q.g) (.v q.d.toNat) fun l =>
      let hi := s.rdV q.a (l ||| m)
      let lo := s.rdV q.a ((l ||| m) - m)
      if q.ty = 2 then f32Word (frmOf s.self.mode) (Val.add (frmOf s.self.mode) (f32Val hi) (f32Val lo).neg) else hi - lo)) ∧
    (p.op = 3 → WellFormed (.plop p) = false) ∧
    (p.op.toNat ≤ 2 → ∃ t, exec (.plop p) s = .next t ∧
      WritesRegs s t (laneWrites s none (s.active p.g) (.p p.t.toNat) fun l =>
        let u := s.rdP p.pa.toNat l != p.ia
        let v := s.rdP1 p.pb.toNat l != p.ib
        if (match p.op.toNat with
          | 0 => u && v
          | 1 => u || v
          | _ => u != v) then 1 else 0))

/-- R249, R250, R247: the quad and tile reductions over their contributing lanes in ascending order, SCANT, VOTE, BALLOT
and MATCH. `cs l` are the contributors of lane l's tile: active lanes that are no helpers. -/
def Obligations.TileReductions : Prop :=
  ∀ (s : State) (o : XTy) (k : XScan) (v : XVote) (b : XBal) (r : XR1), o.ty.toNat ≤ 2 → k.ty.toNat ≤ 2 → v.m.toNat ≤ 2 →
    let size := s.self.part.toNat % 64
    let rm := frmOf s.self.mode
    let quad := fun l => (List.range 32).filter fun c => (s.active o.g).getLsbD c && (c / 4 == l / 4)
    let cs := fun (g : LGuard) l => (List.range 32).filter fun c =>
      (s.active g).getLsbD c && !s.self.helper.getLsbD c && (c / size * size == l / size * size)
    let new := fun l (c : Bool) => if v.m = 0 then c else if v.m = 1 then s.rdOld v.t.toNat l && c else s.rdOld v.t.toNat l || c
    (∀ p ∈ ([(.qsum o, fun l => LaneOp.sum.over o.ty rm ((quad l).map (s.rdV o.a))),
        (.qmin o, fun l => LaneOp.min.over o.ty rm ((quad l).map (s.rdV o.a))),
        (.qmax o, fun l => LaneOp.max.over o.ty rm ((quad l).map (s.rdV o.a))),
        (.redtAdd o, fun l => LaneOp.sum.over o.ty rm ((cs o.g l).map (s.rdV o.a))),
        (.redtMin o, fun l => LaneOp.min.over o.ty rm ((cs o.g l).map (s.rdV o.a))),
        (.redtMax o, fun l => LaneOp.max.over o.ty rm ((cs o.g l).map (s.rdV o.a)))] : List (Instr × (Nat → Word))),
      ∃ t, exec p.1 s = .next t ∧ WritesRegs s t (laneWrites s none (s.active o.g) (.v o.d.toNat) p.2)) ∧
    (∃ t, exec (.scantAdd k) s = .next t ∧ WritesRegs s t (laneWrites s none (s.active k.g) (.v k.d.toNat) fun l =>
      LaneOp.sum.over k.ty rm (((cs k.g l).filter fun c => if k.excl then decide (c < l) else decide (c ≤ l)).map (s.rdV k.a)))) ∧
    (∀ p ∈ ([(.voteAny v, fun l => (cs v.g l).any (s.rdP v.src.toNat)), (.voteAll v, fun l => (cs v.g l).all (s.rdP v.src.toNat))] :
        List (Instr × (Nat → Bool))),
      ∃ t, exec p.1 s = .next t ∧
        WritesRegs s t (laneWrites s none (s.active v.g) (.p v.t.toNat) fun l => if new l (p.2 l) then 1 else 0)) ∧
    (∃ t f, exec (.ballot b) s = .next t ∧ WritesRegs s t (laneWrites s none (s.active b.g) (.v b.d.toNat) f) ∧
      ∀ l c, c < 32 → (f l).getLsbD c = ((cs b.g l).contains (l / size * size + c) && s.rdP b.src.toNat (l / size * size + c))) ∧
    ∃ t f, exec (.matchLanes r) s = .next t ∧ WritesRegs s t (laneWrites s none (s.active r.g) (.v r.d.toNat) f) ∧
      ∀ l c, c < 32 → (f l).getLsbD c =
        ((cs r.g l).contains (l / size * size + c) && (s.rdV r.a (l / size * size + c) == s.rdV r.a l))

/-- R247: no contributor gives the identity of Table 9.4; integer sums wrap; an integer minimum or maximum is one of the
values and bounds them all; a single f32 contributor gives its own value, a NaN the canonical one. Each further f32
contributor, in ascending lane order, is added to the sum so far and the sum is rounded again; a minimum or maximum
takes, of the result so far and that contributor, what FMIN or FMAX takes (R222). -/
def Obligations.LaneOpResults : Prop :=
  ∀ (rm : Rm) (x : Word) (xs : List Word),
    (LaneOp.sum.over 0 rm [] = 0 ∧ LaneOp.min.over 0 rm [] = 0x7FFFFFFF ∧ LaneOp.max.over 0 rm [] = 0x80000000 ∧
      LaneOp.min.over 1 rm [] = 0xFFFFFFFF ∧ LaneOp.max.over 1 rm [] = 0 ∧ LaneOp.sum.over 2 rm [] = 0 ∧
      LaneOp.min.over 2 rm [] = 0x7F800000 ∧ LaneOp.max.over 2 rm [] = 0xFF800000) ∧
    (∀ ty : BitVec 2, ty.toNat < 2 → LaneOp.sum.over ty rm (x :: xs) = (x :: xs).sum) ∧
    (LaneOp.min.over 0 rm (x :: xs) ∈ x :: xs ∧ ∀ y ∈ x :: xs, (LaneOp.min.over 0 rm (x :: xs)).toInt ≤ y.toInt) ∧
    (LaneOp.max.over 0 rm (x :: xs) ∈ x :: xs ∧ ∀ y ∈ x :: xs, y.toInt ≤ (LaneOp.max.over 0 rm (x :: xs)).toInt) ∧
    (LaneOp.min.over 1 rm (x :: xs) ∈ x :: xs ∧ ∀ y ∈ x :: xs, (LaneOp.min.over 1 rm (x :: xs)).toNat ≤ y.toNat) ∧
    (LaneOp.max.over 1 rm (x :: xs) ∈ x :: xs ∧ ∀ y ∈ x :: xs, y.toNat ≤ (LaneOp.max.over 1 rm (x :: xs)).toNat) ∧
    (∀ op : LaneOp, op.over 2 rm [x] = if (f32Val x).isNan then 0x7FC00000 else x) ∧
    let nan := fun (x : Word) => x.toNat / 2 ^ 23 % 256 = 255 ∧ x.toNat % 2 ^ 23 ≠ 0
    let key := fun (x : Word) => if x.toNat < 2 ^ 31 then (x.toNat : Int) else 2 ^ 31 - (x.toNat : Int) - 1
    let pick := fun (max : Bool) (a b : Word) =>
      if nan a ∧ nan b then 0x7FC00000 else if nan a then b else if nan b then a
      else if max then (if key a ≤ key b then b else a) else if key a ≤ key b then a else b
    ∀ y : Word, LaneOp.sum.over 2 rm (x :: xs ++ [y]) =
        f32Word rm (Val.add rm (f32Val (LaneOp.sum.over 2 rm (x :: xs))) (f32Val y)) ∧
      LaneOp.min.over 2 rm (x :: xs ++ [y]) = pick false (LaneOp.min.over 2 rm (x :: xs)) y ∧
      LaneOp.max.over 2 rm (x :: xs ++ [y]) = pick true (LaneOp.max.over 2 rm (x :: xs)) y

/-- R252 to R254, R237, R124: the target of each active thread is recorded for the end of the clause; the other threads
have none, so they go to the next clause. CALL also writes its return address, to v63 in each active lane, or on a
control core to w63 (R354). No PC changes yet, and nothing else does. -/
def Obligations.Branches : Prop :=
  ∀ (s : State) (o : XBr) (r : XA),
    let thr := fun (g : LGuard) l => (s.active g).getLsbD l && !s.self.helper.getLsbD l
    let target := s.focus.hdr + BitVec.ofInt 48 (4 * o.off.toInt)
    let ret := (s.focus.hdr + BitVec.ofNat 48 (4 * (s.focus.words.length + 1))).extractLsb' 0 32
    let jumps := fun (g : LGuard) (t : State) (f : Nat → Pc) =>
      t.focus = { s.focus with targets := t.focus.targets } ∧
      ∀ l, l < 32 → t.focus.targets.get? l = if thr g l then some (f l) else s.focus.targets.get? l
    (∃ t, exec (.bra o) s = .next t ∧ jumps o.g t (fun _ => target) ∧ { t with focus := s.focus } = s) ∧
    (∃ t, exec (.ret r) s = .next t ∧ { t with focus := s.focus } = s ∧
      jumps r.g t fun l => s.focus.hdr.extractLsb' 32 16 ++
        s.rd (if s.self.role = .control then .w r.a.toNat else .v r.a.toNat) l) ∧
    ∃ t, exec (.call o) s = .next t ∧ jumps o.g t (fun _ => target) ∧
      WritesRegs s { t with focus := s.focus } (if s.self.role = .control
        then (if s.active o.g = 0 then fun _ _ => none else scalarWrites s (.w 63) ret)
        else laneWrites s none (s.active o.g) (.v 63) fun _ => ret)

/-- R255: BRX records for each active thread the 64-bit target it reads. With a misaligned target in some thread it takes
trap 0x04 at the lowest such thread; with every target aligned and one not canonical, trap 0x05 with reason 0x5.
TRAPADDR is that thread's target, and no thread moves. -/
def Obligations.BranchTraps : Prop :=
  ∀ (s : State) (b : XA),
    let thr := fun l => (s.active b.g).getLsbD l && !s.self.helper.getLsbD l
    let trap := fun (code cause : BitVec 8) l => s.trap s.focus.wid
      ⟨code, cause, s.rdV64 b.a l, none, some s.focus.idx, some l, false, s.focus.threads, .rpc⟩
    (∀ l, l < 32 → thr l = true → (s.rdV64 b.a l).toNat % 4 ≠ 0 →
      (∀ j, j < l → thr j = true → (s.rdV64 b.a j).toNat % 4 = 0) → exec (.brx b) s = .next (trap 4 0 l)) ∧
    (∀ l, l < 32 → thr l = true → (∀ j, j < 32 → thr j = true → (s.rdV64 b.a j).toNat % 4 = 0) →
      2 ^ 48 ≤ (s.rdV64 b.a l).toNat → (∀ j, j < l → thr j = true → (s.rdV64 b.a j).toNat < 2 ^ 48) →
      exec (.brx b) s = .next (trap 5 5 l)) ∧
    ((∀ l, l < 32 → thr l = true → (s.rdV64 b.a l).toNat % 4 = 0 ∧ (s.rdV64 b.a l).toNat < 2 ^ 48) →
      ∃ t, exec (.brx b) s = .next t ∧ { t with focus := s.focus } = s ∧
        t.focus = { s.focus with targets := t.focus.targets } ∧ ∀ l, l < 32 →
          t.focus.targets.get? l = if thr l then some ((s.rdV64 b.a l).truncate 48) else s.focus.targets.get? l)

/-- R241, R256, R257, R258, R244: EXIT outside handler mode ends its threads: a lane of a quad that keeps a live lane
becomes or stays a helper, and one of a quad that keeps none is ended. YIELD marks its threads for parking at the end
of the clause. PART writes PART.SIZE, with no guard. ACTIVE writes the mask over the whole warp of the active lanes that
are no helpers. NOP does nothing. -/
def Obligations.ExitYieldPart : Prop :=
  ∀ (s : State) (o : XG) (p : XPart) (a : XD),
    let m := fun l => (s.active o.g).getLsbD l && !s.self.helper.getLsbD l
    let stays := fun l => s.self.live.getLsbD l && !m l
    let quad := fun l => stays (l / 4 * 4) || stays (l / 4 * 4 + 1) || stays (l / 4 * 4 + 2) || stays (l / 4 * 4 + 3)
    (s.self.inHandler = false → ∃ t, exec (.exit o) s = .next t ∧ OnlySelf s t ∧
      t.self = { s.self with live := t.self.live, helper := t.self.helper, pk := t.self.pk } ∧
      ∀ l, l < 32 → t.self.live.getLsbD l = stays l ∧ t.self.pk.getLsbD l = (s.self.pk.getLsbD l && !m l) ∧
        t.self.helper.getLsbD l = ((s.self.helper.getLsbD l || m l) && quad l)) ∧
    (∃ t, exec (.yield o) s = .next t ∧ t = { s with focus := { s.focus with parked := t.focus.parked } } ∧
      ∀ l, l < 32 → t.focus.parked.getLsbD l = (s.focus.parked.getLsbD l || m l)) ∧
    (∃ t, exec (.part p) s = .next t ∧ OnlySelf s t ∧ t.self = { s.self with part := p.size.zeroExtend 32 }) ∧
    (∃ t f, exec (.active a) s = .next t ∧ WritesRegs s t (laneWrites s none (s.active a.g) (.v a.d.toNat) f) ∧
      ∀ l j, j < 32 → (f l).getLsbD j = ((s.active a.g).getLsbD j && !s.self.helper.getLsbD j)) ∧
    (WellFormed (.part p) = true → p.size.toNat ∈ [2, 4, 8, 16, 32]) ∧
    exec (.nop o) s = .next s

/-! ## Results of long-latency operations -/

/-- R113, R211, R131: LONG_LATENCY_RESULT of an operation of class S or F that is in flight and has its sources: its one
destination register receives in its lanes what `Op.result` computes from the sources as they were read at issue, but
where it was overwritten meanwhile, which stays unspecified; the operation is gone; every other register and everything
but the warp's own flags and marks is as before. R228: a special function's result is that function of its source and of
the MODE it sampled (SpecialInputs says what values it has). R297, R293, R300 to R307: without a write mask the results are those of
the rules named, those of class S under MODE.QM too. -/
def Obligations.LongLatencyResult : Prop :=
  ∀ (s : State) (wid id : Nat) (q : Op), (s.warp wid).op? id = some q →
    let w := s.warp wid
    let x := fun l => q.cap 0 l
    let y := fun l => q.cap 1 l
    let z := fun l => q.cap 2 l
    let rm := frmOf q.mode
    let round := fun (B : Nat) (v : Val) => qEncode (qRound (qrmOf q.mode) B v)
    let test : Nat → Val → Val → Bool := fun c a b => match c with
      | 0 => a.eqv b
      | 1 => !a.eqv b
      | 2 => a.lt b
      | 3 => a.lt b || a.eqv b
      | 4 => b.lt a
      | _ => b.lt a || a.eqv b
    let pair : Val → Int × Nat := fun v => match v with
      | .nan => (0, 0)
      | .inf s => ((if s then -1 else 1 : Int), 0)
      | .fin s n d => if n = 0 then (0, 1) else ((if s then -1 else 1 : Int) * (n / Nat.gcd n d : Nat), d / Nat.gcd n d)
    (∀ (n : RegName) (m : Lanes), q.isAlu = true → (q.setA = none ∨ q.srcPending = false) → q.dests = [⟨n, m⟩] →
      n.valid = true → (n.uniform = true → m = 1) → ∃ t, exec (.longLatencyResult wid id) s = .next t ∧
      t = { s with warps := t.warps } ∧
      (∀ j, j ≠ wid → t.warps.get? j = s.warps.get? j) ∧ (t.warp wid).ops.map (·.1) = (w.ops.map (·.1)).filter (· != id) ∧
      ∀ r l, l < 32 → (t.warp wid).raw r l =
        if r = n ∧ (n.uniform = true ∨ m.getLsbD l = true) ∧ w.unspec.contains (n.place l) = false
        then n.holds (q.result (if n.uniform then 0 else l)) else w.raw r l) ∧
    (∀ o : VRR, o.x = none → ∀ l,
      (q.ins = .fdiv o → q.result l = f32Word rm (Val.div (f32Val (x l)) (f32Val (y l)))) ∧
      (q.ins = .qadd o → q.result l = round 26 (Val.add .rne (qVal (x l)) (qVal (y l)))) ∧
      (q.ins = .qsub o → q.result l = round 26 (Val.add .rne (qVal (x l)) (qVal (y l)).neg)) ∧
      (q.ins = .qmul o → q.result l = round 26 (Val.mul (qVal (x l)) (qVal (y l)))) ∧
      (q.ins = .qdiv o → q.result l = round 26 (Val.div (qVal (x l)) (qVal (y l)))) ∧
      (q.ins = .qfrom o → q.result l = round 26 (Val.div (.fin (decide ((x l).toInt < 0)) (x l).toInt.natAbs 1)
        (.fin (decide ((y l).toInt < 0)) (y l).toInt.natAbs 1))) ∧
      (q.ins = .qrnd o → q.result l = round (Nat.max 2 (Nat.min 26 ((y l).toNat % 32))) (qVal (x l))) ∧
      (q.ins = .qmed o →
        let n := (pair (qVal (x l))).1 + (pair (qVal (y l))).1
        let d := (pair (qVal (x l))).2 + (pair (qVal (y l))).2
        ((qVal (x l)).isNan = true ∨ (qVal (y l)).isNan = true → q.result l = 0) ∧
        ((qVal (x l)).isNan = false → (qVal (y l)).isNan = false →
          (0 < d → q.result l = round 26 (.fin (decide (n < 0)) n.natAbs d)) ∧
          (d = 0 → q.result l = if n = 0 then 0 else if n < 0 then 0x84000001 else 0x04000001)))) ∧
    (∀ o : VR1, o.x = none → ∀ l,
      (q.ins = .qnum o → q.result l = BitVec.ofInt 32 (pair (qVal (x l))).1) ∧
      (q.ins = .qden o → q.result l = BitVec.ofNat 32 (pair (qVal (x l))).2) ∧
      (∀ e ∈ ([(.rcp o, .rcp), (.rsq o, .rsq), (.sqrt o, .sqrt), (.ex2 o, .ex2), (.lg2 o, .lg2), (.sin o, .sin),
          (.cos o, .cos), (.tanh o, .tanh)] : List (Instr × Special)), q.ins = e.1 →
        q.result l = e.2.result q.mode (x l)) ∧
      (q.ins = .qrec o → q.result l = round 26 (Val.div (.fin false 1 1) (qVal (x l)))) ∧
      (q.ins = .qcvt o → q.result l = match qVal (x l) with
        | .nan => 0
        | .inf s => if s then 0x80000000 else 0x7FFFFFFF
        | .fin s n d => BitVec.ofInt 32 ((if s then -1 else 1 : Int) * (roundInt (match qrmOf q.mode with
          | .zero => .rz
          | .down => .rd
          | .up => .ru
          | _ => .rne) s n d : Nat))) ∧
      (q.ins = .qclass o →
        let v := (qVal (x l)).reduce
        let k := match v with
          | .nan => 7
          | .inf s => if s then 0 else 6
          | .fin s n d => if n = 0 then 3 else if d = 1 then (if s then 2 else 4) else if s then 1 else 5
        q.result l = BitVec.ofNat 32 (2 ^ k + if x l = qEncode v then 0 else 256))) ∧
    (∀ o : VCP, o.x = none → ∀ l,
      ∀ e ∈ ([(.qsetpEq o, 0), (.qsetpNe o, 1), (.qsetpLt o, 2), (.qsetpLe o, 3), (.qsetpGt o, 4), (.qsetpGe o, 5)] :
          List (Instr × Nat)), q.ins = e.1 →
        let c := test e.2 (qVal (x l)) (qVal (y l))
        q.result l = if (if o.m = 0 then c else if o.m = 1 then z l != 0 && c else z l != 0 || c) then 1 else 0) ∧
    (∀ o : SCS, o.cond.toNat ≤ 5 → ∀ l, q.ins = .fcmpw o →
      q.result l = if test o.cond.toNat (qVal (x l)) (qVal (y l)) then 1 else 0) ∧
    ∀ o : SRR, ∀ l,
      (q.ins = .fdivw o → q.result l = if q.mode.getLsbD 3 then round 26 (Val.div (qVal (x l)) (qVal (y l)))
        else f32Word rm (Val.div (f32Val (x l)) (f32Val (y l)))) ∧
      (q.ins = .faddw o → q.result l = round 26 (Val.add .rne (qVal (x l)) (qVal (y l)))) ∧
      (q.ins = .fsubw o → q.result l = round 26 (Val.add .rne (qVal (x l)) (qVal (y l)).neg)) ∧
      (q.ins = .fmulw o → q.result l = round 26 (Val.mul (qVal (x l)) (qVal (y l)))) ∧
      (q.ins = .ffmaw o → q.result l = round 26 (Val.add .rne (Val.mul (qVal (x l)) (qVal (y l))) (qVal (z l))))

/-- R228, R229, Table 8.9: the special functions. The special inputs give what the table says, whatever FSI and FSO are; a
subnormal input under FSI acts as a zero. For a finite non-zero input n/d that FSI does not flush: a negative one gives
a NaN in RSQ, SQRT and LG2; where the table calls the case exact, the result is the word whose value that is; EX2 gives
+∞ from 128 on and +0 below −150; under FSO a result of RCP, EX2, SIN or TANH below 2^−126 is a zero of its sign. An RCP
that has a finite nearest word lies within one ulp of 1/x. The result depends on the input, FSI and FSO alone. Any other
result is within the table's bound of the exact value wherever the nearest word is (`Special.within`; that the bound is
taken about the exact value computed to 256 fraction bits is the model's choice, log entry 10). -/
def Obligations.SpecialInputs : Prop :=
  ∀ (mode x : Word),
    ((f32Val x).isNan = true → ∀ f : Special, f.result mode x = 0x7FC00000) ∧
    (∀ p ∈ ([(.rcp, 0), (.rsq, 0), (.sqrt, 0x7F800000), (.ex2, 0x7F800000), (.lg2, 0x7F800000), (.sin, 0x7FC00000),
        (.cos, 0x7FC00000), (.tanh, 0x3F800000)] : List (Special × Word)), p.1.result mode 0x7F800000 = p.2) ∧
    (∀ p ∈ ([(.rcp, 0x80000000), (.rsq, 0x7FC00000), (.sqrt, 0x7FC00000), (.ex2, 0), (.lg2, 0x7FC00000),
        (.sin, 0x7FC00000), (.cos, 0x7FC00000), (.tanh, 0xBF800000)] : List (Special × Word)),
      p.1.result mode 0xFF800000 = p.2) ∧
    (∀ p ∈ ([(.rcp, 0x7F800000), (.rsq, 0x7F800000), (.sqrt, 0), (.ex2, 0x3F800000), (.lg2, 0xFF800000), (.sin, 0),
        (.cos, 0x3F800000), (.tanh, 0)] : List (Special × Word)), p.1.result mode 0 = p.2) ∧
    (∀ p ∈ ([(.rcp, 0xFF800000), (.rsq, 0xFF800000), (.sqrt, 0x80000000), (.ex2, 0x3F800000), (.lg2, 0xFF800000),
        (.sin, 0x80000000), (.cos, 0x3F800000), (.tanh, 0x80000000)] : List (Special × Word)),
      p.1.result mode 0x80000000 = p.2) ∧
    (mode.getLsbD 12 = true → Fmt.f32.subnormal x.toNat = true → ∀ f : Special,
      f.result mode x = f.result mode (x &&& 0x80000000)) ∧
    (∀ mode' : Word, mode'.getLsbD 12 = mode.getLsbD 12 → mode'.getLsbD 13 = mode.getLsbD 13 →
      ∀ f : Special, f.result mode' x = f.result mode x) ∧
    ∀ (neg : Bool) (n d : Nat), f32Val x = .fin neg n d → n ≠ 0 →
      (mode.getLsbD 12 = false ∨ Fmt.f32.subnormal x.toNat = false) →
      let fso := mode.getLsbD 13
      let zero := fun (s : Bool) => if s then 0x80000000 else 0
      (neg = true → ∀ f ∈ [Special.rsq, .sqrt, .lg2], f.result mode x = 0x7FC00000) ∧
      (∀ (c : Word) (s : Bool) (p q : Nat), f32Val c = .fin s p q →
        (s = neg → p * n = q * d → (fso = true → q ≤ p * 2 ^ 126) → Special.rcp.result mode x = c) ∧
        (neg = false → s = false → p * p * n = q * q * d → Special.rsq.result mode x = c) ∧
        (neg = false → s = false → p * p * d = q * q * n → Special.sqrt.result mode x = c) ∧
        (∀ k : Nat, s = false → k ≤ 127 → neg = false → n = k * d → p = 2 ^ k * q → Special.ex2.result mode x = c) ∧
        (∀ k : Nat, s = false → k ≤ 149 → neg = true → n = k * d → p * 2 ^ k = q → (fso = true → k ≤ 126) →
          Special.ex2.result mode x = c) ∧
        (∀ k : Nat, neg = false → s = false → 0 < k → n = 2 ^ k * d → p = k * q → Special.lg2.result mode x = c) ∧
        (∀ k : Nat, neg = false → s = true → 0 < k → n * 2 ^ k = d → p = k * q → Special.lg2.result mode x = c)) ∧
      (neg = false → n = d → Special.lg2.result mode x = 0) ∧
      (neg = false → 128 * d ≤ n → Special.ex2.result mode x = 0x7F800000) ∧
      (neg = true → 150 * d < n → Special.ex2.result mode x = 0) ∧
      (fso = true → (d * 2 ^ 126 < n → Special.rcp.result mode x = zero neg) ∧
        (∀ k : Nat, neg = true → n = k * d → 126 < k → Special.ex2.result mode x = 0) ∧
        (n * 2 ^ 126 ≤ d → Special.sin.result mode x = zero neg ∧ Special.tanh.result mode x = zero neg)) ∧
      (∀ (s : Bool) (p q : Nat), f32Val (f32Word .rne (.fin neg d n)) = .fin s p q → (fso = true → n ≤ d * 2 ^ 126) →
        ∃ t a b, f32Val (Special.rcp.result mode x) = .fin t a b ∧
          (ulpOf d n).lt (Val.add .rne (.fin t a b) (.fin (!neg) d n)).abs = false) ∧
      ∀ f : Special,
        let y := (f.value neg n d).1
        (fso = false ∨ f.tiny n d y = false) → f.within n d y (f32Word .rne y) = true →
          f.within n d y (f.result mode x) = true

/-! ## Class L -/

/-- R146, R149, R152, R157, R161: a global form whose lanes all pass the checks of Table 6.3 that are made at issue (aligned,
canonical, translated, no range lock, no atomic its target lacks) enters among the warp's operations: one access per
active lane that is no helper, at GlobalEA and the system address it translates to; a load or ATOM will write its
registers, a store, ATOM or RED carries its data registers as they are now. No register and no byte of memory changes
at issue. What its target denies is decided there, when the access reaches it. -/
def Obligations.GlobalIssue : Prop :=
  ∀ (s : State) (o : LMem) (key : Nat → Nat) (byp : Nat → Bool),
    let w := s.self
    let thr := fun l => (s.active o.g).getLsbD l && !w.helper.getLsbD l
    let lanes := (List.range 32).filter thr
    let ea := fun l => s.rdW64 o.b + (s.rd (w.dataReg o.a.toNat) l).zeroExtend 64 + BitVec.ofInt 64 o.px.disp.toInt
    ∀ p ∈ ([(.ldN8 o, .load, 1, 1, 0), (.ldI8 o, .load, 1, 1, 0), (.ldN16 o, .load, 2, 1, 0), (.ldI16 o, .load, 2, 1, 0),
        (.ld32 o, .load, 4, 1, 0), (.ld64 o, .load, 8, 2, 0), (.ld128 o, .load, 16, 4, 0), (.st8 o, .store, 1, 1, 0),
        (.st16 o, .store, 2, 1, 0), (.st32 o, .store, 4, 1, 0), (.st64 o, .store, 8, 2, 0), (.st128 o, .store, 16, 4, 0),
        (.atomAddN32 o, .atom, 4, 1, 1), (.atomMinI32 o, .atom, 4, 1, 1), (.atomMaxI32 o, .atom, 4, 1, 1),
        (.atomMinN32 o, .atom, 4, 1, 1), (.atomMaxN32 o, .atom, 4, 1, 1), (.atomAnd o, .atom, 4, 1, 1),
        (.atomOr o, .atom, 4, 1, 1), (.atomXor o, .atom, 4, 1, 1), (.atomExch o, .atom, 4, 1, 1),
        (.atomFaddF32 o, .atom, 4, 1, 1), (.atomAddN64 o, .atom, 8, 2, 2), (.atomExch64 o, .atom, 8, 2, 2),
        (.atomCas o, .atom, 4, 2, 1), (.redAddN32 o, .red, 4, 1, 0), (.redMinI32 o, .red, 4, 1, 0),
        (.redMaxI32 o, .red, 4, 1, 0), (.redMinN32 o, .red, 4, 1, 0), (.redMaxN32 o, .red, 4, 1, 0), (.redAnd o, .red, 4, 1, 0),
        (.redOr o, .red, 4, 1, 0), (.redXor o, .red, 4, 1, 0), (.redFaddF32 o, .red, 4, 1, 0), (.redAddN64 o, .red, 8, 2, 0)] :
        List (Instr × MemKind × Nat × Nat × Nat)),
      let k := p.2.1
      let size := p.2.2.1
      let regs := p.2.2.2.1
      let back := p.2.2.2.2
      let op := AtomOp.ofCode (atomCode p.1)
      let atomic := k = .atom ∨ k = .red
      lanes ≠ [] → (atomic → op = .fadd → s.det w.cid = false) →
      (∀ l ∈ lanes, (ea l).toNat % size = 0 ∧ (ea l).toNat < 2 ^ 48 ∧
        s.translate w.core w.cid (ea l) (if k = .load then .read else .write) = .ok (key l, byp l) ∧
        s.lockHit w .global (ea l).toNat ((ea l).toNat + size - 1) (k = .load) = none ∧
        (atomic → atomUnsupported op (decide (pxScope o.px = 0) && !(pxBypass o.px || byp l)) (key l) = false)) →
      ∃ t q, exec p.1 s = .next t ∧ t.mem = s.mem ∧
        t.self = { w.owe s.nextId s.focus.setB q.dests with ops := w.ops ++ [(s.nextId, q)] } ∧
        (∀ j, j ≠ s.focus.wid → t.warps.get? j = s.warps.get? j) ∧
        q.ins = p.1 ∧ q.space = .global ∧ q.size = size ∧ q.scope = pxScope o.px ∧
        q.acquire = o.px.order.getLsbD 0 ∧ q.release = o.px.order.getLsbD 1 ∧
        q.isLoad = decide (k = .load) ∧ q.isStore = decide (k = .store) ∧ q.isAtomic = decide atomic ∧
        q.setA = s.focus.setA ∧ q.setB = s.focus.setB ∧
        q.accesses.map (fun a => (a.lane, a.addr, a.key, a.done, a.denied)) =
          lanes.map (fun l => (l, ea l, key l, false, false)) ∧
        (k ≠ .load → w.role ≠ .control → t.lost w.cid = s.lost w.cid → q.caps.map (·.vals) =
          (List.range regs).map fun j => (List.range 32).map fun l => s.rd (.v (o.d.toNat + j)) l) ∧
        q.dests = (match k with
          | .load => (List.range regs).map fun j => ⟨w.named (w.dataReg (o.d.toNat + j)), s.active o.g⟩
          | .atom => (List.range back).map fun j => ⟨w.named (w.dataReg (o.d.toNat + j)), s.active o.g &&& ~~~w.helper⟩
          | _ => [])

/-- R375, R377 (Tables 6.3, 14.1), R389: a global form with a misaligned lane takes trap 0x04 at the lowest such lane, whatever
its other lanes and checks are; with all lanes aligned, a lane whose address has bits [63:48] set takes 0x05 with reason
0x5, and with none such one that does not translate takes 0x05 with the reason of Table 3.9, or 0x10 where its walk meets
an uncorrectable error; with every lane translated, one whose bytes a range lock keeps from it takes 0x07, with RLOCKST
naming the lock; with none such, one whose target lacks the atomic takes 0x06. An f32 add atomic in deterministic mode
takes 0x0B before any of these: its TRAPADDR is the clause header, as Table 14.1 says for that code; that this is meant
although R149 says the lane's virtual address is the model's choice (log entry 13). All are precise: but for the
translations that the last two leave in the caches, nothing of the instruction happens first. -/
def Obligations.AddressTraps : Prop :=
  ∀ (s : State) (o : LMem) (l : Nat),
    let w := s.self
    let thr := fun l => (s.active o.g).getLsbD l && !w.helper.getLsbD l
    let ea := fun l => s.rdW64 o.b + (s.rd (w.dataReg o.a.toNat) l).zeroExtend 64 + BitVec.ofInt 64 o.px.disp.toInt
    let trap := fun (code cause : BitVec 8) (addr : DWord) => s.trap s.focus.wid
      ⟨code, cause, addr, none, some s.focus.idx, some l, false, s.focus.threads, .rpc⟩
    ∀ p ∈ ([(.ldN8 o, 1, .read, false), (.ldI8 o, 1, .read, false), (.ldN16 o, 2, .read, false), (.ldI16 o, 2, .read, false), (.ld32 o, 4, .read, false),
        (.ld64 o, 8, .read, false), (.ld128 o, 16, .read, false), (.st8 o, 1, .write, false), (.st16 o, 2, .write, false), (.st32 o, 4, .write, false),
        (.st64 o, 8, .write, false), (.st128 o, 16, .write, false), (.atomAddN32 o, 4, .write, true), (.atomMinI32 o, 4, .write, true),
        (.atomMaxI32 o, 4, .write, true), (.atomMinN32 o, 4, .write, true), (.atomMaxN32 o, 4, .write, true), (.atomAnd o, 4, .write, true),
        (.atomOr o, 4, .write, true), (.atomXor o, 4, .write, true), (.atomExch o, 4, .write, true), (.atomFaddF32 o, 4, .write, true),
        (.atomAddN64 o, 8, .write, true), (.atomExch64 o, 8, .write, true), (.atomCas o, 4, .write, true), (.redAddN32 o, 4, .write, true),
        (.redMinI32 o, 4, .write, true), (.redMaxI32 o, 4, .write, true), (.redMinN32 o, 4, .write, true), (.redMaxN32 o, 4, .write, true),
        (.redAnd o, 4, .write, true), (.redOr o, 4, .write, true), (.redXor o, 4, .write, true), (.redFaddF32 o, 4, .write, true),
        (.redAddN64 o, 8, .write, true)] : List (Instr × Nat × PageUse × Bool)),
      let det := (p.1 = .atomFaddF32 o ∨ p.1 = .redFaddF32 o) ∧ s.det w.cid = true
      l < 32 → thr l = true →
      (det → (∀ j, j < l → thr j = false) → exec p.1 s = .next (trap 0x0B 0 (s.focus.hdr.zeroExtend 64))) ∧
      (¬ det →
        ((ea l).toNat % p.2.1 ≠ 0 → (∀ j, j < l → thr j = true → (ea j).toNat % p.2.1 = 0) →
          exec p.1 s = .next (trap 4 0 (ea l))) ∧
        ((∀ j, j < 32 → thr j = true → (ea j).toNat % p.2.1 = 0) →
          (2 ^ 48 ≤ (ea l).toNat → (∀ j, j < l → thr j = true → (ea j).toNat < 2 ^ 48) →
            exec p.1 s = .next (trap 5 5 (ea l))) ∧
          ∀ r, (∀ j, j < 32 → thr j = true → (ea j).toNat < 2 ^ 48) → s.translate w.core w.cid (ea l) p.2.2.1 = .error r →
            (∀ j, j < l → thr j = true → ∃ x, s.translate w.core w.cid (ea j) p.2.2.1 = .ok x) →
            exec p.1 s = .next (trap (if r = 16 then 0x10 else 5) (BitVec.ofNat 8 r) (ea l))) ∧
        ((∀ j, j < 32 → thr j = true → (ea j).toNat % p.2.1 = 0 ∧ (ea j).toNat < 2 ^ 48 ∧
            ∃ x, s.translate w.core w.cid (ea j) p.2.2.1 = .ok x) →
          let u := s.installAll w.core w.cid (((List.range 32).filter thr).map ea)
          let hit := fun j => s.lockHit w .global (ea j).toNat ((ea j).toNat + p.2.1 - 1) (decide (p.2.2.1 = .read))
          let lacks := fun (_ : Nat) (x : Nat × Bool) => p.2.2.2 && atomUnsupported (AtomOp.ofCode (atomCode p.1))
            (decide (pxScope o.px = 0) && !(pxBypass o.px || x.2)) x.1
          (∀ h, hit l = some h → (∀ j, j < l → thr j = true → hit j = none) →
            exec p.1 s = .next ((u.setSelf { u.self with rlockst := rlockWord h.1 h.2 }).trap s.focus.wid
              ⟨7, 0, ea l, none, some s.focus.idx, some l, false, s.focus.threads, .rpc⟩)) ∧
          ∀ x, (∀ j, j < 32 → thr j = true → hit j = none) → s.translate w.core w.cid (ea l) p.2.2.1 = .ok x →
            lacks l x = true →
            (∀ j y, j < l → thr j = true → s.translate w.core w.cid (ea j) p.2.2.1 = .ok y → lacks j y = false) →
            exec p.1 s = .next (u.trap s.focus.wid
              ⟨6, 0, ea l, none, some s.focus.idx, some l, false, s.focus.threads, .rpc⟩)))

/-- R147, R158, R159, R160: the tile, accumulator and parameter forms, whose addresses are exact sums without wrap, with
every lane aligned, inside its allocation and free of range locks, enter among the warp's operations, with their data
registers as they are now or the registers they will write. No register and no byte of memory changes at issue.
R149: misaligned they take trap 0x04, outside the allocation 0x06, at the lowest such lane, the first before the second;
TRAPADDR is the offset or element index. A tile range or bank under a range lock takes 0x07 after these, with RLOCKST
naming the lock; that TRAPADDR then is the offset or element index, and not a virtual address, is the model's choice (log
entry 68). A parameter whose page does not translate takes 0x05, or 0x10 for an uncorrectable error. -/
def Obligations.OwnMemoryIssue : Prop :=
  ∀ (s : State) (o : LTile) (a : LAcc),
    let w := s.self
    let thr := fun (g : LGuard) l => (s.active g).getLsbD l && !w.helper.getLsbD l
    let lanes := fun (g : LGuard) => (List.range 32).filter (thr g)
    let off := fun (r : Reg) (d : BitVec 17) l => ((s.rdV r l).toNat : Int) + d.toInt
    let enters := fun (t : State) (i : Instr) (k : MemKind) (sp : Space) (act : Lanes) (d size regs back : Nat) (q : Op) =>
      exec i s = .next t ∧ t.mem = s.mem ∧
        t.self = { w.owe s.nextId s.focus.setB q.dests with ops := w.ops ++ [(s.nextId, q)] } ∧
        (∀ j, j ≠ s.focus.wid → t.warps.get? j = s.warps.get? j) ∧ q.ins = i ∧ q.space = sp ∧ q.size = size ∧
        q.isLoad = decide (k = .load) ∧ q.isStore = decide (k = .store) ∧ q.isAtomic = decide (k = .atom) ∧
        q.setA = s.focus.setA ∧ q.setB = s.focus.setB ∧
        (k ≠ .load → w.role ≠ .control → q.caps.map (·.vals) =
          (List.range regs).map fun j => (List.range 32).map fun l => s.rd (.v (d + j)) l) ∧
        (w.role ≠ .control → q.dests = match k with
          | .load => (List.range regs).map fun j => ⟨.v (d + j), act⟩
          | .atom => (List.range back).map fun j => ⟨.v (d + j), act &&& ~~~w.helper⟩
          | _ => [])
    let trap := fun (code : BitVec 8) (addr : Int) l => s.trap s.focus.wid
      ⟨code, 0, BitVec.ofInt 64 addr, none, some s.focus.idx, some l, false, s.focus.threads, .rpc⟩
    let locked := fun (h : Lock × LockRange) (addr : Int) l =>
      (s.setSelf { w with rlockst := rlockWord h.1 h.2 }).trap s.focus.wid
        ⟨7, 0, BitVec.ofInt 64 addr, none, some s.focus.idx, some l, false, s.focus.threads, .rpc⟩
    let x := off o.a o.px.disp
    let y := off a.a a.px.disp
    (∀ p ∈ ([(.ldt32 o, .load, 4, 1, 0), (.ldt64 o, .load, 8, 2, 0), (.ldt128 o, .load, 16, 4, 0), (.stt32 o, .store, 4, 1, 0),
        (.stt64 o, .store, 8, 2, 0), (.stt128 o, .store, 16, 4, 0), (.atomtAddN32 o, .atom, 4, 1, 1),
        (.atomtMinI32 o, .atom, 4, 1, 1), (.atomtMaxI32 o, .atom, 4, 1, 1), (.atomtExch o, .atom, 4, 1, 1),
        (.atomtCas o, .atom, 4, 2, 1)] : List (Instr × MemKind × Nat × Nat × Nat)),
      let k := p.2.1
      let size := p.2.2.1
      (lanes o.g ≠ [] →
        (∀ l ∈ lanes o.g, x l % size = 0 ∧ 0 ≤ x l ∧ x l + size ≤ s.tileSize w ∧
          s.lockHit w .tile (x l).toNat ((x l).toNat + size - 1) (k = .load) = none) →
        ∃ t q, enters t p.1 k .tile (s.active o.g) o.d.toNat size p.2.2.2.1 p.2.2.2.2 q ∧
          q.accesses.map (fun a => (a.lane, a.key, a.done)) = (lanes o.g).map (fun l => (l, (x l).toNat, false))) ∧
      ∀ l, l < 32 → thr o.g l = true →
        (x l % size ≠ 0 → (∀ j, j < l → thr o.g j = true → x j % size = 0) → exec p.1 s = .next (trap 4 (x l) l)) ∧
        ((∀ j, j < 32 → thr o.g j = true → x j % size = 0) → (x l < 0 ∨ (s.tileSize w : Int) < x l + size) →
          (∀ j, j < l → thr o.g j = true → 0 ≤ x j ∧ x j + size ≤ s.tileSize w) → exec p.1 s = .next (trap 6 (x l) l)) ∧
        ∀ h, (∀ j, j < 32 → thr o.g j = true → x j % size = 0 ∧ 0 ≤ x j ∧ x j + size ≤ s.tileSize w) →
          s.lockHit w .tile (x l).toNat ((x l).toNat + size - 1) (k = .load) = some h →
          (∀ j, j < l → thr o.g j = true →
            s.lockHit w .tile (x j).toNat ((x j).toNat + size - 1) (k = .load) = none) →
          exec p.1 s = .next (locked h (x l) l)) ∧
    (∀ p ∈ ([(.lda a, .load), (.sta a, .store)] : List (Instr × MemKind)),
      (lanes a.g ≠ [] →
        (∀ l ∈ lanes a.g, 0 ≤ y l ∧ y l ≤ 32767 ∧ a.bank.toNat < s.accBanks w ∧
          s.lockHit w .acc a.bank.toNat a.bank.toNat (p.2 = .load) = none) →
        ∃ t q, enters t p.1 p.2 .acc (s.active a.g) a.d.toNat 4 1 0 q ∧
          q.accesses.map (fun e => (e.lane, e.key, e.done)) =
            (lanes a.g).map (fun l => (l, 4 * (32768 * a.bank.toNat + (y l).toNat), false))) ∧
      ∀ l, l < 32 → thr a.g l = true → (y l < 0 ∨ 32767 < y l ∨ s.accBanks w ≤ a.bank.toNat) →
        (∀ j, j < l → thr a.g j = true → 0 ≤ y j ∧ y j ≤ 32767 ∧ a.bank.toNat < s.accBanks w) →
        exec p.1 s = .next (trap 6 (y l) l)) ∧
    (∀ p ∈ ([(.lda a, true), (.sta a, false)] : List (Instr × Bool)), ∀ l h, l < 32 → thr a.g l = true →
      (∀ j, j < l → thr a.g j = false) →
      (∀ j, j < 32 → thr a.g j = true → 0 ≤ y j ∧ y j ≤ 32767 ∧ a.bank.toNat < s.accBanks w) →
      s.lockHit w .acc a.bank.toNat a.bank.toNat p.2 = some h → exec p.1 s = .next (locked h (y l) l)) ∧
    ∀ g, s.gridOf? w = some g →
      (lanes o.g ≠ [] → (∀ l ∈ lanes o.g, x l % 4 = 0 ∧ 0 ≤ x l ∧ x l + 4 ≤ (g.gr.psize : Int) ∧
          ∃ r, s.translate w.core w.cid (g.gr.param + BitVec.ofInt 64 (x l)) .read = .ok r) →
        ∃ t q, enters t (.ldc o) .load .global (s.active o.g) o.d.toNat 4 1 0 q ∧
          q.accesses.map (fun a => (a.lane, a.addr, a.done)) =
            (lanes o.g).map (fun l => (l, g.gr.param + BitVec.ofInt 64 (x l), false))) ∧
      ∀ l, l < 32 → thr o.g l = true →
        (x l % 4 ≠ 0 → (∀ j, j < l → thr o.g j = true → x j % 4 = 0) → exec (.ldc o) s = .next (trap 4 (x l) l)) ∧
        ((∀ j, j < 32 → thr o.g j = true → x j % 4 = 0) → (x l < 0 ∨ (g.gr.psize : Int) < x l + 4) →
          (∀ j, j < l → thr o.g j = true → 0 ≤ x j ∧ x j + 4 ≤ g.gr.psize) → exec (.ldc o) s = .next (trap 6 (x l) l)) ∧
        ∀ r, (∀ j, j < 32 → thr o.g j = true → x j % 4 = 0 ∧ 0 ≤ x j ∧ x j + 4 ≤ g.gr.psize) →
          let va := fun j => g.gr.param + BitVec.ofInt 64 (x j)
          s.translate w.core w.cid (va l) .read = .error r →
          (∀ j, j < l → thr o.g j = true → ∃ e, s.translate w.core w.cid (va j) .read = .ok e) →
          exec (.ldc o) s = .next (s.trap s.focus.wid ⟨if r = 16 then 0x10 else 5, BitVec.ofNat 8 r, va l, none,
            some s.focus.idx, some l, false, s.focus.threads, .rpc⟩)

/-- R151, R172, R320, R322: with no active lane that is not a helper a form of class L makes no access: a load writes zero to
the destinations of the active helpers, and nothing else happens to any register or to memory. A form with an order
acts on the warp as a fence would; without one nothing else at all changes. -/
def Obligations.HelperLoads : Prop :=
  ∀ (s : State) (o : LMem) (u : LTile) (a : LAcc),
    let w := s.self
    let none_ := fun (g : LGuard) => s.active g &&& ~~~w.helper = 0
    let zeros := fun (g : LGuard) (d k : Nat) (n : RegName) (l : Nat) =>
      if (List.range k).any (fun j => decide (n = w.named (w.dataReg (d + j)))) ∧
          (if n.uniform then s.active g ≠ 0 else (s.active g).getLsbD l = true) then some (0 : Word) else none
    (none_ o.g → ∀ p ∈ ([(.ldN8 o, 1), (.ldI8 o, 1), (.ldN16 o, 1), (.ldI16 o, 1), (.ld32 o, 1), (.ld64 o, 2), (.ld128 o, 4),
        (.st8 o, 0), (.st16 o, 0), (.st32 o, 0), (.st64 o, 0), (.st128 o, 0), (.atomAddN32 o, 0), (.atomMinI32 o, 0),
        (.atomMaxI32 o, 0), (.atomMinN32 o, 0), (.atomMaxN32 o, 0), (.atomAnd o, 0), (.atomOr o, 0), (.atomXor o, 0),
        (.atomExch o, 0), (.atomFaddF32 o, 0), (.atomAddN64 o, 0), (.atomExch64 o, 0), (.atomCas o, 0), (.redAddN32 o, 0),
        (.redMinI32 o, 0), (.redMaxI32 o, 0), (.redMinN32 o, 0), (.redMaxN32 o, 0), (.redAnd o, 0), (.redOr o, 0),
        (.redXor o, 0), (.redFaddF32 o, 0), (.redAddN64 o, 0)] : List (Instr × Nat)),
      ∃ t, exec p.1 s = .next t ∧ t.mem = s.mem ∧
        (∀ n l, l < 32 → t.self.raw n l = match zeros o.g o.d.toNat p.2 n l with
          | some _ => n.holds 0
          | none => w.raw n l) ∧
        (o.px.order = 0 → WritesRegs s t (zeros o.g o.d.toNat p.2)) ∧
        (o.px.order = 2 → (∀ e ∈ w.ops, e.1 < s.nextId) → ∃ q : Op, (s.nextId, q) ∈ t.self.ops ∧ q.release = true ∧ q.accesses = [] ∧ q.dests = [])) ∧
    (none_ u.g → ∀ p ∈ ([(.ldt32 u, 1), (.ldt64 u, 2), (.ldt128 u, 4), (.ldc u, 1), (.stt32 u, 0), (.stt64 u, 0),
        (.stt128 u, 0), (.atomtAddN32 u, 0), (.atomtMinI32 u, 0), (.atomtMaxI32 u, 0), (.atomtExch u, 0), (.atomtCas u, 0)] :
        List (Instr × Nat)),
      ∃ t, exec p.1 s = .next t ∧ WritesRegs s t (zeros u.g u.d.toNat p.2)) ∧
    (none_ a.g → ∀ p ∈ ([(.lda a, 1), (.sta a, 0)] : List (Instr × Nat)),
      ∃ t, exec p.1 s = .next t ∧ WritesRegs s t (zeros a.g a.d.toNat p.2))

/-- R169, R170, R171, R320, R57: a FENCE with release enters among the warp's operations and stays until its older accesses
are complete; an acquire FENCE of a warp with nothing in flight acts at once, at .gang and wider invalidating the
core's L1; CINV drops the lines of its lanes that translate and are permitted, and adds nothing to the L1; PREF changes
no register and no memory. Walks of either may show that its context's software has not kept R82 (R1, log entry 72). -/
def Obligations.FenceAndLines : Prop :=
  ∀ (s : State) (f : LFence) (o : LLine),
    let w := s.self
    let c := w.core
    (f.px.order.getLsbD 1 = true → ∃ t q, exec (.fence f) s = .next t ∧ t.self = { w with ops := w.ops ++ [(s.nextId, q)] } ∧
      q.ins = .fence f ∧ q.release = true ∧ q.acquire = f.px.order.getLsbD 0 ∧ q.scope = pxScope f.px ∧
      q.setB = s.focus.setB ∧ q.accesses = [] ∧ t.mem = s.mem ∧ t.cores = s.cores) ∧
    (f.px.order = 1 → w.ops = [] → ∃ t, exec (.fence f) s = .next t ∧ t.self = { w with dues := t.self.dues } ∧ t.mem = s.mem ∧
      (if pxScope f.px = 0 then t.cores = s.cores else
        (t.core c).l1 = [] ∧ (∀ x ∈ (t.core c).fills, x.overtaken = true) ∧ ∀ d, d ≠ c → t.core d = s.core d)) ∧
    (∃ t, exec (.cinv o) s = .next t ∧ t = { s with cores := t.cores, dies := t.dies, contexts := t.contexts } ∧
      (∀ cid, t.ctx cid = { s.ctx cid with breached := (t.ctx cid).breached }) ∧ (∀ d, d ≠ c → t.core d = s.core d) ∧
      (∀ l key b, l < 32 → (s.active o.g).getLsbD l = true → w.helper.getLsbD l = false →
        s.translate c w.cid (s.globalEA o.px.disp o.a o.b l) .read = .ok (key, b) → s.denial w.cid .read key 1 = none →
        ∀ j, j < 128 → t.l1Byte c (key / 128 * 128 + j) = none) ∧
      ∀ k x, t.l1Byte c k = some x → s.l1Byte c k = some x) ∧
    ∃ t, exec (.pref o) s = .next t ∧ t = { s with cores := t.cores, dies := t.dies, contexts := t.contexts } ∧
      (∀ cid, t.ctx cid = { s.ctx cid with breached := (t.ctx cid).breached }) ∧
      ∀ d k, t.l1Byte d k = s.l1Byte d k

/-! ## Memory operations as they are performed -/

/-- R153, R158, R159, R160, R6: what a register of a load's destination receives from the bytes it read: LD.n8 and LD.n16
zero-extend, LD.i8 and LD.i16 sign-extend, and register i of a wider form holds bytes 4 i to 4 i + 3, little-endian. -/
def Obligations.LoadedValues : Prop :=
  ∀ (o : LMem) (u : LTile) (c : LAcc) (a b : Byte),
    loadWord (.ldN8 o) [a] 0 = a.zeroExtend 32 ∧ loadWord (.ldI8 o) [a] 0 = a.signExtend 32 ∧
    loadWord (.ldN16 o) [a, b] 0 = (b ++ a).zeroExtend 32 ∧ loadWord (.ldI16 o) [a, b] 0 = (b ++ a).signExtend 32 ∧
    ∀ p ∈ ([(.ld32 o, 1), (.ld64 o, 2), (.ld128 o, 4), (.ldt32 u, 1), (.ldt64 u, 2), (.ldt128 u, 4), (.lda c, 1), (.ldc u, 1)] :
        List (Instr × Nat)), ∀ bs : List Byte, bs.length = 4 * p.2 → ∀ i j, i < p.2 → j < 4 →
      bs[4 * i + j]? = some ((loadWord p.1 bs i).extractLsb' (8 * j) 8)

/-- R152, R157, R158 to R160, R313, R57: a load that is the warp's only operation in flight, with no atomic on its bytes still to
be performed on its core: LOAD_RESPONSE gives every destination register in every accessed lane the bytes found where
its form reads: in the L1 where that holds them all; past the L1, once Graft does not hold the read, its target permits
it and the core has no write on its way, in memory; in the block's tile memory; in the accumulator element. Global memory's
bytes hold specified values there (R2). LDC returns bytes of the parameter block that were not stored to since the grid
runs. The operation leaves, no byte of
memory changes. -/
def Obligations.LoadReturnsMemory : Prop :=
  ∀ (s : State) (wid id : Nat) (q : Op) (val : Access → List Byte), (s.warps.get? wid).isSome = true →
    (s.warp wid).ops = [(id, q)] → q.isLoad = true → q.stray = 0 →
    let w := s.warp wid
    (∀ a ∈ q.accesses, a.done = false ∧ a.denied = false ∧ a.part = none ∧
      s.atomicsAhead w.core q.space w.blk s.nextId a.key q.size = false) →
    ((q.space = .global ∧ (s.core w.core).outbound = [] ∧ ∀ a ∈ q.accesses, a.bypass = true ∧
        s.graftHolds (dieOfCore w.core) a.key q.size = false ∧ splitLink q.size a.key = false ∧
        (a.granted = true ∨ s.refused w.cid .read a.key q.size = false) ∧ s.isBad a.key q.size = false ∧
        val a = s.memBytes a.key q.size) ∨
      (q.space = .global ∧ ∀ a ∈ q.accesses, s.passesL1 w q a = false ∧ (val a).length = q.size ∧
        ∀ i, i < q.size → s.l1Byte w.core (a.key + i) = (val a)[i]?) ∨
      (q.space = .tile ∧ ∀ a ∈ q.accesses, val a = s.tileBytes w.blk a.key q.size) ∨
      (q.space = .acc ∧ ∀ a ∈ q.accesses, val a = bytes32 (s.accWord w.blk (a.key / 4 / 32768) (a.key / 4 % 32768)))) →
    (q.space = .global → ∀ a ∈ q.accesses, ∀ i, i < q.size → Sparse.get false s.vague (a.key + i) = false) →
    (q.isLdc = true → ∃ g, s.gridOf? w = some g ∧
      ∀ a ∈ q.accesses, ∀ i, i < q.size → Sparse.get false g.paramWritten (a.key + i) = false) →
    (q.accesses.map (·.lane)).Nodup → (q.dests.map (·.reg)).Nodup →
    (∀ d ∈ q.dests, d.reg.perLane = true ∧ d.reg.valid = true ∧ ∀ l, w.unspec.contains (d.reg.place l) = false) →
    ∃ t, exec (.loadResponse wid id) s = .next t ∧ t.mem = s.mem ∧ (t.warp wid).ops = [] ∧
      ∀ (i : Nat) (d : Dest) (a : Access), q.dests[i]? = some d → a ∈ q.accesses → a.lane < 32 → d.lanes.getLsbD a.lane = true →
        (t.warp wid).raw d.reg a.lane = d.reg.holds (loadWord q.ins (val a) i)

/-- R317, R67, R156, R159, R155, R57: at the core's order point the oldest queued store of a warp, nothing
older of the warp in flight and no atomic being performed on the core on its bytes, sends one write per lane with the
bytes of its data registers, little-endian as they were captured (over a link a 16-byte one as two), and updates what
its L1 holds of them; or writes them to its block's tile memory or accumulator element. Memory itself does not change
yet. -/
def Obligations.StoreOrderPoint : Prop :=
  ∀ (s : State) (wid id : Nat) (q : Op), (s.warps.get? wid).isSome = true → (s.warp wid).ops = [(id, q)] →
    q.isStore = true → q.atOrder = false → q.release = false → (∀ f, q.ins ≠ .fence f) → q.stray = 0 →
    let w := s.warp wid
    (∀ a ∈ q.accesses, s.localAhead w.core q.space w.blk a.key q.size = false) →
    let t := s.orderPoint wid
    let data := fun (a : Access) => (List.range q.size).map fun i => (q.cap (i / 4) a.lane).extractLsb' (8 * (i % 4)) 8
    let parts := fun (a : Access) =>
      if q.size = 16 ∧ inModule a.key = false then [(a.lane, a.key, (data a).take 8), (a.lane, a.key + 8, (data a).drop 8)]
      else [(a.lane, a.key, data a)]
    t.mem = s.mem ∧ (∃ q', (t.warp wid).ops = [(id, q')] ∧ q'.atOrder = true) ∧
    (q.space = .global → (t.core w.core).outbound.map (fun e => (e.2.lane, e.2.key, e.2.data)) =
      (s.core w.core).outbound.map (fun e => (e.2.lane, e.2.key, e.2.data)) ++ q.accesses.flatMap parts) ∧
    (∀ a, q.space = .global → q.accesses = [a] → ∀ k, t.l1Byte w.core k =
      if a.key ≤ k ∧ (s.l1Byte w.core k).isSome = true ∧ k < a.key + q.size then (data a)[k - a.key]? else s.l1Byte w.core k) ∧
    (∀ a, q.space = .tile → (s.blocks.get? w.blk).isSome = true → q.accesses = [a] → ∀ k,
      t.tileByte w.blk k = if a.key ≤ k ∧ k < a.key + q.size then (data a).getD (k - a.key) 0 else s.tileByte w.blk k) ∧
    ∀ a b, q.space = .acc → s.blocks.get? w.blk = some b → q.accesses = [a] → a.key / 4 / 32768 < b.acc.length → ∀ bank i,
      t.accWord w.blk bank i = if bank = a.key / 4 / 32768 ∧ i = a.key / 4 % 32768 then q.cap 0 a.lane
        else s.accWord w.blk bank i

/-- R62, R316, R60, R310, R389, R149, R87, R405: HOME_L2_WRITE of a store's write that no older write or atomic of its core to the
same bytes precedes, nor one that Graft accepted earlier from another core, and that Graft has accepted if it is to the
other die. If its target permits it and no copy is in
the other die's RDC, its bytes are in memory and specified, EVERY OTHER BYTE OF MEMORY is as it was, the write has left the core, and
at a home L2 its line is dirty. A copy in the RDC is invalidated first: the write waits. Denied, it is dropped: no
byte of memory changes, the denial is captured, the other die's RDC holds no copy (R63), and the lane waits for its denial
response, with which DEFERRED_DENIAL makes trap 0x06 due at the warp's next run boundary. That one which is due already
stays as it is, with its address, is the model's choice (log entry 14). -/
def Obligations.StoreAtHome : Prop :=
  ∀ (s : State) (c n : Nat) (e : Outbound), findKey? n (s.core c).outbound = some e →
    (∀ x ∈ (s.core c).outbound.takeWhile (fun x => x.1 != n),
      x.2.key + x.2.data.length ≤ e.key ∨ e.key + e.data.length ≤ x.2.key) →
    s.atomicsAhead c .global 0 n e.key e.data.length = false →
    s.acceptedBefore false c n e.key e.data.length = false →
    (remoteTo (dieOfCore c) e.key = true → s.graftAccepts c n = true) →
    (∀ q, (s.warp e.wid).op? e.op = some q → q.isAtomic = false ∧ ∀ a ∈ q.accesses, a.granted = false) →
    (s.refused e.cid .write e.key e.data.length = false →
      (s.copyOf e.key e.data.length = none → ∃ t, exec (.homeL2Write c n) s = .next t ∧ findKey? n (t.core c).outbound = none ∧
        (∀ a, Memory.get t.mem a = if h : e.key ≤ a ∧ a < e.key + e.data.length then e.data[a - e.key]'(by omega)
          else Memory.get s.mem a) ∧
        (∀ i, i < e.data.length → t.isBad (e.key + i) 1 = false ∧ Sparse.get false t.vague (e.key + i) = false) ∧
        ∀ d ln, placeOf e.key = .hbm d → d ≤ 1 → linesOf e.key e.data.length = [ln] →
          (∃ first, (t.die d).l2.get? ln = some ⟨true, false, first⟩) ∧ (t.die (1 - d)).rdc.get? ln = none) ∧
      ∀ d ln, s.copyOf e.key e.data.length = some (d, ln) → ∃ t, exec (.homeL2Write c n) s = .next t ∧
        t = { s with dies := t.dies } ∧ .inval ln ∈ (t.die (1 - d)).graft) ∧
    ∀ (q : Op) (a : Access), s.refused e.cid .write e.key e.data.length = true → (s.warp e.wid).ops = [(e.op, q)] →
      (s.warps.get? e.wid).isSome = true → q.isStore = true → q.isLoad = false → q.accesses = [a] → a.lane = e.lane →
      a.done = false →
      ∃ t u, exec (.homeL2Write c n) s = .next t ∧ t.mem = s.mem ∧ findKey? n (t.core c).outbound = none ∧
        (∀ tg, s.denial e.cid .write e.key e.data.length = some tg →
          let blank : Capture := ⟨false, 0, 0, 0, 0⟩
          let old := Sparse.get blank (s.die tg.1).captures tg.2.1
          Sparse.get blank (t.die tg.1).captures tg.2.1 =
            if old.v then { old with count := if old.count = 0xFFFFFFFF then old.count else old.count + 1 }
            else ⟨true, BitVec.ofNat 8 e.cid, 1, BitVec.ofNat 46 tg.2.2, 0⟩) ∧
        (∀ tg, s.denial e.cid .write e.key e.data.length = some tg → (t.die (1 - tg.1)).rdc.get? (tg.2.2 / 128) = none) ∧
        exec (.deferredDenial e.wid e.op) t = .next u ∧ u.mem = s.mem ∧ (u.warp e.wid).pend06 =
          if (s.warp e.wid).pend06.isSome then (s.warp e.wid).pend06 else some ⟨0, a.addr⟩

/-- R163, R164, R161, R162: an atomic at the order point, with no older write or atomic of its core to its bytes to come,
nor one that Graft accepted earlier from another core, its bytes specified (R2), performed at its location's home, which permits it: the lanes of the location are combined in ascending order, each
getting the value that the lanes before it left; memory holds the last value of Table 6.4, EVERY OTHER BYTE OF MEMORY
is as it was. A RED's lanes are performed; an ATOM all of whose lanes are is complete, with the old values in its
destination registers. -/
def Obligations.AtomicAtHome : Prop :=
  ∀ (s : State) (wid id : Nat) (q : Op) (a : Access), (s.warps.get? wid).isSome = true → (s.warp wid).ops = [(id, q)] →
    let w := s.warp wid
    q.isAtomic = true → atomCode q.ins ≠ 0 → q.atOrder = true → q.space = .global → (q.scope ≠ 0 ∨ a.bypass = true) →
    a ∈ q.accesses → (q.accesses.map (·.lane)).Nodup → (∀ b ∈ q.accesses, b.lane < 32 ∧ b.done = false ∧ b.denied = false) →
    (∀ e ∈ (s.core w.core).outbound, ¬ (e.2.wid = wid ∧ e.2.op = id) ∧
      (e.1 < q.ord → e.2.key + e.2.data.length ≤ a.key ∨ a.key + q.size ≤ e.2.key)) →
    (remoteTo (dieOfCore w.core) a.key = true → s.graftAccepts w.core q.ord = true) →
    (a.granted = true ∨ s.refused w.cid .atomic a.key q.size = false) → s.isBad a.key q.size = false →
    s.atomicsAhead w.core .global w.blk q.ord a.key q.size = false →
    s.acceptedBefore false w.core q.ord a.key q.size = false →
    (∀ i, i < q.size → Sparse.get false s.vague (a.key + i) = false) → (q.size = 4 ∨ q.size = 8) →
    let group := q.accesses.filter fun b => b.key == a.key
    let after := fun (k : Nat) => (group.take k).foldl
      (fun (v : DWord) (b : Access) => (AtomOp.ofCode (atomCode q.ins)).apply q.size v (q.cap 1 b.lane ++ q.cap 0 b.lane)
        ((q.cap 1 b.lane).zeroExtend 64)) (BitVec.ofNat 64 (ofBytes (s.memBytes a.key q.size)))
    ∃ t, exec (.atomicPerformed wid id a.lane) s = .next t ∧ t.memBytes a.key q.size = toBytes q.size (after group.length).toNat ∧
      (∀ k, (k < a.key ∨ a.key + q.size ≤ k) → Memory.get t.mem k = Memory.get s.mem k) ∧
      (q.dests = [] → ∃ q', (t.warp wid).ops = [(id, q')] ∧
        ∀ b ∈ q'.accesses, b.done = decide (b.key = a.key)) ∧
      (group = q.accesses → q.dests ≠ [] → (t.warp wid).ops = [] ∧
        ∀ (i j : Nat) (d : Dest) (b : Access), q.dests[i]? = some d → (q.dests.map (·.reg)).Nodup → group[j]? = some b →
          d.reg.perLane = true → d.reg.valid = true → d.lanes.getLsbD b.lane = true →
          w.unspec.contains (d.reg.place b.lane) = false →
          (t.warp wid).raw d.reg b.lane = d.reg.holds (BitVec.ofNat 32 ((after j).toNat / 2 ^ (32 * i))))

/-- R163, R164, R161, R57: the atomics that are performed on the core itself. An ATOMT changes its block's tile memory, one of
.blk scope without bypass the core's L1, which holds the whole line from then on, and its new value is on its way to
the location's home. Both combine the lanes of a location in ascending order; neither changes memory yet. -/
def Obligations.AtomicAtCore : Prop :=
  ∀ (s : State) (wid id : Nat) (q : Op) (a : Access), (s.warps.get? wid).isSome = true → (s.warp wid).ops = [(id, q)] →
    let w := s.warp wid
    let c := w.core
    q.isAtomic = true → q.atOrder = true → a ∈ q.accesses → (q.accesses.map (·.lane)).Nodup →
    (∀ b ∈ q.accesses, b.lane < 32 ∧ b.done = false ∧ b.denied = false) → (q.size = 4 ∨ q.size = 8) →
    s.atomicsAhead c q.space w.blk q.ord a.key q.size = false →
    let group := q.accesses.filter fun b => b.key == a.key
    let last := fun (old : List Byte) => group.foldl
      (fun (v : DWord) (b : Access) => (AtomOp.ofCode (atomCode q.ins)).apply q.size v (q.cap 1 b.lane ++ q.cap 0 b.lane)
        ((q.cap 1 b.lane).zeroExtend 64)) (BitVec.ofNat 64 (ofBytes old))
    (q.space = .tile → (s.blocks.get? w.blk).isSome = true → ∃ t, exec (.atomicPerformed wid id a.lane) s = .next t ∧
      t.mem = s.mem ∧ ∀ k, t.tileByte w.blk k = if a.key ≤ k ∧ k < a.key + q.size then
          (toBytes q.size (last (s.tileBytes w.blk a.key q.size)).toNat).getD (k - a.key) 0 else s.tileByte w.blk k) ∧
    (q.space = .global → q.scope = 0 → a.bypass = false → q.size ≤ 128 - a.key % 128 →
      s.graftHolds (dieOfCore c) a.key q.size = false → (a.granted = true ∨ s.refused w.cid .atomic a.key q.size = false) →
      s.isBad (a.key / 128 * 128) 128 = false → (∀ i, i < q.size → Sparse.get false s.vague (a.key + i) = false) → ∃ t, exec (.atomicPerformed wid id a.lane) s = .next t ∧ t.mem = s.mem ∧
        let old := if (List.range q.size).all fun i => (s.l1Byte c (a.key + i)).isSome
          then (List.range q.size).map fun i => (s.l1Byte c (a.key + i)).getD 0
          else (s.coreView c a.key q.size).zipIdx.map fun e => (s.l1Byte c (a.key + e.2)).getD e.1
        let new := toBytes q.size (last old).toNat
        (∀ i, i < q.size → t.l1Byte c (a.key + i) = new[i]?) ∧
        (¬ ((List.range q.size).all fun i => (s.l1Byte c (a.key + i)).isSome) = true →
          ∀ i, i < 128 → (t.l1Byte c (a.key / 128 * 128 + i)).isSome = true) ∧
        ∃ n e, (n, e) ∈ (t.core c).outbound ∧ e.wid = wid ∧ e.op = id ∧ e.key = a.key ∧ e.data = new)

/-- R162, Table 6.4: the new value of each atomic operation. -/
def Obligations.AtomicResults : Prop :=
  ∀ (old x y : DWord),
    let a : Word := old.truncate 32
    let b : Word := x.truncate 32
    (AtomOp.add.apply 8 old x y = old + x) ∧ (AtomOp.add.apply 4 old x y = (a + b).zeroExtend 64) ∧
    (AtomOp.minI.apply 4 old x y = (if a.toInt ≤ b.toInt then a else b).zeroExtend 64) ∧
    (AtomOp.maxI.apply 4 old x y = (if a.toInt ≤ b.toInt then b else a).zeroExtend 64) ∧
    (AtomOp.minN.apply 4 old x y = (if a.toNat ≤ b.toNat then a else b).zeroExtend 64) ∧
    (AtomOp.maxN.apply 4 old x y = (if a.toNat ≤ b.toNat then b else a).zeroExtend 64) ∧
    (AtomOp.and.apply 4 old x y = (a &&& b).zeroExtend 64) ∧ (AtomOp.or.apply 4 old x y = (a ||| b).zeroExtend 64) ∧
    (AtomOp.xor.apply 4 old x y = (a ^^^ b).zeroExtend 64) ∧ (AtomOp.exch.apply 8 old x y = x) ∧
    (AtomOp.cas.apply 4 old x y = (if a = b then y.truncate 32 else a).zeroExtend 64) ∧
    (AtomOp.fadd.apply 4 old x y = (f32Word .rne (Val.add .rne (f32Val a) (f32Val b))).zeroExtend 64)

/-- R316, R169, R314, R166: STORE_PERFORMED completes a store or RED past its order point whose lanes are all performed and which
has no write on its way; FENCE_COMPLETE completes a release FENCE that nothing older holds back; the Graft switch
reports the fence of a .dev release once no write or atomic that the core had sent to the other die by then is left.
Memory does not change, and the operation leaves. (That the writes of other warps of the core hold a release back is the
model's reading, log entry 63.) -/
def Obligations.StoreAndFenceComplete : Prop :=
  ∀ (s : State) (wid id : Nat) (q : Op), (s.warps.get? wid).isSome = true → (s.warp wid).ops = [(id, q)] →
    let c := (s.warp wid).core
    ((q.isStore = true ∨ q.isAtomic = true) → q.dests = [] → q.atOrder = true →
      (∀ a ∈ q.accesses, a.done = true ∧ a.denied = false) → (∀ e ∈ (s.core c).outbound, ¬ (e.2.wid = wid ∧ e.2.op = id)) →
      ∃ t, exec (.storePerformed wid id) s = .next t ∧ (t.warp wid).ops = [] ∧ t.mem = s.mem) ∧
    (∀ f, q.ins = .fence f → q.dests = [] → q.release = true → (q.scope < 3 ∨ q.fenceDone = true) →
      (∀ e ∈ (s.core c).outbound, e.2.wid ≠ wid) → s.coreMet wid q.scope (q.cut.getD s.nextId) = true →
      ∃ t, exec (.fenceComplete wid id) s = .next t ∧ (t.warp wid).ops = [] ∧ t.mem = s.mem) ∧
    (q.release = true → 3 ≤ q.scope →
      let q' := { q with cut := some (q.cut.getD s.nextId) }
      ∃ t, exec (.graftFence wid id) s = .next t ∧ t.mem = s.mem ∧ (t.warp wid).ops = [(id,
        if s.graftCount c (q.cut.getD s.nextId) = 0 then { q' with fenceDone := true } else q')])

/-- R57, R61, R62, R64, R76, R78: the events of the caches: what each puts where, memory never changing. A fill that no load waits
for brings the line whole; one that a load waits for gives the load its bytes and keeps the sectors it touches. (Which
line makes room in a full set is the model's free choice, log entry 65; that a walk that faults leaves the pointer-entry
cache as it was is its choice too, log entry 22. The bytes of a fill are specified ones, R2.) -/
def Obligations.CacheEvents : Prop :=
  ∀ (s : State) (c cid d ln : Nat) (va : DWord), d ≤ 1 →
    let die := dieOfCore c
    let base := 128 * ln
    let held := fun i => s.l1Byte c (base + i)
    (va.toNat < 2 ^ 48 → s.cached c cid va.toNat = none →
      (∀ p lvl ptrs, s.walk die cid va.toNat = .ok (p, lvl, ptrs) → (s.core c).tlb.length < 512 →
        ∃ t, exec (.pageWalk c cid va) s = .next t ∧
        t.mem = s.mem ∧ t.cached c cid va.toNat = some ⟨cid, va.toNat / 2 ^ pageBits lvl, pageBits lvl, p⟩) ∧
      (∀ r, s.walk die cid va.toNat = .error r → ∃ t, exec (.pageWalk c cid va) s = .next t ∧ t = { s with dies := t.dies } ∧
        ∀ k, (t.die k).stc = (s.die k).stc ∧ (t.die k).ptrc = (s.die k).ptrc)) ∧
    (∀ f, (s.core c).fills.find? (fun f => f.line == ln) = some f → f.overtaken = false → (s.core c).outbound = [] →
      s.graftHolds die base 128 = false → s.isBad base 128 = false → inModule base = true →
      (∀ i, i < 128 → Sparse.get false s.vague (base + i) = false) →
      (s.waitingLoads c ln = [] → s.readRefused die f.cid base 128 = false →
        ∃ t, exec (.l1Fill c ln) s = .next t ∧ t.mem = s.mem ∧ (∀ f ∈ (t.core c).fills, f.line ≠ ln) ∧
        ∀ i, i < 128 → t.l1Byte c (base + i) = some ((held i).getD (Memory.get s.mem (base + i)))) ∧
      ∀ wid id q, (s.warps.get? wid).isSome = true → s.waitingLoads c ln = [(wid, id)] → (s.warp wid).ops = [(id, q)] →
        (s.warp wid).core = c → q.isLdc = false → q.acquire = false → q.stray = 0 →
        (∀ a ∈ q.accesses, base ≤ a.key ∧ a.key + q.size ≤ base + 128 ∧ s.waitsFor (s.warp wid) q ln a = true ∧
          a.part = none ∧ (a.granted = true ∨ s.refused (s.warp wid).cid .read a.key q.size = false) ∧
          s.atomicsAhead c .global (s.warp wid).blk s.nextId a.key q.size = false) →
        ∃ t q', exec (.l1Fill c ln) s = .next t ∧ t.mem = s.mem ∧ (t.warp wid).ops = [(id, q')] ∧
          q'.accesses.map (fun a => (a.lane, a.done, a.data)) = q.accesses.map (fun a => (a.lane, true,
            (List.range q.size).map fun i => (s.l1Byte c (a.key + i)).getD (Memory.get s.mem (a.key + i)))) ∧
          ∀ i, i < 128 → t.l1Byte c (base + i) = if (held i).isSome = true then held i
            else if (∃ a ∈ q.accesses, a.key / 32 = 4 * ln + i / 32) then some (Memory.get s.mem (base + i)) else none) ∧
    (∀ first, (s.die d).rdcMiss.get? ln = some first → s.graftHolds d base 128 = false → .inval ln ∉ (s.die d).graft →
      ∃ t, exec (.remoteRead d ln) s = .next t ∧ t = { s with dies := t.dies } ∧ (t.die d).rdcMiss.get? ln = none ∧
        (t.die d).graft.filter (fun g => g.line == ln) =
          (s.die d).graft.filter (fun g => g.line == ln) ++ [.data ln ⟨s.memBytes base 128, first⟩] ∧
        ((t.die (1 - d)).l2.get? ln).map (·.remote) = some true) ∧
    (.inval ln ∈ (s.die d).graft → exec (.remoteRead d ln) s = .next s) ∧
    (∀ e, (s.die d).message? ln = some (.data ln e) → s.graftHolds d base 128 = false → ∃ t, exec (.rdcFill d ln) s = .next t ∧
      t = { s with dies := t.dies } ∧ (t.die d).rdc.get? ln = some e) ∧
    ((s.die d).message? ln = some (.inval ln) → ∃ t, exec (.rdcInvalidation d ln) s = .next t ∧ t = { s with dies := t.dies } ∧
      (t.die d).rdc.get? ln = none ∧ ∀ e, (t.die (1 - d)).l2.get? ln = some e → e.remote = false) ∧
    ∀ e, (s.die d).l2.get? ln = some e → ∃ t, exec (.l2Eviction d ln) s = .next t ∧ t = { s with dies := t.dies } ∧
      if e.remote then (t.die d).l2 = (s.die d).l2 ∧ .inval ln ∈ (t.die (1 - d)).graft
      else (t.die d).l2.get? ln = none ∧ (t.die d).canopy.get? ln = if e.dirty then some true else (s.die d).canopy.get? ln

/-! ## The machine -/

/-- Every fault of the spec is an effect: a trap entry, a flag's error status, a termination. So every step, whichever
agent moves, answers a next state; the model stops nowhere. -/
def Obligations.EveryStepAnswers : Prop := ∀ s : State, ∃ t, step s = .next t

/-- R107, R108, R115: a step of an issue slot whose run has a clause in progress runs exactly the instruction that the
words from the run's place on decode to in the clause's class, as the word of that run's warp; afterwards the run stands
past the instruction's words, unless the word waits, stops the run or was the clause's last; once the clause's sources are read
its SETA flag may clear (R111), which changes no register. The model's choice: younger words
wait while an access of the warp may still be turned away by its target (R380, log entry 66). A word one of whose vector
registers is in no line of the register cache waits too (R73). An event of the opcode table that moves is itself run. -/
def Obligations.StepRunsTheDecodedWord : Prop :=
  ∀ (s : State) (core slot : Nat) (rest : List Move) (r : Run) (i : Instr) (n : Nat), s.held = false →
    (s.agenda = .issue core slot :: rest → s.runs.get? (slotKey core slot) = some r → r.bbcDue = 0 → r.atClause = false →
      r.core = core → r.slot = slot → decodeWords r.cls (r.words.drop (r.idx - 1)) = .ok (i, n) →
      ((s.warp r.wid).unanswered = true → step s = .next { s with fresh := s.fresh + 1, agenda := rest }) ∧
      ((s.warp r.wid).unanswered = false → s.missesLine core r.wid i = false →
      let t := { s with
        fresh := s.fresh + 1, agenda := rest, focus := r, runs := s.runs.erase (slotKey core slot) }
      (∀ f, exec i t = .fault f → step s = .fault f) ∧ (∀ f, exec i t = .refused f → step s = .refused f) ∧
      ∀ u, exec i t = .next u → step s = .next (u.issued n) ∧
        (u.focus.core = core → u.focus.slot = slot → u.focus.atClause = false → u.focus.hold = true →
          (u.issued n).runs.get? (slotKey core slot) =
          some { u.focus with hold := false }) ∧
        (u.focus.core = core → u.focus.slot = slot → u.focus.atClause = false → u.focus.hold = false → u.focus.stop = false →
          u.focus.idx + n ≤ u.focus.words.length →
          (u.issued n).runs.get? (slotKey core slot) = some { u.focus with idx := u.focus.idx + n, cut := none } ∧
          (u.focus.long = false → { u.issued n with runs := u.runs, focus := u.focus } = u) ∧
          { u.issued n with runs := u.runs, focus := u.focus, warps := u.warps, contexts := u.contexts } = u ∧
          ∀ wid m l, ((u.issued n).warp wid).raw m l = (u.warp wid).raw m l))) ∧
    (s.agenda = .event i :: rest → i.cls = none → step s = exec i { s with fresh := s.fresh + 1, agenda := rest })

/-- The memory keeps its canonical form, addresses strictly rising and no byte listed that reads as memory nothing has
written (log entry 1), whatever any step does to it: a store, an atomic, an engine's transfer, an image, a reset. -/
def Obligations.MemoryStaysCanonical : Prop := ∀ s t : State, s.MemWf → step s = .next t → t.MemWf

/-- R419, R420, R415, R401, R74, R54: after reset READY reads 0, UEVT 0, the power limit is 3,600 W, no context runs a job or
has a descriptor, no window permits an access, and the memory has its canonical form (with nothing listed: its contents
are the model's choice, log entry 1). -/
def Obligations.ResetState : Prop :=
  let s := State.reset
  s.MemWf ∧ s.readBar0 0 &&& 0x80000000 = 0 ∧ s.readManagement 0x18 = 0 ∧ s.readManagement 0x10 = 3600 ∧
    (∀ cid, (s.ctx cid).job = none ∧ s.jobstat cid = 0 ∧ s.descWord cid 0 = 0) ∧ s.warps = [] ∧ s.blocks = [] ∧
    ∀ d t m write pa, m ≠ 255 → s.targetPermits d t m write pa = false

/-! ## Encoding -/

/-- R119 to R137: the decoder and the encoder agree on every legal instruction, whatever words follow: no operand bit, prefix
or literal is dropped, and as many words are taken as were written. -/
def Obligations.DecodeEncode : Prop :=
  ∀ (i : Instr) (cls : Cls) (ws : List Word), WellFormed i = true → i.cls = some cls →
    decodeWords cls (encode i ++ ws) = .ok (i, (encode i).length)

/-- R119, R127, R128, R137: the converse. What the words of a clause decode to is a legal instruction of the clause's class,
and the words it took are its encoding: a reserved bit that is set, a reserved value or an unassigned opcode is refused. -/
def Obligations.DecodedIsWellFormed : Prop :=
  ∀ (cls : Cls) (ws : List Word) (i : Instr) (n : Nat), decodeWords cls ws = .ok (i, n) →
    WellFormed i = true ∧ i.cls = some cls ∧ encode i = ws.take n

/-- Tables 5.4 to 5.21, 7.1 to 7.3, 10.5 and 10.6: words of each class written out from the spec's encodings, and what they
decode to; and words with a reserved bit set (in a guard, a prefix, a literal, an unused field), with a reserved value, with an
unassigned opcode or with opcode 0, which are no instructions (Table 5.22). -/
def Obligations.EncodingWords : Prop :=
  decodeWords .s [0x031461C0] = .ok (.addw ⟨5, 6, 7, ⟨false, false, 0⟩⟩, 1) ∧
  decodeWords .v [0x042480C0] = .ok (.iadd ⟨none, 9, 8, 3, ⟨false, false, 0⟩⟩, 1) ∧
  decodeWords .v [0x142890F2] = .ok (.shli ⟨none, 10, 9, 3, ⟨true, true, 2⟩⟩, 1) ∧
  decodeWords .l [0xFF880040, 0x05202100] = .ok (.ld32 ⟨some ⟨2, false, 1, 0, 64⟩, 8, 2, 4, ⟨false, false, 0⟩⟩, 2) ∧
  decodeWords .f [0xFF0C2200, 0x04101080] = .ok (.ffma ⟨some ⟨3, 0, false, true, 1⟩, 4, 1, 2, ⟨false, false, 0⟩⟩, 2) ∧
  decodeWords .x [0x120001A1] = .ok (.bra ⟨6, ⟨true, false, 1⟩⟩, 1) ∧
  decodeWords .m [0x01123472, 0x59BBE000] =
    .ok (.mma ⟨0x12, 0x34, 1, ⟨true, true, 2⟩, 2, true, 2, 3, 1, true, 5, 60⟩, 2) ∧
  decodeWords .c [0x012A0000, 0x2A600000] = .ok (.cpy ⟨0x2A, ⟨false, false, 0⟩, 10, true, false, 3⟩, 2) ∧
  decodeWords .y [0x11000140] = .ok (.trap ⟨5, ⟨false, false, 0⟩⟩, 1) ∧
  decodeWords .s [0x00000000] = .error .opcodeZero ∧ decodeWords .v [0xFF000000] = .error .prefixLast ∧
  (decodeWords .s [0x031461C8]).toOption = none ∧ (decodeWords .v [0xFF000001, 0x042480C0]).toOption = none ∧
  (decodeWords .m [0x01123472, 0x59BBE001]).toOption = none ∧ (decodeWords .m [0x01123472, 0xF9BBE000]).toOption = none ∧
  (decodeWords .c [0x012A0000, 0x2A600001]).toOption = none ∧ (decodeWords .c [0x052A0000, 0]).toOption = none ∧
  (decodeWords .y [0x0E280300]).toOption = none

/-! ## Engine commands -/

/-- R121, R174 to R177, R285, R192: under a false guard a command does nothing; under a true one it is issued with its
operands, to its engine, unless the queue or the range-lock table is full, or Graft or an older acquire of the warp holds the
memory, structures and Tensor Form Table entries, that it reads as it issues: then the word waits. A structure that is not on a 64-byte boundary is the command's fault, cause
0x04. A CPYM that names a phaser its warp does not signal traps, code 0x02. The model's choice: a started copy command counts as
queued until it is complete (log entry 33), Graft's hold is R313's (log entry 7). -/
def Obligations.CommandIssue : Prop :=
  ∀ (s : State) (y : CCpy) (m : CCpym) (e : CTile) (p : CP) (a : CApp) (d : CDrn) (q : YX) (f : CTf) (o : MMma) (b : MBnd)
      (z : MZ) (l : MLat) (k : MStat),
    let regs := fun (r : Reg) n => (List.range n).map fun j => s.rd (.w (r.toNat + j)) 0
    let lanes := fun j (r : Reg) => (List.range 32).map (s.rdAt j (.v r.toNat))
    let cmd := fun (i : Instr) u (vals : List Word) => { s.newCmd i u vals with proj := s.self.proj }
    let waits := fun (i : Instr) u (vals : List Word) => s.noRoom s.self.core u i = true ∨
      s.readHeld s.self.core s.self.cid (vals.getD 1 0 ++ vals.getD 0 0) (8 * structWords i) = true ∨
      readsAtIssue i = true ∧ s.acquirePending = true ∨ s.samplesHeld (cmd i u vals) (namedEntries i) = true
    let mayGang := m.gp = 0xFF ∨ s.signalling s.focus.wid m.gp.toNat = true
    (∀ x ∈ ([(.cpy y, y.g, .copy, regs y.wp 2, [], true), (.enc e, e.g, .copy, regs e.wo 4, [], true),
        (.dect e, e.g, .copy, regs e.wo 4, [], true), (.sread p, p.g, .storage, regs p.p 2, [], true),
        (.swrite p, p.g, .storage, regs p.p 2, [], true), (.swriteFua p, p.g, .storage, regs p.p 2, [], true),
        (.append a, a.g, .compaction, lanes 0 a.l ++ lanes 1 a.i, [], false),
        (.drain d, d.g, .compaction, regs d.n 1, [.v d.d.toNat, .w d.n.toNat], false),
        (.quiesce q, q.g, .compaction, [], [], false), (.tfset f, f.g, .copy, regs f.p 2, [], true),
        (.tfsetOvcur f, f.g, .copy, regs f.p 2, [], true), (.tfget f, f.g, .copy, regs f.p 2, [], true),
        (.mma o, o.g, .matrix, regs o.wo 3, [], true), (.mbound b, b.g, .bound, regs b.wo 3, [.w b.wd.toNat], false),
        (.mzero z, z.g, .matrix, [], [], true), (.mzeroX4 z, z.g, .matrix, [], [], true),
        (.mlatK l, l.g, .matrix, [], [], true), (.mlatV l, l.g, .matrix, [], [], true),
        (.mstat k, k.g, .matrix, [], [.w k.d.toNat, .w (k.d.toNat + 1)], true)] :
        List (Instr × UGuard × EngineUnit × List Word × List RegName × Bool)),
      (s.uholds x.2.1 = false → exec x.1 s = .next s) ∧
      (s.uholds x.2.1 = true → waits x.1 x.2.2.1 x.2.2.2.1 → exec x.1 s = .next s.holdWord) ∧
      (s.uholds x.2.1 = true → ¬ waits x.1 x.2.2.1 x.2.2.2.1 → ∃ t, exec x.1 s = .next t ∧
        Issues s t x.1 x.2.2.1 x.2.2.2.1 x.2.2.2.2.1 x.2.2.2.2.2 ∧
        (structWords x.1 ≠ 0 → (x.2.2.2.1.getD 0 0).toNat % 64 ≠ 0 → ∃ c : Cmd, t.cmds.get? s.nextId = some c ∧
          c.fault = some (4, 0, x.2.2.2.1.getD 1 0 ++ x.2.2.2.1.getD 0 0)))) ∧
    (s.uholds m.g = false → exec (.cpym m) s = .next s) ∧
    (s.uholds m.g = true → mayGang → waits (.cpym m) .copy (regs m.wp 2) → exec (.cpym m) s = .next s.holdWord) ∧
    (s.uholds m.g = true → mayGang → ¬ waits (.cpym m) .copy (regs m.wp 2) →
      ∃ t, exec (.cpym m) s = .next t ∧ Issues s t (.cpym m) .copy (regs m.wp 2) [] true) ∧
    (s.uholds m.g = true → ¬ mayGang → exec (.cpym m) s = .next (s.trap s.focus.wid
      ⟨2, 0, s.focus.hdr.zeroExtend 64, none, some s.focus.idx, none, false, s.focus.threads, .rpc⟩))

/-- R175 to R181, R111, R112, R355, R42: the life of a command of the copy engine, the drives and the work lists. It starts
when its turn in the engine, its range-lock entry and its warp's older accesses let it, and not before; a command that may
complete completes with what its transfer made of memory and tile memory; a fault found before the first access gives
its SETB flag an error status with cause, reason and address. An event record that fits the queue is appended and ends its
command; one that does not waits, and so does the reading of the queue's counts while Graft holds it. SETA clears once no source is unread. Counters past a limit make trap 0x0A due, one trap for all of them. The model's
choices: what a warp's older accesses are for a command (log entry 33), that a transfer's unsynchronised parts show before it
completes (log entry 25, `moveData` being what is left at the end), the status of a command without a SETB flag (log entries 31,
43), when sources count as read (log entry 20) and where a record is written (log entry 42). -/
def Obligations.EngineCommandLife : Prop :=
  ∀ (s : State) (id wid flag cid : Nat) (c : Cmd), s.cmds.get? id = some c → (s.warps.get? c.wid).isSome = true →
    let read := c.srcPending = false ∧ ∀ e ∈ s.warps, e.1 = c.wid → ∀ q ∈ e.2.ops, q.1 = id → q.2.srcPending = false
    (c.unit ≠ .matrix → c.unit ≠ .bound → read → c.st = .queued → c.fault = none →
      if s.copyTurn id c = true ∧ s.lockClear id c = true ∧ s.storesDone id c = true then
        ∃ t d, exec (.engineCommandStart id) s = .next t ∧ t.cmds.get? id = some d ∧ d.st = .started ∧ d.ins = c.ins ∧
          d.cut = some s.nextId ∧ ((∀ o, c.ins ≠ .cpym o) → t.mem = s.mem) ∧ ((∀ o, c.ins ≠ .append o) → t.warps = s.warps)
      else exec (.engineCommandStart id) s = .next s) ∧
    (c.unit = .copy → read → (∃ e ∈ s.cmds, e.1 < id ∧ e.2.core = c.core ∧ e.2.unit = .copy) →
      exec (.engineCommandStart id) s = .next s) ∧
    (∀ u ev, s.mayComplete id c = true → s.moveData id c = (u, ev, none) → (∀ n ∈ ev, n = 0) → ringOf c.ins = none →
      cmdEq c.ins = false → gangSignal c.ins = false →
      ∃ t, exec (.engineCommandComplete id) s = .next t ∧ t.mem = u.mem ∧ t.blocks = u.blocks ∧ Finished t id c) ∧
    (∀ u ev, s.mayComplete id c = true → s.moveData id c = (u, ev, none) → (∀ n ∈ ev, n = 0) → ringOf c.ins = none →
      cmdEq c.ins = true → gangSignal c.ins = false →
      ∃ t d, exec (.engineCommandComplete id) s = .next t ∧ t.mem = u.mem ∧ t.cmds.get? id = some d ∧ d.st = .finishing ∧
        (t.ctx c.cid).evq = (u.ctx c.cid).evq ++ [⟨c.record 0, some id, none⟩]) ∧
    (∀ f, c.unit ≠ .matrix → c.unit ≠ .bound → read → c.st = .queued → c.fault = some f → f.1 ≠ 0x10 →
      s.copyTurn id c = true → cmdEq c.ins = false → (s.warp c.wid).ferr.get? (c.setB.getD 12) = none →
      ∃ t, exec (.engineFault id) s = .next t ∧ t.mem = s.mem ∧ Finished t id c ∧
        (t.warp c.wid).ferr.get? (c.setB.getD 12) = some ⟨if f.1 = 0x11 then 0x11 else 8, f.1, f.2.1, f.2.2⟩ ∧
        ∀ n, c.setB = some n → n < 12 → (t.warp c.wid).busy.getLsbD n = false) ∧
    (∀ u, (s.ctx cid).evq = [⟨c.record 0, some id, none⟩] → s.releasedBefore 3 id c = true →
      (∀ e ∈ s.warps, ∀ d n, e.2.blocked ≠ some (.event d n)) →
      (s.readHeld (s.jobCore cid) cid (s.eqBase cid) 16 = true → exec (.eventAppend cid) s = .next s) ∧
      (s.readHeld (s.jobCore cid) cid (s.eqBase cid) 16 = false →
        s.appendRecord (s.jobCore cid) cid (c.record 0) = .ok none → ∃ t, exec (.eventAppend cid) s = .next t ∧
        t.mem = s.mem ∧ t.cmds = s.cmds ∧ (t.ctx cid).evq = (s.ctx cid).evq) ∧
      (s.readHeld (s.jobCore cid) cid (s.eqBase cid) 16 = false → s.appendRecord (s.jobCore cid) cid (c.record 0) = .ok (some u) → ∃ t, exec (.eventAppend cid) s = .next t ∧
        t.mem = u.mem ∧ (t.ctx cid).evq = [] ∧ t.cmds.get? id = none)) ∧
    (flag < 12 → ∃ t, exec (.setaFlagClear wid flag) s = .next t ∧ t.mem = s.mem ∧
      (∀ e ∈ (t.warp wid).ops, e.2.setA = some flag → e.2.srcPending = false) ∧
      (s.clauseHolds wid flag = false → s.completesUnder wid flag = false → (t.warp wid).busy.getLsbD flag = false)) ∧
    (∀ x, (s.warps.get? wid).isSome = true → (s.warp wid).crossing = some x →
      ∃ t, exec (.conversionLimitCrossing wid) s = .next t ∧ t = { s with warps := t.warps } ∧
        t.warp wid = { s.warp wid with crossing := none, pend0A := some (match (s.warp wid).pend0A with
          | none => x
          | some p => ⟨p.cause ||| x.cause, p.addr⟩) })

/-- R184 to R188, R190, R191, R195 to R197, R99, R102, R200, R201: the bytes that each transfer moves. The walk of a copy visits
every index tuple once, at the addresses of R186. A write of the walk carries its elements as R185 converts them, each write
in its turn, but for bytes that a later one writes too (`transferPart`), and a CPY into tile memory that completes at once makes them all, the later of two writes to a
byte prevailing (R188); a CPYM carries them to its targets, and one with a
target that has no block takes a fault, cause 0x06 (the model's choice, log entry 34). A record that ENC writes reads back as the terms of its elements,
which are those of the source values in the list's source format; the scale of a block is the least that holds its largest
magnitude. DECT writes each element's sum of terms in the destination format; a byte that an earlier row's element is
written to as well ends with either (R92; as a free value says, log entry 69). An SREAD writes the drive's data, an SWRITE
sends the memory's. An MMA may read a byte of its sources before it completes (R178, R327). The model's choice: until a command completes other cores may find any part of its writes made (log entry
25). -/
def Obligations.Transfers : Prop :=
  (∀ (r : Shape), r.bad = false → r.order.flatten.Nodup ∧
    (∀ e, e ∈ r.order.flatten ↔ e.length = 7 ∧ ∀ j, j < 7 → e.getD j 0 < r.n j) ∧
    ∀ e : List Nat,
      r.srcAddr e = (r.sbase.toNat : Int) + ((List.range 7).map fun j => (e.getD j 0 : Int) * r.s j).sum +
        (if r.bits.1 = 4 then ((e.getD 0 0 / 2 : Nat) : Int) else 0) ∧
      r.dstAddr e = (r.dbase.toNat : Int) + ((List.range 7).map fun j => (e.getD (r.perm j) 0 : Int) * r.d j).sum +
        (if r.bits.2 = 4 then ((e.getD 0 0 / 2 : Nat) : Int) else 0)) ∧
  (∀ (s : State) (id : Nat) (c : Cmd), s.cmds.get? id = some c → (s.blocks.get? c.blk).isSome = true →
    let r : Shape := c.words
    let at_ := fun (g : List (List Nat)) => r.dstAddr (g.headD [])
    let apart := fun (g h : List (List Nat)) => at_ g + r.dstBytes ≤ at_ h ∨ at_ h + r.dstBytes ≤ at_ g
    (∀ o k g bs, c.ins = .cpy o → s.mayAccess id c = true → r.bad = false → r.order[k]? = some g →
      s.mayMove c r k = true → s.CopyBytes c r g bs →
      (∀ i : Nat, i < r.dstBytes → meet ((s.noteElems c r g).placesOf c r.dstTile (at_ g + (i : Int)) 1)
        (((s.noteElems c r g).putPlaces c r).drop (k + 1)).flatten = false) →
      let t := s.transferPart id k
      let partly := s.freeBool (21000000 + k)
      (r.dstTile = true → 0 ≤ at_ g → at_ g + r.dstBytes ≤ s.cmdTile c →
        if partly then TilePartly s t c.blk (at_ g).toNat bs else TileWritten s t c.blk (at_ g).toNat bs) ∧
      (∀ key l, r.dstTile = false → s.ctxSegments c.core c.cid .write (BitVec.ofInt 64 (at_ g)) r.dstBytes = .ok l →
        (s.noteElems c r g).ctxSegments c.core c.cid .write (BitVec.ofInt 64 (at_ g)) r.dstBytes = .ok [(key, r.dstBytes)] →
        if partly then ∀ j, Memory.get t.mem j = Memory.get s.mem j ∨
            key ≤ j ∧ j < key + bs.length ∧ Memory.get t.mem j = bs.getD (j - key) 0
          else t.mem = Memory.setList s.mem key bs)) ∧
    (∀ o u ev, c.ins = .cpy o → r.bad = false → r.mcast = 0 → r.dstTile = true → c.moved = [] →
      s.moveData id c = (u, ev, none) → u.mem = s.mem ∧
      (∀ pre g post bs, r.order = pre ++ g :: post → (∀ h ∈ post, apart g h) → 0 ≤ at_ g →
        at_ g + r.dstBytes ≤ s.cmdTile c → (s.noteElems c r r.order.flatten).CopyBytes c r g bs →
        u.tileBytes c.blk (at_ g).toNat bs.length = bs) ∧
      ∀ j : Nat, (∀ g ∈ r.order, ¬ (at_ g ≤ j ∧ (j : Int) < at_ g + r.dstBytes)) → u.tileByte c.blk j = s.tileByte c.blk j) ∧
    (∀ o, c.ins = .cpym o → c.srcPending = false →
      (∀ e ∈ s.warps, e.1 = c.wid → ∀ q ∈ e.2.ops, q.1 = id → q.2.srcPending = false) → c.st = .queued → c.fault = none → c.moved = [] → r.bad = false →
      s.copyTurn id c = true → s.lockClear id c = true → s.storesDone id c = true →
      let v := s.updCmd id fun x => { x with st := .started, cut := some s.nextId }
      ((∃ n ∈ r.targets, v.gangBlock? c n = none) → ∃ t d, exec (.engineCommandStart id) s = .next t ∧ t.mem = s.mem ∧
        t.cmds.get? id = some d ∧ d.fault = some (6, 0, BitVec.ofInt 64 r.dstRange.1)) ∧
      ((∀ n ∈ r.targets, (v.gangBlock? c n).isSome = true) → (v.copyWalk c r).2.1 = none → (∀ g ∈ r.order, 0 ≤ at_ g) →
        ∃ t d, exec (.engineCommandStart id) s = .next t ∧ t.cmds.get? id = some d ∧ d.ranks = r.targets ∧
          (∀ pre g post bs, r.order = pre ++ g :: post → (∀ h ∈ post, apart g h) → v.CopyBytes c r g bs →
            ∀ (k : Nat) x, bs[k]? = some x → ((at_ g).toNat + k, some x) ∈ d.walked) ∧
          ∀ e ∈ d.walked, ∃ g ∈ r.order, at_ g ≤ e.1 ∧ (e.1 : Int) < at_ g + r.dstBytes)) ∧
    (∀ o k ch l t kk (ts : List (List Term)) cur, c.ins = .enc o →
      let q := regionOf c o
      let f := q.o2 + k
      let n := (ts.map List.length).sum
      let at_ := q.dst.rowAddr f + (q.o3 + ch) * q.dst.slot
      let spillAt := q.dst.base + 16 * (q.dst.ovoff + cur)
      let units := ceilDiv (n - (q.dst.slot - 8)) 16
      q.left c = (k, ch) :: l → q.dst.space = .tile → q.dst.scaled = false →
      (s.mayAccess id c = true ∧ s.freeBool (21000000 + kk) = false ∧ t = s.transferPart id kk ∨
        l = [] ∧ ∃ ev, s.moveData id c = (t, ev, none)) →
      at_ + q.dst.slot ≤ s.cmdTile c → ts.length = 16 →
      (∀ i, i < 16 → if q.dst.dim 0 ≤ 16 * (q.o3 + ch) + i then ts.getD i [] = [] else
        EncodesAs (sourceFmt q.dst.fmt)
          (denseVal q.src.fmt (s.accWord c.blk q.src.base (512 * (q.o0 + k) + q.o1 + 16 * ch + i)).toNat) (ts.getD i [])) →
      (∀ x ∈ ts, x.length ≤ 8) → n ≤ 127 → (∀ x ∈ ts.flatten, ∀ y ∈ ts.flatten, x.2 - y.2 ≤ 63) →
      (∀ x ∈ ts.flatten, ∃ y ∈ ts.flatten, -128 ≤ y.2) →
      (n ≤ q.dst.slot - 4 ∨ c.units = some cur ∧ cur + units ≤ q.dst.ovcap ∧ spillAt + 16 * units ≤ s.cmdTile c ∧
        (spillAt + 16 * units ≤ at_ ∨ at_ + q.dst.slot ≤ spillAt)) →
      t.readRecord c q.dst f (q.o3 + ch) = .ok ts ∧ t.mem = s.mem ∧
        ∀ j, (j < at_ ∨ at_ + q.dst.slot ≤ j) → (n ≤ q.dst.slot - 4 ∨ j < spillAt ∨ spillAt + 16 * units ≤ j) →
          t.tileByte c.blk j = s.tileByte c.blk j) ∧
    (∀ o k ch l t kk els, c.ins = .dect o →
      let q := regionOf c o
      let n := (denseBits q.dst.fmt).getD 8 / 8
      let at_ := fun (i : Nat) => q.dst.rowAddr (q.o2 + k) + (q.o3 + 16 * ch + i) * n
      let writes := fun (i : Nat) => i < 16 ∧ 16 * (q.o1 + ch) + i < q.src.dim 0
      q.left c = (k, ch) :: l → q.dst.space = .tile → q.src.scaled = false → q.dst.fmt ∈ [0x01, 0x04, 0x05, 0x08, 0x09] →
      (s.mayAccess id c = true ∧ s.freeBool (21000000 + kk) = false ∧ t = s.transferPart id kk ∨
        l = [] ∧ ∃ ev, s.moveData id c = (t, ev, none)) →
      s.readRecord c q.src (q.o0 + k) (q.o1 + ch) = .ok els → (∀ i, writes i → at_ i + n ≤ s.cmdTile c) →
      t.mem = s.mem ∧
      (∀ i y b, writes i → DecodesTo q.dst.fmt 0x7F (els.getD i []) y → b < n →
        t.tileByte c.blk (at_ i + b) = (toBytes n y.res.toNat).getD b 0 ∨
          q.twice k (at_ i + b) = true ∧ t.tileByte c.blk (at_ i + b) = s.tileByte c.blk (at_ i + b)) ∧
      ∀ j, (∀ i, writes i → j < at_ i ∨ at_ i + n ≤ j) → t.tileByte c.blk j = s.tileByte c.blk j) ∧
    (c.hazy = [] → c.staged = [] →
      (∀ o data u, c.ins = .sread o → data.length = reqBytes c.words →
        s.ctxWrite c.core c.cid (reqVa c.words) data = .ok u → s.storageData c true data = (u, none)) ∧
      ∀ o bs, s.ctxRead c.core c.cid (reqVa c.words) (reqBytes c.words) = .ok bs →
        (c.ins = .swrite o → ∃ u, s.storageData c true [] = (u, none) ∧ u.mem = s.mem ∧ u.outbox =
          s.outbox ++ [.driveWrite (reqDrive c.words) (reqNsid c.words) (reqSlba c.words) false bs]) ∧
        (c.ins = .swriteFua o → ∃ u, s.storageData c true [] = (u, none) ∧ u.mem = s.mem ∧ u.outbox =
          s.outbox ++ [.driveWrite (reqDrive c.words) (reqNsid c.words) (reqSlba c.words) true bs])) ∧
    (∀ (va : DWord) (bs : List Byte) (i : Nat), i < bs.length →
      (c.early va bs)[i]? = some ((Sparse.get none c.staged (va.toNat + i)).getD (bs.getD i 0))) ∧
    ∀ o k b, c.ins = .mma o → s.mayAccess id c = true → s.lockClear id c = true → s.storesDone id c = true →
      (∃ l ∈ (s.core c.core).locks, l.cmd = id ∧ ∃ r ∈ l.ranges, r.space = .global ∧ r.dst = false ∧ r.lo ≤ k ∧ k ≤ r.hi) →
      Sparse.get none c.staged k = none → s.ctxRead c.core c.cid (BitVec.ofNat 64 k) 1 = .ok [b] →
      let t := s.transferPart id k
      t.mem = s.mem ∧ ∃ d, t.cmds.get? id = some d ∧ Sparse.get none d.staged k = some b) ∧
  (∀ f ∈ ([1, 4, 5, 6, 8] : List Nat), ∀ (v : Val) (e : BitVec 8), e ≠ 0xFF →
    (∀ sg n d, v = .fin sg n d → 0 < d) → EncodesAs f v (encElem f e false v).1 ∧
    EncodesAs f (scaledBy true e v) (encElem f e true v).1) ∧
  ∀ f ∈ ([1, 4, 5, 6, 8] : List Nat), ∀ (vs : List Val) (n d : Nat), 0 < n → 0 < d → (∃ sg, Val.fin sg n d ∈ vs) →
    (∀ sg m k, Val.fin sg m k ∈ vs → 0 < k ∧ m * d ≤ n * k) → (∀ v ∈ vs, v ≠ .nan ∧ ∀ sg, v ≠ .inf sg) →
    let e := encScale f vs
    let holds := fun (x : Int) => Val.lt (Val.mul (.fin false (fmtMax f) 1) (.dyadic false 1 (x - 127))) (.fin false n d) = false
    e.toNat ≤ 254 ∧ (holds e.toNat ∨ e.toNat = 254) ∧ (e = 0 ∨ ¬ holds ((e.toNat : Int) - 1))

/-- R198, R199, R202 to R206, R201, R191 to R193, R179, R408: what commands of class C do as they complete. TFSET writes what
is left of the entry's memory image, each word once, and drops every core's copy of it, TFSET.ovcur its OVCUR alone; TFGET copies the image; DRAIN takes up to
32 items from the front of its list; QUIESCE arms the context's detector, which later signals its phaser; an APPEND's lane
group joins its list's end when it fits, and waits while it does not; a storage command's status word is written, and a
status that is not 0 is cause 0x15; at a drive that is gone it completes as Command Abort Requested; a multicast delivery puts
the walked bytes into its target's tile memory, a saved block's counter into its control image; a CPYM's gang signal arrives
as a release, or is cause 0x18 if the registration is gone. The model's choices: what a detector does whose warp's registration
is gone or full (log entry 43), when a group that waits is appended (log entry 37), where a list lies (log entry 32) and how a
multicast takes its entry (log entry 36). -/
def Obligations.EngineCommandResults : Prop :=
  ∀ (s : State) (id : Nat) (c : Cmd), s.cmds.get? id = some c → (s.warps.get? c.wid).isSome = true →
    let w := s.warp c.wid
    (s.mayComplete id c = true →
      (∀ o (u : Nat → State), c.ins = .tfset o → u 0 = s →
        (∀ i, i < 8 → if i ∈ c.moved then u (i + 1) = u i
          else (u i).ctxWrite c.core c.cid (s.tftVa c.cid o.t.toNat + BitVec.ofNat 64 (8 * i))
            (bytes64 (c.words.getD i 0)) = .ok (u (i + 1))) →
        ∃ t, exec (.engineCommandComplete id) s = .next t ∧ t.mem = (u 8).mem ∧ Finished t id c ∧
          ∀ k, (t.core k).tft.get? (256 * c.cid + o.t.toNat) = none) ∧
      (∀ o, c.ins = .tfsetOvcur o → 7 ∈ c.moved →
        ∃ t, exec (.engineCommandComplete id) s = .next t ∧ t.mem = s.mem ∧ Finished t id c ∧
          ∀ k, (t.core k).tft.get? (256 * c.cid + o.t.toNat) = none) ∧
      (∀ o u, c.ins = .tfsetOvcur o → 7 ∉ c.moved →
        s.ctxWrite c.core c.cid (s.tftVa c.cid o.t.toNat + 56) ((bytes64 (c.words.getD 7 0)).take 4) = .ok u →
        ∃ t, exec (.engineCommandComplete id) s = .next t ∧ t.mem = u.mem ∧ Finished t id c ∧
          ∀ k, (t.core k).tft.get? (256 * c.cid + o.t.toNat) = none) ∧
      (∀ o bs u, c.ins = .tfget o → s.ctxRead c.core c.cid (s.tftVa c.cid o.t.toNat) 64 = .ok bs →
        (s.noteCtxRead c.core c.cid (s.tftVa c.cid o.t.toNat) 64).ctxWrite c.core c.cid c.structVa bs = .ok u →
        ∃ t, exec (.engineCommandComplete id) s = .next t ∧ t.mem = u.mem ∧ Finished t id c) ∧
      (∀ o q m, c.ins = .drain o → w.op? id = some q → w.unspec = [] → namedAs o.n.toNat m →
        q.dests = [⟨.v o.d.toNat, BitVec.allOnes 32⟩, ⟨m, 1⟩] →
        let n := ((c.ops.getD 0 0).extractLsb' 0 11).toNat
        let l := s.list c.cid n
        s.listFault c .read n = none → ∃ t, exec (.engineCommandComplete id) s = .next t ∧ t.mem = s.mem ∧ Finished t id c ∧
          t.list c.cid n = l.drop 32 ∧ (t.warp c.wid).raw m 0 = BitVec.ofNat 32 (Nat.min 32 l.length) ∧
          (t.warp c.wid).drainBusy = decide (l ≠ []) ∧
          ∀ j x, j < 32 → l[j]? = some x → (t.warp c.wid).getV o.d.toNat j = x.value) ∧
      (∀ o, c.ins = .quiesce o → s.signalling c.wid o.x.toNat = true → (s.ctx c.cid).detector = none →
        ∃ t, exec (.engineCommandComplete id) s = .next t ∧ Finished t id c ∧
          (t.ctx c.cid).detector = some ⟨c.wid, c.blk, o.x.toNat⟩)) ∧
    (∀ d p, (s.ctx c.cid).detector = some d → s.quiescent c.cid = true → s.releasedAt d.wid (phScope d.phaser) = true →
      (s.warp d.wid).blk = d.blk → s.blockPhaser d.blk d.phaser = some p →
      (∀ r, p.reg? d.wid = some r → r.signals = true → r.a ≠ 255 → ∃ t, exec (.terminationDetectorSignal c.cid) s = .next t ∧
        t.mem = s.mem ∧ (t.ctx c.cid).detector = none ∧
        (t.blockPhaser d.blk d.phaser).map (·.phase) = some (p.signal d.wid).phase) ∧
      (∀ r, p.reg? d.wid = some r → r.a = 255 → exec (.terminationDetectorSignal c.cid) s = .next s) ∧
      (p.reg? d.wid = none → exec (.terminationDetectorSignal c.cid) s =
        .next (s.updCtx c.cid fun x => { x with detector := none }))) ∧
    (∀ o g, c.ins = .append o → c.st = .started → c.fault = none → c.groups = [g] → s.releasedBefore 3 id c = true →
      s.appendAhead id c g.1 = false →
      (s.listCapacity c.cid < (s.list c.cid g.1).length + g.2.length → exec (.appendGroup id) s = .next s) ∧
      ((s.list c.cid g.1).length + g.2.length ≤ s.listCapacity c.cid → c.det = false →
        ∃ t d, exec (.appendGroup id) s = .next t ∧ t.list c.cid g.1 = s.list c.cid g.1 ++ g.2 ∧
          (∀ n, n ≠ g.1 → t.list c.cid n = s.list c.cid n) ∧ t.cmds.get? id = some d ∧ d.groups = [] ∧ t.mem = s.mem)) ∧
    (∀ (sf : BitVec 15) data u v, c.unit = .storage → c.st = .started → c.fault = none → ringOf c.ins = none →
      cmdEq c.ins = false → c.signalDue = false →
      (s.drivesUp.getLsbD (reqDrive c.words) = true → s.storageData c (sf == 0) data = (u, none) →
        u.ctxWrite c.core c.cid (c.structVa + 0x20) (toBytes 4 (2 ^ 31 + sf.toNat)) = .ok v →
        w.ferr.get? (c.setB.getD 12) = none →
        ∃ t, exec (.storageCompletion id sf data) s = .next t ∧ t.mem = v.mem ∧ t.outbox = v.outbox ∧ Finished t id c ∧
          (t.warp c.wid).ferr.get? (c.setB.getD 12) = if sf = 0 then none else some ⟨8, 0x15, 0, 0⟩) ∧
      (s.drivesUp.getLsbD (reqDrive c.words) = false → exec (.storageCompletion id sf data) s =
        exec (.storageCompletion id 7 []) s)) ∧
    (∀ rank b x, c.st = .started → c.fault = none → rank ∈ c.ranks → s.gangBlock? c rank = some b →
      s.blocks.get? b = some x →
      (x.life ≠ .saved → x.core = c.core → (c.walked.map (·.1)).Nodup → ∃ t y d,
        exec (.multicastDelivery id rank) s = .next t ∧
        t.mem = s.mem ∧ (∀ e ∈ c.walked, ∀ v, e.2 = some v → t.tileByte b e.1 = v) ∧ t.blocks.get? b = some y ∧ y.inbound = x.inbound - 1 ∧
        t.cmds.get? id = some d ∧ d.ranks = c.ranks.filter (· != rank)) ∧
      (x.life ≠ .saved → x.core ≠ c.core → s.multicastLock x.core id b = false → s.freeLocks x.core ≠ 0 →
        ∃ t, exec (.multicastDelivery id rank) s = .next t ∧ t = { s with cores := t.cores } ∧
          t.multicastLock x.core id b = true) ∧
      (∀ img, x.life = .saved → x.saveImage = some img → ∃ t y, exec (.multicastDelivery id rank) s = .next t ∧
        t.blocks.get? b = some y ∧ y.inbound = x.inbound - 1 ∧
        t.memBytes (s.imageAddr img + 0x1C0010) 4 = toBytes 4 (x.inbound - 1))) ∧
    ∀ o p, c.ins = .cpym o → c.signalDue = true → c.st = .finishing → o.eq = false →
      s.blockPhaser c.blk o.gp.toNat = some p →
      (∀ r, p.reg? c.wid = some r → r.signals = true → r.a ≠ 255 → s.releasedBefore 1 id c = true →
        ∃ t, exec (.cpymGangSignal id) s = .next t ∧ t.mem = s.mem ∧ t.cmds.get? id = none ∧
        (t.blockPhaser c.blk o.gp.toNat).map (·.phase) = some (p.signal c.wid).phase) ∧
      (∀ r, p.reg? c.wid = some r → r.signals = true → r.a = 255 ∨ s.releasedBefore 1 id c = false →
        exec (.cpymGangSignal id) s = .next s) ∧
      (p.reg? c.wid = none → w.ferr.get? (c.setB.getD 12) = none → ∃ t, exec (.cpymGangSignal id) s = .next t ∧
        t.mem = s.mem ∧ t.cmds.get? id = none ∧ (t.warp c.wid).ferr.get? (c.setB.getD 12) = some ⟨8, 0x18, 0, 0⟩)

/-- R279, R281, R286, R288, R285, R273, R274, R282: the life of a command of class M. The head of the matrix queue starts,
an MMA when its sub-arrays are idle; an MMA leaves its banks as the chunk steps say and records its cycles; MZERO zeroes
its bank or four; MSTAT reads the recorded counts; MBOUND gives the bound, at most 2^32 − 1; MLAT makes its projection
the warp's current one, and a reload brings it back under a new load; an MMA with a latent stage waits while its projection
is in no half; a fault found by the checks gives the SETB flag an error status at the head of the queue. No byte of memory
changes. The model's choice: which half a load takes where R274 leaves it open, and when a reload is made (log entry 38). -/
def Obligations.MatrixCommandEvents : Prop :=
  ∀ (s : State) (id : Nat) (c : Cmd), s.cmds.get? id = some c → (s.warps.get? c.wid).isSome = true →
    let w := s.warp c.wid
    let read := c.srcPending = false ∧ ∀ e ∈ s.warps, e.1 = c.wid → ∀ q ∈ e.2.ops, q.1 = id → q.2.srcPending = false
    (c.unit = .matrix → read → c.st = .queued → c.fault = none →
      (s.queueHead id c = false → exec (.mmaStart id) s = .next s) ∧
      (s.queueHead id c = true → ∀ o, c.ins = .mma o → o.lat = 0 →
        (s.busySubs c.core = 0 → ∃ t d, exec (.mmaStart id) s = .next t ∧ t = { s with cmds := t.cmds } ∧
          t.cmds.get? id = some d ∧ d.st = .started ∧ d.subs = if o.shape = 0 then 1 else 15) ∧
        (o.shape ≠ 0 → s.busySubs c.core ≠ 0 → exec (.mmaStart id) s = .next s)) ∧
      (s.queueHead id c = true → ∀ o, c.ins = .mma o → o.lat ≠ 0 → s.halfOf c = none → exec (.mmaStart id) s = .next s) ∧
      (s.queueHead id c = true → (∀ o, c.ins ≠ .mma o) → ∃ t d, exec (.mmaStart id) s = .next t ∧
        t = { s with cmds := t.cmds } ∧ t.cmds.get? id = some d ∧ d.st = .started)) ∧
    (∀ o p x b, c.ins = .mma o → s.mmaReady id c = true → s.mmaOutcome c o = .ok (p, x) → o.re = false →
      c.signalDue = false → s.blocks.get? c.blk = some b → ∃ t b', exec (.mmaComplete id) s = .next t ∧ t.mem = s.mem ∧
        Finished t id c ∧ t.blocks.get? c.blk = some b' ∧ b'.acc.length = b.acc.length ∧
        (∀ j off bank, (shapeOffs o.shape.toNat)[j]? = some off → b.acc[o.ab.toNat + j]? = some bank → ∃ n,
          b'.acc[o.ab.toNat + j]? = some { bankAfter p o.z x off bank with modelled := some (p.cycles x).1, measured := some n } ∧
          (p.cycles x).1 ≤ n) ∧
        ∀ j, (j < o.ab.toNat ∨ o.ab.toNat + shapeBanks o.shape.toNat ≤ j) → b'.acc[j]? = b.acc[j]?) ∧
    (s.mayComplete id c = true →
      (∀ y ∈ ([(.mzero, 1), (.mzeroX4, 4)] : List ((MZ → Instr) × Nat)), ∀ o b, c.ins = y.1 o →
        s.blocks.get? c.blk = some b → ∃ t b', exec (.engineCommandComplete id) s = .next t ∧ t.mem = s.mem ∧
          Finished t id c ∧ t.blocks.get? c.blk = some b' ∧
          ∀ j, b'.acc[j]? = if o.bank.toNat ≤ j ∧ j < o.bank.toNat + y.2 then b.acc[j]?.map fun _ => Bank.zero else b.acc[j]?) ∧
      ∀ o b k n0 n1 cyc took, c.ins = .mstat o → k.modelled = some cyc → k.measured = some took → o.d.toNat % 2 = 0 → s.blocks.get? c.blk = some b → b.acc[o.bank.toNat]? = some k →
        namedAs o.d.toNat n0 → namedAs (o.d.toNat + 1) n1 → Awaits s c.wid id [n0, n1] → (n0 = .w o.d.toNat ↔ n1 = .w (o.d.toNat + 1)) →
        ∃ t, exec (.engineCommandComplete id) s = .next t ∧ t.mem = s.mem ∧ Finished t id c ∧
          (t.warp c.wid).raw n0 0 = BitVec.ofNat 32 cyc ∧ (t.warp c.wid).raw n1 0 = BitVec.ofNat 32 took) ∧
    (∀ o p n, c.ins = .mbound o → c.st = .queued → c.fault = none → read → c.signalDue = false →
      planBound c o = some p → namedAs o.wd.toNat n → Awaits s c.wid id [n] →
      ∃ t, exec (.mboundResult c.wid id) s = .next t ∧ t.mem = s.mem ∧ Finished t id c ∧
        (t.warp c.wid).raw n 0 = BitVec.ofNat 32 (Nat.min p.bound (2 ^ 32 - 1))) ∧
    (∀ tp tl v rows u, mlatOf c.ins = some (tp, tl, v) → s.mlatReady id c = true → c.signalDue = false →
      s.projRows c (tensorOf c.tft tp) = .ok rows → s.placeHalf c.core ⟨id, rows⟩ = some u →
      ∃ t, exec (.mlatLoadComplete id) s = .next t ∧ t.mem = s.mem ∧ Finished t id c ∧
        (t.warp c.wid).proj = some ⟨tp, tl, v, id⟩ ∧ ⟨id, rows⟩ ∈ (t.core c.core).halves ∧
        (t.core c.core).halves.length ≤ Nat.max 2 (s.core c.core).halves.length) ∧
    (∀ p rows u, read → s.reloads id c = some p → s.projRows c (tensorOf c.tft p.entry) = .ok rows →
      s.placeHalf c.core ⟨s.nextId, rows⟩ = some u → ∃ t, exec (.projectionReload id) s = .next t ∧ t.mem = s.mem ∧
        t.cmds.get? id = some { c with proj := some { p with load := s.nextId } } ∧
        ⟨s.nextId, rows⟩ ∈ (t.core c.core).halves) ∧
    ∀ f, c.unit = .matrix → read → c.st = .queued → c.fault = some f → f.1 ≠ 0x10 → s.queueHead id c = true →
      cmdEq c.ins = false → w.ferr.get? (c.setB.getD 12) = none → ∃ t, exec (.matrixFault id) s = .next t ∧ t.mem = s.mem ∧
        Finished t id c ∧ (t.warp c.wid).ferr.get? (c.setB.getD 12) = some ⟨if f.1 = 0x11 then 0x11 else 8, f.1, f.2.1, f.2.2⟩

/-- R45, R50 to R52, R271: the terms of an exact value, highest first and never in neighbouring places, sum to it; an FP32
accumulator receives a chunk's term-products, each truncated at the chunk's window, whose grain follows the highest term
exponent `a` and the largest weight's exponent `b`, by one exact addition and one rounding; an INT32 accumulator adds them
truncated to integers, wrapping; an operand that is a NaN or an infinity makes the element the canonical NaN; a chunk without
terms, or without a weight that is not zero, contributes nothing to an FP32 accumulator; MBOUND's bound follows its chunks and
its format's largest number of terms. -/
def Obligations.MatrixArithmetic : Prop :=
  (∀ (sg : Bool) (n k : Nat) ts, termsOf (.fin sg n (2 ^ k)) = some ts → (termSum ts).eqv (.fin sg n (2 ^ k)) = true ∧
    ∀ i x y, ts[i]? = some x → ts[i + 1]? = some y → y.2 + 2 ≤ x.2) ∧
  (∀ (acc : Word) (row : List (List Term)) (ws : List (Bool × Nat × Nat)), row.length = ws.length → (∀ w ∈ ws, 0 < w.2.2) →
    let grains := fun (t : Term) (w : Bool × Nat × Nat) (lsb : Int) =>
      w.2.1 * 2 ^ (t.2 - lsb).toNat / (w.2.2 * 2 ^ (lsb - t.2).toNat)
    let sum := fun (lsb : Int) => ((row.zip ws).map fun e =>
      (e.1.map fun t => if t.1 != e.2.1 then -(grains t e.2 lsb : Int) else (grains t e.2 lsb : Int)).sum).sum
    let within := fun (w : Bool × Nat × Nat) (k : Int) => w.2.1 * 2 ^ (-k).toNat ≤ w.2.2 * 2 ^ k.toNat
    let col := ws.map fun w => Val.fin w.1 w.2.1 w.2.2
    (∀ a b : Int, (∃ t ∈ row.flatten, t.2 = a) → (∀ t ∈ row.flatten, t.2 ≤ a) → (∀ w ∈ ws, within w b) →
      (∃ w ∈ ws, ¬ within w (b - 1)) →
      contribute false acc (row.map some) col = if sum (a + b - 19) = 0 then acc else
        f32Word .rne (Val.add .rne (f32Val acc)
          (.dyadic (decide (sum (a + b - 19) < 0)) (sum (a + b - 19)).natAbs (a + b - 19)))) ∧
    contribute true acc (row.map some) col = acc + BitVec.ofInt 32 (sum 0)) ∧
  (∀ (acc : Word) (xs ys : List Int), xs.length = ys.length →
    contribute true acc (xs.map fun x => termsOf (.ofInt x)) (ys.map .ofInt) =
      acc + BitVec.ofInt 32 ((xs.zip ys).map fun e => e.1 * e.2).sum) ∧
  (∀ int n old row col, (none ∈ row ∨ ∃ v ∈ col, v.isNan = true ∨ v.isInf = true) →
    accStep int n old row col = some 0x7FC00000) ∧
  (∀ acc row col, ((∀ e ∈ row, e = some []) ∨ ∀ v ∈ col, v.isZero = true) → contribute false acc row col = acc) ∧
  ∀ p : Plan, p.bound = 20 + p.latCycles + (p.kk + 15) / 16 * (16 * tMax p.a.fmt + 2)

/-! ## Class Y -/

/-- R345, R346, R348 to R351: registration, signals and waits on the phasers of a block and its gang, and on grid phasers.
`State.wake` completes the waits that a signal satisfied. A request that takes effect at once on an
idle phaser and leaves every signalling registration with an arrival completes a phase. A signal whose release is not complete, or whose arrival count
is 255, waits where it stands; a form that the registration does not allow is illegal. PHSW signals and then waits: it completes
at once where the phase that its own signal leaves satisfies its wait, and suspends the warp else. The model's choices (log
entry 41): a blocking instruction ends its run even when guarded off, and on a grid phaser only a phase that had completed
before satisfies the wait at once. -/
def Obligations.PhaserInstructions : Prop :=
  ∀ (s : State) (o : YX) (g : YPg) (p : Phaser), (s.warps.get? s.focus.wid).isSome = true → o.x.toNat < 64 →
    g.x = o.x → s.blockPhaser s.self.blk o.x.toNat = some p →
    let n := o.x.toNat
    let wid := s.focus.wid
    let illegal := s.trap wid
      ⟨2, 0, s.focus.hdr.zeroExtend 64, none, some s.focus.idx, none, false, s.focus.threads, .rpc⟩
    let sets := fun (u : State) (q : Phaser) =>
      u = { s with blocks := u.blocks, gangs := u.gangs } ∧ u.blockPhaser s.self.blk n = some q
    (∀ x ∈ ([(.phregSo o, p.register wid .so), (.phregWo o, p.register wid .wo), (.phregSw o, p.register wid .sw),
        (.phdrop o, p.drop wid)] : List (Instr × Phaser)),
      (s.uholds o.g = false → exec x.1 s = .next s) ∧
      (s.uholds o.g = true → ∃ u, exec x.1 s = .next u.wake ∧ sets u x.2)) ∧
    (s.uholds o.g = false → exec (.phsig o) s = .next s ∧ exec (.phwait o) s = .next s.endsRun ∧
      exec (.phsw o) s = .next s.endsRun) ∧ (s.uholds g.g = false → exec (.phget g) s = .next s) ∧
    (∀ m, p.reg? wid = none → (p.idle = false → p.ready = false → p.register wid m =
        { p with regs := p.regs ++ [⟨wid, none, some (.register m), 0, p.phase⟩] }) ∧
      (p.idle = true → (∀ r ∈ p.regs, r.pending = none) → p.register wid m =
        { p with regs := p.regs ++ [⟨wid, some m, none, 0, p.phase⟩] })) ∧
    (∀ m ep, m ≠ .wo → p.regs = [⟨wid, some .wo, none, 1, ep⟩] → (p.register wid m).phase = p.phase + 1) ∧
    (∀ r, p.reg? wid = some r →
      (s.uholds o.g = true → r.signals = true → s.releasedAt wid (phScope n) = true → r.a < 255 →
        ∃ u, exec (.phsig o) s = .next u.wake ∧ sets u (p.signal wid)) ∧
      (s.uholds o.g = true → r.signals = true → (s.releasedAt wid (phScope n) = false ∨ 255 ≤ r.a) →
        exec (.phsig o) s = .next s.holdWord) ∧
      (s.uholds o.g = true → r.signals = false → exec (.phsig o) s = .next illegal) ∧
      (s.uholds o.g = true → r.waits = true → p.phase = r.ep → ∃ t, exec (.phwait o) s = .next t ∧
        t.self.blocked = some (.phaser n) ∧ t.blockPhaser s.self.blk n = some p ∧ t.focus.boundary = true ∧ t.mem = s.mem) ∧
      (s.uholds o.g = true → r.waits = true → p.phase ≠ r.ep → ∃ t, exec (.phwait o) s = .next t ∧
        t.self.blocked = none ∧ t.blockPhaser s.self.blk n = some (p.passed wid) ∧ t.focus.boundary = true ∧ t.mem = s.mem ∧
        (48 ≤ n → (t.core s.self.core).l1 = [])) ∧
      (s.uholds o.g = true → r.waits = false → exec (.phwait o) s = .next illegal) ∧
      (∀ u, s.uholds o.g = true → r.signals = true → r.waits = true → exec (.phsig o) s = .next u →
        u.focus.hold = false → s.focus.hold = false → u.mayPhase n false true = true →
        exec (.phsw o) s = exec (.phwait o) u) ∧
      (s.uholds o.g = true → r.signals = true → r.waits = true →
        ((s.releasedAt wid (phScope n) = false ∨ 255 ≤ r.a) → exec (.phsw o) s = .next s.holdWord) ∧
        (s.releasedAt wid (phScope n) = true → r.a < 255 → s.self.blocked = none →
          let q := p.signal wid
          ∃ t v, exec (.phsw o) s = .next t ∧ t.mem = s.mem ∧ t.focus.boundary = true ∧
            t.self.blocked = (if q.satisfied wid then none else some (.phaser n)) ∧
            t.blockPhaser s.self.blk n = some v ∧ v.phase = q.phase ∧
            v.reg? wid = (if q.satisfied wid then q.passed wid else q).reg? wid ∧
            (48 ≤ n → q.satisfied wid = true → (t.core s.self.core).l1 = []))) ∧
      (s.uholds o.g = true → (r.signals = false ∨ r.waits = false) → exec (.phsw o) s = .next illegal) ∧
      (s.uholds g.g = true → ∃ t x, exec (.phget g) s = .next t ∧ WritesRegs s t (scalarWrites s (.w g.d.toNat) x) ∧
        x.extractLsb' 0 16 = p.phase ∧ x.extractLsb' 16 8 = BitVec.ofNat 8 r.a ∧ x.extractLsb' 24 2 = modeCode r.mode ∧
        x.getLsbD 26 = r.pending.isSome)) ∧
    (∀ r ∈ p.regs, r.wid = wid → r.signals = true →
      ((∀ q ∈ p.regs, q.signals = true → q.a = if q.wid = wid then 0 else 1) → (∀ q ∈ p.regs, q.pending = none) →
        (p.signal wid).phase = p.phase + 1 ∧ ∀ q ∈ (p.signal wid).regs, q.signals = true → q.a = 0) ∧
      ((∃ q ∈ p.regs, q.wid ≠ wid ∧ q.signals = true ∧ q.a = 0) → (p.signal wid).phase = p.phase)) ∧
    ∀ (z : YX) (i : Nat) (gr : Grid), z.x.toNat = 64 + i → s.gridOf? s.self = some gr → i < gr.gr.gphn →
      i < gr.gph.length → s.uholds z.g = true →
      (s.releasedAt wid 3 = true → ∃ t h, exec (.phsig z) s = .next t ∧ t.mem = s.mem ∧ t.warps = s.warps ∧
        t.gridOf? s.self = some h ∧
        (1 ≤ gr.gr.gtgt.getD i 1 → (gr.phaser i).arrivals < gr.gr.gtgt.getD i 1 → h.phaser i =
          if (gr.phaser i).arrivals + 1 = gr.gr.gtgt.getD i 1 then ⟨(gr.phaser i).phase + 1, 0⟩
          else ⟨(gr.phaser i).phase, (gr.phaser i).arrivals + 1⟩)) ∧
      ((gr.phaser i).phase = s.self.gepOf i → ∃ t, exec (.phwait z) s = .next t ∧
        t.self.blocked = some (.phaser z.x.toNat) ∧ t.mem = s.mem) ∧
      ((gr.phaser i).phase ≠ s.self.gepOf i → ∃ t, exec (.phwait z) s = .next t ∧ t.self.blocked = none ∧
        t.self.gepOf i = s.self.gepOf i + 1 ∧ t.mem = s.mem) ∧
      (s.releasedAt wid 3 = false → exec (.phsw z) s = .next s.holdWord) ∧
      (s.releasedAt wid 3 = true → ∃ t h, exec (.phsw z) s = .next t ∧ t.mem = s.mem ∧ t.gridOf? s.self = some h ∧
        h.phaser i = (gr.arrive i).phaser i ∧ if (gr.phaser i).phase = s.self.gepOf i then
          t.self.blocked = some (.phaser z.x.toNat) else t.self.blocked = none ∧ t.self.gepOf i = s.self.gepOf i + 1)

/-- R352, R353: RACQ takes its cursor's stage and advances the cursor, and waits while a producer's stage is not empty or a
consumer's not full; RREL, a release at .blk, makes its cursor's stage full or empty.
R371, R372, R370, R386, R356, R359 to R361: TIME, TWAIT, PLVL, CSRR, CSRW, EVWAIT, EVPOP, LAUNCH, SUCCHINT, PREDWAIT under a
true guard; under a false one none of them has an effect, but the blocking ones still end their run. EVWAIT, EVPOP and LAUNCH
wait while an older acquire of the warp has still to take effect (R320), or Graft holds what they read (R313). The model's choices: a guarded-off blocking instruction
ends its run (log entry 41), EVWAIT, EVPOP and LAUNCH read with the issuing core's view (log entry 42). -/
def Obligations.SystemInstructions : Prop :=
  ∀ (s : State) (r : YRg) (d : YD) (a : YA) (c : YCr) (x : YCw) (l : YLn) (g : YG), (s.warps.get? s.focus.wid).isSome = true →
    let w := s.self
    let u := r.r.toNat
    let illegal := s.trap s.focus.wid
      ⟨2, 0, s.focus.hdr.zeroExtend 64, none, some s.focus.idx, none, false, s.focus.threads, .rpc⟩
    (∀ y ∈ ([(.racqP r, r.g, true), (.racqC r, r.g, true), (.rrelP r, r.g, false), (.rrelC r, r.g, false), (.time d, d.g, false),
        (.twait a, a.g, true), (.plvl a, a.g, false), (.csrr c, c.g, false), (.csrw x, x.g, false), (.evwait d, d.g, true),
        (.evpop d, d.g, false), (.launch l, l.g, false), (.succhint g, g.g, false), (.predwait g, g.g, true)] :
        List (Instr × UGuard × Bool)), s.uholds y.2.1 = false → exec y.1 s = .next (if y.2.2 then s.endsRun else s)) ∧
    (∀ b rg, s.blocks.get? w.blk = some b → b.rings[u]? = some rg → 1 ≤ rg.stages → s.uholds r.g = true →
      (∀ y ∈ ([(.racqP r, false), (.racqC r, true)] : List (Instr × Bool)),
        let k := if y.2 then rg.ca else rg.pa
        let ready := if y.2 then (rg.count true k.idx).getLsbD 0 ≠ k.lap else (rg.count false k.idx).getLsbD 0 = k.lap
        ∃ t b', exec y.1 s = .next t ∧ t.mem = s.mem ∧ t.focus.boundary = true ∧ t.blocks.get? w.blk = some b' ∧
          b'.rings[u]? = some (if y.2 then { rg with ca := k.advance rg.stages } else { rg with pa := k.advance rg.stages }) ∧
          t.self.side.getLsbD u = y.2 ∧ (ready → t.self.blocked = none) ∧
          (¬ ready → t.self.blocked = some (.ring u k.idx k.lap y.2))) ∧
      (∀ y ∈ ([(.rrelP r, false), (.rrelC r, true)] : List (Instr × Bool)),
        (s.releasedAt s.focus.wid 0 = false → exec y.1 s = .next s.holdWord) ∧
        (s.releasedAt s.focus.wid 0 = true → ∃ (t : State) (rg' : Ring), exec y.1 s = .next t.wake ∧ t = { s with blocks := t.blocks } ∧
          t.blocks.get? w.blk = some { b with rings := b.rings.set u rg' } ∧
          (if y.2 then rg'.cr = rg.cr.advance rg.stages ∧ rg'.count false rg.cr.idx = rg.count false rg.cr.idx + 1
            else rg'.pr = rg.pr.advance rg.stages ∧ rg'.count true rg.pr.idx = rg.count true rg.pr.idx + 1)))) ∧
    (s.uholds d.g = true →
      (d.d.toNat % 2 = 0 → ∃ t, exec (.time d) s = .next t ∧ WritesRegs s t fun n i =>
        (scalarWrites s (.w (d.d.toNat + 1)) (s.time.extractLsb' 32 32) n i).or
          (scalarWrites s (.w d.d.toNat) (s.time.extractLsb' 0 32) n i)) ∧
      (s.acquirePending = true ∨ s.readHeld w.core w.cid (s.eqBase w.cid) 16 = true →
        exec (.evwait d) s = .next s.holdWord ∧ exec (.evpop d) s = .next s.holdWord) ∧
      (∀ put get, s.acquirePending = false → s.readHeld w.core w.cid (s.eqBase w.cid) 16 = false → s.eqCounts w.core w.cid = .ok (put, get) →
        (put = get → ∃ t, exec (.evwait d) s = .next t ∧ t.self.blocked = some (.event d.d.toNat s.focus.idx) ∧ t.mem = s.mem) ∧
        (put ≠ get → ∃ t, exec (.evwait d) s = .next t ∧ t.self.blocked = none ∧ t.mem = s.mem ∧
          t.self.raw (w.named (.w d.d.toNat)) 0 = BitVec.ofNat 32 (Nat.min (put - get).toNat (2 ^ 32 - 1))) ∧
        (put = get → d.d.toNat % 4 = 0 → ∃ t, exec (.evpop d) s = .next t ∧ t.mem = s.mem ∧
          ∀ i, i < 4 → t.self.raw (w.named (.w (d.d.toNat + i))) 0 = 0) ∧
        (put ≠ get → s.readHeld w.core w.cid (s.eqRecord w.cid get) 16 = true → exec (.evpop d) s = .next s.holdWord) ∧
        ∀ bs v, put ≠ get → d.d.toNat % 4 = 0 → s.readHeld w.core w.cid (s.eqRecord w.cid get) 16 = false → s.ctxRead w.core w.cid (s.eqRecord w.cid get) 16 = .ok bs →
          ((s.noteCounts w.core w.cid).noteCtxRead w.core w.cid (s.eqRecord w.cid get) 16).ctxWrite w.core w.cid (s.eqBase w.cid + 8)
            (bytes64 (get + 1)) = .ok v →
          ∃ t, exec (.evpop d) s = .next t ∧ t.mem = v.mem ∧ ∀ i, i < 4 →
            t.self.raw (w.named (.w (d.d.toNat + i))) 0 = BitVec.ofNat 32 (ofBytes ((bs.drop (4 * i)).take 4)))) ∧
    (s.uholds a.g = true →
      (∃ t, exec (.twait a) s = .next t ∧ t.mem = s.mem ∧ t.focus.boundary = true ∧
        t.self.blocked = if (s.rdW64 a.a).toNat ≤ s.time.toNat then none else some (.time (s.rdW64 a.a))) ∧
      ∃ t, exec (.plvl a) s = .next t ∧ OnlySelf s t ∧ t.self = { w with perfLvl := t.self.perfLvl } ∧
        (∀ i, i < 32 → s.focus.lanes.getLsbD i = true → (s.rdV a.a i).toNat % 16 ≤ t.self.perfLvl.toNat) ∧
        (s.focus.lanes ≠ 0 → ∃ i, s.focus.lanes.getLsbD i = true ∧ (s.rdV a.a i).toNat % 16 = t.self.perfLvl.toNat)) ∧
    (s.uholds c.g = true → ∃ t y, exec (.csrr c) s = .next t ∧ WritesRegs s t (scalarWrites s (.w c.d.toNat) y) ∧
      (c.csr = 0 → y = w.mode) ∧ (c.csr = 1 → y = w.part) ∧ (c.csr = 2 → y = w.trapen) ∧ (c.csr = 3 → y = w.trapinfo0) ∧
      (c.csr = 4 → y = w.trapinfo1) ∧ (c.csr = 5 → y = w.trapaddr.extractLsb' 0 32) ∧
      (c.csr = 6 → y = w.trapaddr.extractLsb' 32 32) ∧ (c.csr = 7 → y.extractLsb' 0 12 = w.busy) ∧
      (c.csr = 8 → y.extractLsb' 0 4 = w.perfLvl ∧ y.extractLsb' 8 4 = s.levelOf (w.core / 4)) ∧
      (c.csr = 9 → y = w.rlockst) ∧ (c.csr = 10 → y = w.samplecfg)) ∧
    (s.uholds x.g = true →
      let y := s.rdW x.a
      let writes := fun (w' : Warp) => ∃ t, exec (.csrw x) s = .next t ∧ OnlySelf s t ∧ t.self = w'
      (x.csr = 0 → writes { w with mode := y &&& 0x3F7F }) ∧
      (x.csr = 1 → if y.toNat % 64 ∈ [2, 4, 8, 16, 32] then writes { w with part := y &&& 0x3F }
        else exec (.csrw x) s = .next illegal) ∧
      (x.csr = 2 → writes { w with trapen := y &&& 0x200 }) ∧ (x.csr = 8 → writes { w with perfLvl := y.extractLsb' 0 4 }) ∧
      (x.csr = 10 → if w.inHandler then writes { w with samplecfg := y &&& 0x1F } else exec (.csrw x) s = .next illegal)) ∧
    (s.uholds l.g = true → l.d.toNat % 2 = 0 →
      let may := w.role = .control ∨ ∃ gr, s.gridOf? w = some gr ∧ gr.gr.lcap = true
      let v := s.launch (s.rdW64 l.a)
      (¬ may → exec (.launch l) s = .next illegal) ∧
      (may → s.launchHeld (s.rdW64 l.a) = true → exec (.launch l) s = .next s.holdWord) ∧
      (may → s.launchHeld (s.rdW64 l.a) = false → v.1.focus.stop = true → exec (.launch l) s = .next v.1) ∧
      (may → s.launchHeld (s.rdW64 l.a) = false → v.1.focus.stop = false → ∃ t, exec (.launch l) s = .next t ∧
        WritesRegs v.1 t fun n i =>
          (scalarWrites s (.w (l.d.toNat + 1)) (BitVec.ofNat 32 v.2.2) n i).or
            (scalarWrites s (.w l.d.toNat) (BitVec.ofNat 32 v.2.1) n i)) ∧
      (v.2.2 = 0 → v.2.1 = (s.ctx w.cid).nextGrid ∧ (v.1.grid? w.cid v.2.1).isSome = true) ∧
      (v.2.2 ≠ 0 → v.2.1 = 0) ∧ (v.2.2 ≠ 0 → v.1.focus.stop = false →
        ∀ cid, v.1.ctx cid = { s.ctx cid with breached := (v.1.ctx cid).breached }) ∧
      (v.1.focus.stop = false → v.1.mem = s.mem)) ∧
    (s.uholds g.g = true →
      (∀ b gr, s.blocks.get? w.blk = some b → s.grid? b.cid b.grid = some gr → ∃ t h, exec (.succhint g) s = .next t ∧
        t = { s with contexts := t.contexts } ∧ t.grid? b.cid b.grid = some h ∧ b.lin ∈ h.hinted ∧
        h = { gr with hinted := h.hinted }) ∧
      (s.predReady w = true → ∃ t, exec (.predwait g) s = .next t ∧ t.self.blocked = none ∧ t.mem = s.mem ∧
        (t.core w.core).l1 = []) ∧
      (s.predReady w = false → ∃ t, exec (.predwait g) s = .next t ∧ t.self.blocked = some .pred ∧ t.mem = s.mem))

/-- R375 to R384: taking a trap. In a warp of a grid, out of handler mode, with a handler: TRAPINFO0, TRAPINFO1, TRAPADDR
(Tables 14.2, 14.3), the saved PCs of the trapped set, the handler's PC; with no handler the warp ends with the trap's
code as its error status; a conductor's job fails with it; in handler mode, and for an uncorrectable error (R389), the context
is terminated.
R387, R388, R390: TRAP and BKPT take codes 0x0D and 0x0C with their operand after their clause, to resume at the next; RTE
leaves handler mode, its threads at the PCs that were saved, a wait that a hang trap interrupted taken up again, or completed
where it is satisfied by now; out of handler mode it is illegal. The model's choices: which thread's resume PC TRAPINFO1
holds (log entry 11), TRAPADDR of an illegal form (log entry 13). -/
def Obligations.TrapsAndReturn : Prop :=
  ∀ (s : State) (wid : Nat) (i : TrapInfo) (j : Job) (h : DWord) (o : YN) (g : YG),
    let w := s.warp wid
    let t := s.trap wid i
    (w.inHandler = false → w.grid ≠ 0 → i.code ≠ 0x10 → (s.ctx w.cid).job = some j →
      s.ctxRead64 w.core w.cid (j.jcb + 0x10) = .ok h →
      (h ≠ 0 → (∀ f, i.flag = some f → f < 12) → (∀ n, i.word = some n → n < 16) → (∀ l, i.lane = some l → l < 32) →
        let x := t.warp wid
        t.mem = s.mem ∧ (∀ k, k ≠ wid → t.warps.get? k = s.warps.get? k) ∧ (∀ n l, x.raw n l = w.raw n l) ∧
        x.inHandler = true ∧ x.trapped = i.set ∧ x.rpc = w.rpc ∧ x.mode = w.mode ∧ x.live = w.live ∧
        x.trapinfo0.extractLsb' 0 8 = i.code ∧ x.trapinfo0.extractLsb' 8 8 = i.cause ∧
        x.trapinfo0.getLsbD 21 = i.lane.isSome ∧ (∀ l, i.lane = some l → (x.trapinfo0.extractLsb' 16 5).toNat = l) ∧
        x.trapinfo0.getLsbD 26 = i.word.isSome ∧ (∀ n, i.word = some n → (x.trapinfo0.extractLsb' 22 4).toNat = n) ∧
        (x.trapinfo0.extractLsb' 27 4).toNat = i.flag.getD 15 ∧ x.trapinfo0.getLsbD 31 = i.deferred ∧
        x.trapaddr = i.addr ∧ x.trapinfo1 = (i.resumePc w (lowestLane i.set)).extractLsb' 0 32 ∧
        ∀ l, l < 32 → if i.set.getLsbD l then x.pcOf l = i.resumePc w l ∧ x.pcNow l = h.extractLsb' 0 48
          else x.pcOf l = w.pcOf l) ∧
      (h = 0 → t.mem = s.mem ∧ (t.warp wid).live = 0 ∧ (t.warp wid).err = if w.err = 0 then i.code else w.err)) ∧
    (w.inHandler = false → w.grid = 0 → i.code ≠ 0x10 → (s.ctx w.cid).job = some j → (t.warp wid).live = 0 ∧
      ((t.ctx w.cid).job.map (·.cause)) = some (if j.cause.isSome then j.cause else some i.code)) ∧
    (w.inHandler = true ∨ i.code = 0x10 → (t.ctx w.cid).job = none) ∧
    (∀ y ∈ ([(.trap o, 0x0D), (.bkpt o, 0x0C)] : List (Instr × BitVec 8)),
      (s.uholds o.g = false → exec y.1 s = .next s) ∧
      (s.uholds o.g = true → ∃ u, exec y.1 s = .next u ∧ { u with focus := s.focus } = s ∧
        (s.focus.wid = wid → s.focus.hold = false → s.focus.stop = false → s.focus.targets = [] →
          s.focus.idx = s.focus.words.length → w.inHandler = false → w.grid ≠ 0 → (s.ctx w.cid).job = some j →
          s.ctxRead64 w.core w.cid (j.jcb + 0x10) = .ok h → h ≠ 0 →
          let x := (u.issued 1).warp wid
          x.inHandler = true ∧ x.trapped = s.focus.threads ∧ x.trapinfo0.extractLsb' 0 8 = y.2 ∧
            x.trapinfo0.extractLsb' 8 8 = o.n.zeroExtend 8 ∧ ∀ l, l < 32 → s.focus.threads.getLsbD l = true →
              x.pcNow l = h.extractLsb' 0 48 ∧
              x.pcOf l = s.focus.hdr + BitVec.ofNat 48 (4 * (s.focus.words.length + 1))))) ∧
    (s.uholds g.g = false → exec (.rte g) s = .next s) ∧
    (s.uholds g.g = true → s.self.inHandler = false → exec (.rte g) s = .next (s.trap s.focus.wid
      ⟨2, 0, s.focus.hdr.zeroExtend 64, none, some s.focus.idx, none, false, s.focus.threads, .rpc⟩)) ∧
    (s.uholds g.g = true → s.self.inHandler = true → ∃ t, exec (.rte g) s = .next t ∧ t.focus.stop = true ∧
      (s.focus.wid = wid → t.mem = s.mem ∧ (t.warp wid).inHandler = false ∧ (∀ l, (t.warp wid).pcNow l = w.pcOf l) ∧
        (∀ n l, (t.warp wid).raw n l = w.raw n l) ∧
        (w.heldWait = none → OnlySelf s { t with focus := s.focus } ∧ (t.warp wid).blocked = none) ∧
        (∀ x, w.heldWait = some x → (t.warp wid).blocked = w.heldWait ∨ (t.warp wid).blocked = none) ∧
        ∀ n p, w.heldWait = some (.phaser n) → n < 64 → s.blockPhaser w.blk n = some p →
          if p.satisfied wid then (t.warp wid).blocked = none ∧ t.blockPhaser w.blk n = some (p.passed wid)
          else (t.warp wid).blocked = some (.phaser n) ∧ t.blockPhaser w.blk n = some p))

/-! ## Issue, blocks, grids -/

/-- R343, R236, R354, R107, R73, R239, R372, R369, R373: the events of issue. A free slot takes the first Ready warp of its age
list, for its head run (the threads at the lowest PC of the live unparked ones) or for a trap that is due at the run
boundary, of 0x06, 0x0A and 0x0F the first that is due, with the wait it interrupts kept; a clause is fetched at the head
run's PC, or its fault traps those threads once nothing older keeps the warp from issuing; a register line is taken and
filled from the register's image; the threads of a spinning run are parked, and the run ends, at one PC no longer or with
none left; timed waits end at their time; a grid phaser admits the first clusters of its window; a held grid's START
passes.
The model's choices: an event whose condition does not hold leaves the state alone (log entry 5); when the conditions are
looked at, and that the trap at a boundary and the fetch wait for an unanswered load (12, 66); a crossing is delivered by
its own event (17); the wait interrupted by 0x0F (49). Graft may hold a fetch (R313); a walk that meets an uncorrectable
error ends the context (R389). -/
def Obligations.SchedulingEvents : Prop :=
  ∀ (s : State) (core slot die cid wid reg grid : Nat) (x : DWord),
    let w := s.warp wid
    let noPoll := fun (l : List Nat) => ∀ y ∈ l, (s.warp y).blocked ≠ some .pred ∧ ∀ d n, (s.warp y).blocked ≠ some (.event d n)
    let opens := fun (i : Instr) (k : Nat) => ∃ t r, exec i s = .next t ∧ t.runs.get? k = some r ∧ r.wid = wid ∧
      r.threads = w.headRun.2 ∧ r.hdr = w.headRun.1 ∧ r.atClause = true ∧ t.mem = s.mem
    ((s.runs.get? (slotKey core slot)).isSome → exec (.selectRun core slot) s = .next s) ∧
    (core < 128 → s.runs.get? (slotKey core slot) = none → noPoll (s.ageList core slot) →
      ((s.ageList core slot).find? s.readyWarp = none → exec (.selectRun core slot) s = .next s) ∧
      ((s.ageList core slot).find? s.readyWarp = some wid →
        (w.boundaryTrap = none → opens (.selectRun core slot) (slotKey core slot)) ∧
        ∀ code p, w.boundaryTrap = some (code, p) → ∃ (u : State), u = { s with warps := u.warps } ∧
          u.warp wid = { w with
            heldWait := w.blocked, heldWord := w.pendWord, blocked := none
            pend06 := if code = 6 then none else w.pend06
            pend0A := if code = 0x0A then none else w.pend0A
            pend0F := if code = 0x0F then none else w.pend0F } ∧
          exec (.selectRun core slot) s =
            .next (u.trap wid ⟨code, p.cause, p.addr, none, none, none, true, w.headRun.2, .current⟩))) ∧
    (die < 2 → s.runs.get? (slotKey (128 + die) 0) = none → noPoll (s.ageList (128 + die) 0) →
      (s.ageList (128 + die) 0).find? s.readyWarp = some wid →
      (w.cid = cid → w.boundaryTrap = none → opens (.conductorRun die cid) (slotKey (128 + die) 0)) ∧
      (w.cid ≠ cid → exec (.conductorRun die cid) s = .next s)) ∧
    (∀ v : Warp, v.boundaryTrap = if v.inHandler then none else match v.pend06, v.crossing, v.pend0A, v.pend0F with
      | some p, _, _, _ => some (6#8, p)
      | none, some _, _, _ => none
      | none, none, some p, _ => some (0x0A#8, p)
      | none, none, none, some p => some (0x0F#8, p)
      | none, none, none, none => none) ∧
    (∀ v : Warp, v.inHandler = false → v.live ≠ 0 →
      let u := if v.live &&& ~~~v.pk = 0 then v.live else v.live &&& ~~~v.pk
      (∃ l, l < 32 ∧ u.getLsbD l = true ∧ v.pcOf l = v.headRun.1) ∧
      ∀ l, l < 32 → (u.getLsbD l = true → v.headRun.1.toNat ≤ (v.pcOf l).toNat) ∧
        v.headRun.2.getLsbD l = (u.getLsbD l && v.pcOf l == v.headRun.1)) ∧
    (w.life = .resident → w.issuing ≠ 0 → s.hasRun wid = false → w.fetched.map (·.addr) ≠ some w.headRun.1 →
      (∀ t f, s.fetchClause w w.headRun.1 = .ok (t, f) → s.fetchHeld w w.headRun.1 f.words.length = false → ∃ v, exec (.clauseFetch wid) s = .next v ∧ v.mem = s.mem ∧
        (v.warp wid).fetched = some f ∧ f.addr = w.headRun.1) ∧
      (∀ t f, s.fetchClause w w.headRun.1 = .ok (t, f) → s.fetchHeld w w.headRun.1 f.words.length = true →
        exec (.clauseFetch wid) s = .next s) ∧
      ∀ r, s.translate w.core w.cid (w.headRun.1.zeroExtend 64) .fetch = .error r → w.blocked = none →
        w.boundaryTrap = none → w.crossing = none → w.draining = false → w.unanswered = false →
        exec (.clauseFetch wid) s = .next (s.trap wid
          ⟨walkCode r, BitVec.ofNat 8 r, w.headRun.1.zeroExtend 64, none, none, none, false, w.headRun.2, .rpc⟩)) ∧
    (w.life = .resident → w.core = core → w.role ≠ .control → reg < w.regs →
      (s.core core).rlines.get? (64 * wid + reg) = none →
      (s.isBad (s.regImage w + 128 * reg) 128 = true → exec (.registerCacheFill core wid reg) s = .next (s.terminate w.cid 0x10)) ∧
      ((s.core core).rlines.length + 1 ≤ 4096 → s.isBad (s.regImage w + 128 * reg) 128 = false →
      ∃ t, exec (.registerCacheFill core wid reg) s = .next t ∧
        t = { s with cores := t.cores, dies := t.dies, warps := t.warps } ∧ (∀ x, x ≠ wid → t.warp x = s.warp x) ∧
        (t.core core).rlines.get? (64 * wid + reg) = some false ∧ (t.warp wid).dirty.getLsbD reg = false ∧
        ∀ l, l < 32 → toBytes 4 ((t.warp wid).getV reg l).toNat = s.memBytes (s.regImage w + 128 * reg + 4 * l) 4)) ∧
    (∀ r, s.runs.get? (slotKey core slot) = some r → r.core = core → r.slot = slot → (s.warps.get? r.wid).isSome = true →
      (r.bbcDue = 0 → exec (.bbcPark core slot) s = .next s) ∧
      (r.bbcDue ≠ 0 → ∃ t, exec (.bbcPark core slot) s = .next t ∧ t.mem = s.mem ∧
        (t.warp r.wid).pk = (s.warp r.wid).pk ||| r.bbcDue ∧ (t.warp r.wid).bbc = 0 ∧ (t.warp r.wid).lastRun = r.all ∧
        t.runs.get? (slotKey core slot) = none)) ∧
    (w.blocked = some (.time x) → if x.toNat ≤ s.time.toNat
      then ∃ t, exec (.twaitDeadline wid) s = .next t ∧ (t.warp wid).blocked = none ∧ t.mem = s.mem
      else exec (.twaitDeadline wid) s = .next s) ∧
    (∀ n, (s.warps.map (·.1)).Nodup → s.warps.get? wid = some w → w.blocked = some (.phaser n) → w.life = .resident →
      w.cid = cid → w.grid = grid → s.gridPassed wid n = true →
      let has := fun (k : Nat) => s.warps.any fun e =>
        (s.admissible cid grid e).isSome && decide (clusterOfCore e.2.core = k)
      let all := (List.range 32).filter has
      ∃ t, exec (.slewAdmission cid grid) s = .next t ∧ t.mem = s.mem ∧
        if clusterOfCore w.core ∈ all.take (s.slewLimit (all.headD 0 / 16)) then
          (t.warp wid).blocked = none ∧ (t.warp wid).gepOf (n - 64) = w.gepOf (n - 64) + 1
        else t.warp wid = w) ∧
    ∀ g, s.grid? cid grid = some g → g.st = .held →
      (s.time.toNat < g.gr.start → exec (.gridStartTime cid grid) s = .next s) ∧
      (g.gr.start ≤ s.time.toNat → ∃ t h, exec (.gridStartTime cid grid) s = .next t ∧ t.mem = s.mem ∧
        t.grid? cid grid = some h ∧ h.gr.start = 0 ∧
        h.st = if s.predMet cid g = true ∧ g.kernel.cores = false ∧ g.gr.cores = false then .queued else .held)

/-- R362, R363, R364, R367, R338, R339: a gang that is next, of a grid whose turn it is, on a span with room for it becomes
resident: every rank's block on its core of the span, its warps with the launch values of Table 13.5, their other
registers zero and their flags clear; without room, or out of the context's turn, nothing happens; the gangs of a CORES
grid are placed together or not at all, unless a deterministic context's virtual device holds what the physical one does
not.
R340, R357, R360, R337, R403: a warp whose threads have ended and whose operations have completed ends and hands its status
to its grid; a block whose warps have ended frees what it held; a grid whose blocks have ended, and whose completion's
release is over, completes or fails, after its event record if it has one, and its dependents are freed or cancelled; a
job ends with ENDTIME, STATUS, RUN clear and, if enabled, the interrupt.
The model's choices: an event whose condition does not hold leaves the state alone (log entry 5); in which order grids and
gangs may be placed, and when a grid that waits may be (45); whose turn it is among contexts (48); the order in which a
warp's error statuses count (14, 31); the control core through which the JCB is written (60). -/
def Obligations.DistributionEvents : Prop :=
  ∀ (s : State) (cid grid gang core wid blk : Nat) (k : Kernel) (g : Grid),
    let w := s.warp wid
    let together := (k.cores = true ∨ g.gr.cores = true) ∧ ¬ (s.det cid = true ∧ exceeds false k g.gr = true)
    (s.grid? cid grid = some g → k = g.kernel → g.open = true → s.mayPlace cid grid = true → s.outOfTurn cid = false →
      s.nextGang cid grid g = some gang →
      (g.queuedOrHeld = true → g.gr.start = 0 ∧ s.predMet cid g = true ∧ s.turnToStart cid grid = true) →
      ∀ l, spanAt core k.span = some l →
        (s.gangFits cid k gang l (k.gangb * k.warps) = false → exec (.blockPlacement cid grid gang core) s = .next s) ∧
        (s.gangFits cid k gang l (k.gangb * k.warps) = true → ¬ together →
          ∃ t h, exec (.blockPlacement cid grid gang core) s = .next t ∧ t.grid? cid grid = some h ∧
            h.waiting = g.waiting.erase gang ∧ (h.st = .running ∨ h.st = .placing) ∧
            ∀ r, r < k.gangb → ∃ id b, t.blocks.get? id = some b ∧ b.cid = cid ∧ b.grid = grid ∧ b.gang = gang ∧
              b.rank = r ∧ b.lin = gang * k.gangb + r ∧ b.core = l.getD (k.spanCore r) 0 ∧ b.life = .resident ∧
              b.warps.length = k.warps ∧ b.acc.length = k.acc ∧ b.phasers = List.replicate k.phn ⟨0, []⟩ ∧ b.inbound = 0 ∧
              ∀ i y, b.warps[i]? = some y →
                let x := t.warp y
                x.blk = id ∧ x.core = b.core ∧ x.life = .resident ∧ x.regs = k.regs ∧ x.entry = k.entry ∧ x.pc = [] ∧
                x.role = (if i < k.ncopy then .copy else if i < k.ncopy + k.nmat then .matrix else .vector) ∧
                (∀ j, j < 32 → x.live.getLsbD j = decide (j < g.gr.lanes)) ∧
                (∀ j, j < 32 → x.helper.getLsbD j = (decide (j / 4 * 4 < g.gr.lanes) && decide (g.gr.lanes ≤ j))) ∧
                (∀ q j, x.getV q j = 0 ∧ x.getP q j = false) ∧ x.mode = 0 ∧ x.part = 32 ∧ x.trapen = 0 ∧ x.perfLvl = 8 ∧
                x.k = 0 ∧ x.busy = 0 ∧ x.ferr = [] ∧ x.pk = 0 ∧ x.bbc = 0 ∧ (∀ q, q < 4 → x.gepOf q = (g.phaser q).phase) ∧
                x.getW 0 = BitVec.ofNat 32 (b.lin % g.gr.nx) ∧ x.getW 1 = BitVec.ofNat 32 (b.lin / g.gr.nx % g.gr.ny) ∧
                x.getW 2 = BitVec.ofNat 32 (b.lin / g.gr.nx / g.gr.ny) ∧
                x.getW 3 = BitVec.ofNat 32 (i + 256 * roleNum x.role + 65536 * r) ∧
                x.getW 5 ++ x.getW 4 = g.gr.param ∧
                x.getW 6 = BitVec.ofNat 32 (k.split.getD 0 1 + 65536 * k.split.getD 1 1) ∧
                x.getW 7 = BitVec.ofNat 32 (k.split.getD 2 1 + 65536 * k.split.getD 3 1) ∧ ∀ q, 8 ≤ q → x.getW q = 0) ∧
        (gang = 0 → together → exec (.blockPlacement cid grid gang core) s = .next s ∨
          ∃ t, exec (.blockPlacement cid grid gang core) s = .next t ∧ ∀ j, j < g.gr.count / k.gangb → ∀ r, r < k.gangb →
            ∃ id b, t.blocks.get? id = some b ∧ b.cid = cid ∧ b.grid = grid ∧ b.gang = j ∧ b.rank = r ∧
              b.life = .resident)) ∧
    (s.grid? cid grid = some g → (g.open = false ∨ s.mayPlace cid grid = false ∨ s.outOfTurn cid = true ∨ s.nextGang cid grid g ≠ some gang ∨
      spanAt core g.kernel.span = none) → exec (.blockPlacement cid grid gang core) s = .next s) ∧
    (w.life = .resident → w.grid ≠ 0 →
      ((w.live ≠ 0 ∨ w.ops ≠ [] ∨ s.hasRun wid = true) → exec (.warpEnd wid) s = .next s) ∧
      (w.live = 0 → w.ops = [] → s.hasRun wid = false → (∀ e ∈ s.cmds, e.2.wid ≠ wid) → ∃ t, exec (.warpEnd wid) s = .next t ∧
        t.mem = s.mem ∧ (t.warp wid).life = .ended ∧ ∀ h, s.grid? w.cid w.grid = some h →
          (t.grid? w.cid w.grid).map (·.status) = some (if h.status ≠ 0 then h.status
            else if w.err ≠ 0 then w.err
            else if w.pend0A.isSome ∨ w.crossing.isSome then 0x0A
            else (w.ferr.head?.map fun e => e.2.code).getD 0))) ∧
    (∀ b, s.blocks.get? blk = some b → b.life = .resident →
      ((b.inbound ≠ 0 ∨ ∃ x ∈ b.warps, (s.warp x).life ≠ .ended) → exec (.blockEnd blk) s = .next s) ∧
      (b.inbound = 0 → (∀ x ∈ b.warps, (s.warp x).life = .ended) → ∃ t, exec (.blockEnd blk) s = .next t ∧ t.mem = s.mem ∧
        t.blocks.get? blk = none ∧ (∀ x ∈ b.warps, t.warps.get? x = none) ∧ ∀ h, s.grid? b.cid b.grid = some h →
          ∃ h', t.grid? b.cid b.grid = some h' ∧ h'.endedBlocks = h.endedBlocks + 1 ∧ h'.sent = (b.core, s.nextId) :: h.sent ∧ b.lin ∈ h'.hinted)) ∧
    (s.grid? cid grid = some g →
      (g.st ≠ .running ∨ g.endedBlocks ≠ g.gr.count ∨ s.performedFor g = false →
        exec (.gridCompletion cid grid) s = .next s) ∧
      (g.st = .running → g.endedBlocks = g.gr.count → s.performedFor g = true →
        (∀ e ∈ s.cmds, ¬ (e.2.cid = cid ∧ e.2.grid = grid)) → (∀ r ∈ (s.ctx cid).evq, r.grid ≠ some grid) →
        (g.gr.eqrec = true → ∃ t, exec (.gridCompletion cid grid) s = .next t ∧ t = { s with contexts := t.contexts } ∧
          (t.ctx cid).evq = (s.ctx cid).evq ++ [⟨g.record grid g.status, none, some grid⟩] ∧ t.grid? cid grid = some g) ∧
        (g.gr.eqrec = false → ∃ t, exec (.gridCompletion cid grid) s = .next t ∧ t.mem = s.mem ∧
          (t.grid? cid grid).map (·.st) = some (if g.status = 0 then .complete else .failed) ∧
          (∀ j, (s.ctx cid).job = some j → g.status ≠ 0 →
            ((t.ctx cid).job.map (·.cause)) = some (if j.cause.isSome then j.cause else some g.status)) ∧
          ∀ n d, s.grid? cid n = some d → d.gr.pred = grid → grid ≠ 0 →
            (g.status = 0 → d.st = .held → d.gr.start = 0 → d.kernel.cores = false → d.gr.cores = false →
              (t.grid? cid n).map (·.st) = some .queued) ∧
            (g.status ≠ 0 → (d.st = .held ∨ d.st = .queued) → (t.grid? cid n).map (·.st) = some .cancelled)))) ∧
    ∀ j, (s.ctx cid).job = some j →
      ((∃ e ∈ (s.ctx cid).grids, e.2.open = true) → exec (.jobEnd cid) s = .next s) ∧
      ((s.warp j.conductor).live = 0 → (s.warp j.conductor).ops = [] → s.hasRun j.conductor = false →
        (∀ e ∈ (s.ctx cid).grids, e.2.open = false) → (s.ctx cid).evq = [] →
        (∀ k ∈ s.cores, ∀ e ∈ k.2.outbound, e.2.cid ≠ cid) → ∃ t, exec (.jobEnd cid) s = .next t ∧ (t.ctx cid).job = none ∧
          t.warps.get? j.conductor = none ∧
          t.outbox = (if (s.ctx cid).irqen then s.outbox ++ [.msix cid] else s.outbox) ∧
          ∀ u v, s.ctxWrite (s.jobCore cid) cid (j.jcb + 0x28) (bytes64 s.time) = .ok u →
            u.ctxWrite (s.jobCore cid) cid (j.jcb + 0x20) (bytes64 (match j.cause with
              | none => 2
              | some c => BitVec.ofNat 64 (3 + 256 * c.toNat))) = .ok v → t.mem = v.mem)

/-- R390 to R397, R363, R364: the watchdogs, the time slices and the stop of blocks. An expired hang timer gives every warp of
the grid a pending 0x0F, which a blocked one takes at once, its wait kept for its return; one that is in a handler ends
the context; an overrun save limit, counted from the stop message, ends it. A stop walks its stages: a warp at a run
boundary stops, the walk moves on once all rest and nothing is in flight. A save puts the block and its warps into their
images as Tables 14.6 to 14.8 lay them out, a restore puts the whole gang on a span unless an
uncorrectable error stands in one of its images, which ends the context (R389); a migration moves one block; a
resident block's core holds no stale L1 line.
The model's choices: an event whose condition does not hold leaves the state alone (log entry 5); which stop keeps grids from
being placed (45); what a save writes when, and which image it takes (46); the order of the walk's stages and that one
walk goes on in a context at a time (47); when a context is sliced and whose turn comes then (48); the limits' unit, when the
hang timer runs and what 0x0F interrupts (49). An APPEND that the walk withdraws is 37's. -/
def Obligations.StopEvents : Prop :=
  ∀ (s : State) (cid grid blk core : Nat) (j : Job) (g : Grid) (b : Block) (w : Walk),
    let begins := fun (i : Instr) (blocks : List Nat) (whole : Bool) (dest : Option Nat) => ∃ t, exec i s = .next t ∧
      t = { s with contexts := t.contexts } ∧ (t.ctx cid).walk = some ⟨blocks, 0, s.time.toNat, whole, dest⟩
    (s.grid? cid grid = some g → (s.ctx cid).job = some j →
      (j.hangLim = 0 ∨ s.hangRuns cid grid g = false ∨ s.time.toNat < g.hangSince + j.hangLim →
        exec (.hangWatchdogExpiry cid grid) s = .next s) ∧
      (j.hangLim ≠ 0 → s.hangRuns cid grid g = true → g.hangSince + j.hangLim ≤ s.time.toNat →
        ((∃ e ∈ s.warps, e.2.cid = cid ∧ e.2.grid = grid ∧ e.2.life = .resident ∧ e.2.inHandler = true) →
          ∃ t, exec (.hangWatchdogExpiry cid grid) s = .next t ∧ (t.ctx cid).job = none) ∧
        ((∀ e ∈ s.warps, e.2.blocked = none ∧ e.2.inHandler = false) →
          ∃ t, exec (.hangWatchdogExpiry cid grid) s = .next t ∧ t.mem = s.mem ∧ ∀ wid x, s.warps.get? wid = some x →
            x.cid = cid → x.grid = grid → x.life = .resident → x.live ≠ 0 → (t.warp wid).pend0F = some ⟨0, 0⟩) ∧
        ∀ wid x, (s.warps.filter fun e => e.2.cid == cid && e.2.grid == grid && e.2.life == .resident) = [(wid, x)] →
          s.warps.get? wid = some x → x.inHandler = false → x.live ≠ 0 → x.blocked.isSome = true → ∃ u : State,
            u = { s with warps := u.warps } ∧
            u.warp wid = { x with heldWait := x.blocked, heldWord := x.pendWord, blocked := none } ∧
            exec (.hangWatchdogExpiry cid grid) s = .next
              ((u.trap wid ⟨0x0F, 0, 0, none, none, none, true, x.headRun.2, .current⟩).restartHang cid grid))) ∧
    ((s.ctx cid).job = some j →
      let late := fun (since : Nat) => since + (if j.saveLim = 0 then 100000000 else j.saveLim) < s.time.toNat
      let expired := (∃ x, (s.ctx cid).walk = some x ∧ late x.since) ∨
        (s.ctx cid).stop = true ∧ s.placedBlocks cid ≠ [] ∧ late (s.ctx cid).stopAt
      (expired → ∃ t, exec (.saveLimitExpiry cid) s = .next t ∧ (t.ctx cid).job = none ∧ ∀ e ∈ t.blocks, e.2.cid ≠ cid) ∧
      (¬ expired → exec (.saveLimitExpiry cid) s = .next s)) ∧
    (∀ e ∈ s.blocks, e.2.cid = cid → e.2.placedNow = true → s.grid? cid e.2.grid = some g → (s.ctx cid).walk = none →
      (s.time.toNat < (s.ctx cid).sliceSince + s.quantum cid → exec (.quantumSliceEnd cid) s = .next s) ∧
      ((s.ctx cid).sliceSince + s.quantum cid ≤ s.time.toNat → s.policy cid g = 2 →
        (∃ c ∈ s.contexts, c.1 ≠ cid ∧ s.hasWaiting c.1 = true) →
        begins (.quantumSliceEnd cid) (s.placedBlocks cid) true none ∧
          ∀ t, exec (.quantumSliceEnd cid) s = .next t → (t.ctx cid).sliced = true)) ∧
    ((s.ctx cid).sliced = true → (∃ c ∈ s.contexts, c.1 ≠ cid ∧ s.hasWaiting c.1 = true ∧ s.findsRoom c.1 = true) →
      exec (.blockPlacement cid grid 0 core) s = .next s ∧
      (s.blocks.get? blk = some b → b.cid = cid → exec (.restore blk core) s = .next s)) ∧
    (s.grid? cid grid = some g → s.policy cid g = 2 → (s.ctx cid).walk = none → g.open = true →
      s.mayPlace cid grid = true → ∀ n l, g.waiting = n :: l →
      (∀ c ∈ allSpans g.kernel.span, s.gangFits cid g.kernel n c (g.kernel.gangb * g.kernel.warps) = false) →
      ∀ e ∈ s.spinning cid grid, (∀ y ∈ s.spinning cid grid, y ≠ e → e.2.since < y.2.since) →
      if g.rotatedAt + s.quantum cid ≤ s.time.toNat then
        begins (.quantumRotation cid grid) ((s.gangBlocks cid grid e.2.gang).map (·.1)) false none
      else exec (.quantumRotation cid grid) s = .next s) ∧
    ((s.ctx cid).walk = none →
      ((s.ctx cid).stop = true → s.placedBlocks cid ≠ [] → begins (.stopWalk cid) (s.placedBlocks cid) true none) ∧
      ((s.ctx cid).stop = false → exec (.stopWalk cid) s = .next s)) ∧
    ((s.ctx cid).walk = some w →
      (s.walkLeft w = [] → ∃ t, exec (.stopWalk cid) s = .next t ∧ t = { s with contexts := t.contexts } ∧
        (t.ctx cid).walk = none) ∧
      (s.walkLeft w ≠ [] → w.step = 0 →
        (∀ st, (s.stages cid w).find? (fun x => !s.stageDone w x) = some st → ∃ t, exec (.stopWalk cid) s = .next t ∧
          t.mem = s.mem ∧ (∀ x, x ∉ s.stageWarps w st.1 st.2 → (t.warp x).life = (s.warp x).life) ∧
          ∀ x ∈ s.stageWarps w st.1 st.2, (s.warp x).life = .resident → (s.warp x).live ≠ 0 → (s.warp x).restless = false →
            if s.hasRun x then (t.warp x).life = .resident ∧ (t.warp x).stopping = true
            else (t.warp x).life = .stopped) ∧
        ((s.stages cid w).find? (fun x => !s.stageDone w x) = none →
          if s.walkQuiet w then ∃ t, exec (.stopWalk cid) s = .next t ∧ t = { s with contexts := t.contexts } ∧
            (t.ctx cid).walk = some { w with step := 1 }
          else exec (.stopWalk cid) s = .next s))) ∧
    (s.blocks.get? blk = some b → (s.ctx b.cid).walk = some w → b.placedNow = true → b.inbound = 0 → blk ∈ w.blocks →
      w.migrateTo = none → (∃ x ∈ b.warps, (s.warp x).life ≠ .ended) →
      ((w.step = 0 ∨ s.pickImage b = none) → exec (.save blk) s = .next s) ∧
      ∀ img, w.step ≠ 0 → s.pickImage b = some img → ∃ t, exec (.save blk) s = .next t ∧
        (t.blocks.get? blk).map (fun x => (x.life, x.saveImage)) = some (.saved, some img) ∧
        (∀ y ∈ b.warps, (s.warps.get? y).isSome = true →
          (t.warp y).life = if (s.warp y).life = .ended then .ended else .saved) ∧
        t.memBytes (s.imageAddr img + 0x1C0000) 8 = toBytes 4 b.grid ++ toBytes 4 b.lin ∧
        (∀ h, s.grid? b.cid b.grid = some h → t.BlockImage s (s.imageAddr img) b h.kernel) ∧
        ∀ y ∈ b.warps, let a := s.ctlImage (s.warp y);
          (a + 1024 ≤ s.imageAddr img ∨ s.imageAddr img + 0x200000 ≤ a) →
          (∀ z ∈ b.warps, z ≠ y → s.ctlImage (s.warp z) + 1024 ≤ a ∨ a + 1024 ≤ s.ctlImage (s.warp z)) →
          b.acc.length ≤ 6 → (∀ h, s.grid? b.cid b.grid = some h → h.kernel.tileBytes ≤ 0x100000) →
          t.ControlImage a (s.warp y)) ∧
    (s.blocks.get? blk = some b → s.grid? b.cid b.grid = some g → (s.blocks.map (·.1)).Nodup →
      s.mayPlace b.cid b.grid = true → s.outOfTurn b.cid = false → g.turn b.gang = true →
      (∀ e ∈ s.gangBlocks b.cid b.grid b.gang, e.2.life = .saved ∧ e.2.inbound = 0) →
      ∀ l, spanAt core g.kernel.span = some l →
        if l.zipIdx.all fun e =>
            Room.has (s.usedOn e.1) (restoreNeed g.kernel (s.gangBlocks b.cid b.grid b.gang) e.2) then
          if (s.gangBlocks b.cid b.grid b.gang).any fun e => s.imageBad e.2 then
            exec (.restore blk core) s = .next (s.terminate b.cid 0x10)
          else ∃ t, exec (.restore blk core) s = .next t ∧ (∀ c ∈ l, (t.core c).l1 = []) ∧
            ∀ e ∈ s.gangBlocks b.cid b.grid b.gang,
              (t.blocks.get? e.1).map (fun x => (x.life, x.core)) =
                some (.resident, l.getD (g.kernel.spanCore e.2.rank) core) ∧
              ∀ y ∈ e.2.warps, (s.warps.get? y).isSome = true →
                (t.warp y).life = if (s.warp y).life = .ended then .ended else .resident
        else exec (.restore blk core) s = .next s) ∧
    (s.blocks.get? blk = some b → s.grid? b.cid b.grid = some g → b.cid = cid → b.placedNow = true →
      coreEnabled core = true → core ≠ b.core → Room.has (s.usedOn core) g.kernel.need = true →
      ((s.ctx cid).walk = none → g.kernel.migr = true → g.kernel.gangb = 1 → (s.ctx cid).stop = false →
        (∃ c ∈ s.contexts, ∃ e ∈ c.2.grids, s.wantsMove b.core c.1 e.1 e.2 = true) →
        begins (.blockMigration blk core) [blk] false (some core)) ∧
      ((s.ctx cid).walk = some w → w.step ≠ 0 → w.migrateTo = some core → blk ∈ w.blocks → b.inbound = 0 →
        ∃ t, exec (.blockMigration blk core) s = .next t ∧ (t.ctx cid).walk = none ∧ (t.core core).l1 = [] ∧
          (t.blocks.get? blk).map (fun x => (x.life, x.core)) = some (.resident, core)))

/-! ## Registers and the platform -/

/-- R401, R336, R337, R354, R402, R405, R81, R82, R4, R399, R400, R419: what writes to registers do. JOBENT refuses by the
first condition of Table 15.4 that holds, leaving all but LAST, or starts a job: SEQ counts, the conductor is on its die's
control core with one lane and w0 to w3, STATUS is written. STOPCTL stops and resumes; a capture is cleared; an
invalidation starts, and ends with no covered translation left on the dies it reaches; writable fields take their
value and reserved ones stay 0, and RBEN takes what firmware writes; MODULE_RESET with its key leaves the machine as after
reset, but for memory outside the module.
The model's choices: an event whose condition does not hold leaves the state alone (log entry 5); as whom and where the JCB
is read and written (50, 60); which translations and accesses an invalidation covers (51, 70); that a stop starts its walk
at once (47); what firmware's writes that break an obligation do (72); what MODULE_RESET keeps of the model's own fields and
of memory (56). -/
def Obligations.RegisterEvents : Prop :=
  ∀ (s : State) (cid bytes die target n : Nat) (value : DWord) (addr : BitVec 7),
    let t0 := s.sampleDesc cid
    let refused := fun (v : BitVec 8) => ∃ t, exec (.jobent cid bytes value) s = .next t ∧
      t = { s with contexts := t.contexts } ∧ t.ctx cid = { s.ctx cid with last := v }
    let idle := (s.ctx cid).job = none
    let aligned := value.extractLsb' 48 16 = 0 ∧ value.extractLsb' 0 6 = 0
    let d := s.descWord cid
    let good := (d 0).getLsbD 0 = true ∧ (d 1).getLsbD 0 = true ∧ (d 2).getLsbD 0 = true ∧ (d 1).getLsbD 40 = false ∧
      (d 2).getLsbD 40 = true ∧ ((d 4).extractLsb' 0 4).toNat < 13 ∧ ((d 5).extractLsb' 0 4).toNat < 12
    (cid < 64 →
      (bytes < 8 → refused 5) ∧
      (8 ≤ bytes → s.ready = false → refused 6) ∧
      (8 ≤ bytes → s.ready = true → ¬ idle → refused 2) ∧
      (8 ≤ bytes → s.ready = true → idle → ¬ aligned → refused 4) ∧
      (8 ≤ bytes → s.ready = true → idle → aligned → ¬ good → refused 3) ∧
      (∀ f, 8 ≤ bytes → s.ready = true → idle → aligned → good → t0.ctxRead 128 cid value 256 = .error f →
        f.denial = none → refused 7) ∧
      ∀ bs, 8 ≤ bytes → s.ready = true → idle → aligned → good → t0.ctxRead 128 cid value 256 = .ok bs →
        let t1 := t0.noteCtxRead 128 cid value 256
        let ws := words64 bs
        let jd := if (ws.getD 3 0).getLsbD 0 then 1 else 0
        (ws.getD 3 0 >>> 1 ≠ 0 → refused 7) ∧
        (ws.getD 3 0 >>> 1 = 0 → ∀ u, t1.ctxWrite (128 + jd) cid (value + 0x20) (bytes64 1) = .ok u →
          ∃ t, exec (.jobent cid bytes value) s = .next t ∧ t.mem = u.mem ∧ (t.ctx cid).seq = (s.ctx cid).seq + 1 ∧
            (t.ctx cid).last = 1 ∧ (∀ i, i < 8 → t.desc cid i = d i) ∧
            (t.ctx cid).job = some ⟨value, (ws.getD 14 0).toNat, (ws.getD 15 0).toNat, jd, s.nextId, none⟩ ∧
            let c := t.warp s.nextId
            c.role = .control ∧ c.core = 128 + jd ∧ c.live = 1 ∧ c.life = .resident ∧ c.cid = cid ∧ c.grid = 0 ∧
              c.pcOf 0 = (ws.getD 0 0).extractLsb' 0 48 ∧ c.getW 1 ++ c.getW 0 = value ∧
              c.getW 3 ++ c.getW 2 = ws.getD 1 0 ∧ (∀ q, 4 ≤ q → c.getW q = 0) ∧ c.k = 0) ∧
        (ws.getD 3 0 >>> 1 = 0 → ∀ f, t1.ctxWrite (128 + jd) cid (value + 0x20) (bytes64 1) = .error f →
          ∃ t, exec (.jobent cid bytes value) s = .next t ∧ (t.ctx cid).job = none)) ∧
    (value.getLsbD 0 = false → exec (.stopctlStop cid value) s = .next s) ∧
    (value.getLsbD 0 = true → cid < 64 → ∃ t, exec (.stopctlStop cid value) s = .next t ∧ t = { s with contexts := t.contexts } ∧
      (t.ctx cid).stop = true ∧ ((s.ctx cid).stop = false → (t.ctx cid).stopAt = s.time.toNat) ∧ ((s.ctx cid).walk = none → s.placedBlocks cid ≠ [] →
        (t.ctx cid).walk = some ⟨s.placedBlocks cid, 0, s.time.toNat, true, none⟩)) ∧
    (if value.getLsbD 2 = true ∧ value.getLsbD 0 = false ∧ s.stopped cid = true then
      ∃ t, exec (.stopctlResume cid value) s = .next t ∧ t = { s with contexts := t.contexts } ∧
        t.ctx cid = { s.ctx cid with stop := false }
      else exec (.stopctlResume cid value) s = .next s) ∧
    (value.getLsbD 63 = false → exec (.captureClear die target value) s = .next s) ∧
    (value.getLsbD 63 = true → ∃ t, exec (.captureClear die target value) s = .next t ∧ t = { s with dies := t.dies } ∧
      (t.readCapture die target 0).getLsbD 63 = false ∧ t.readCapture die target 1 = 0 ∧
      (t.readCapture die target 0).extractLsb' 0 63 = (s.readCapture die target 0).extractLsb' 0 63 ∧
      ∀ k, k ≠ target → ∀ j, t.readCapture die k j = s.readCapture die k j) ∧
    (die < 2 → if (s.ctlWord die 0x1008).getLsbD 0 then exec (.xinvctlGo die value) s = .next s
      else ∃ t, exec (.xinvctlGo die value) s = .next t ∧ t = { s with dies := t.dies } ∧
        t.ctlWord die 0x1008 = value &&& 0xFF0003) ∧
    ((s.ctlWord die 0x1008).getLsbD 0 = false ∨ s.invQuiet die = false →
      exec (.invalidationComplete die) s = .next s) ∧
    ((s.ctlWord die 0x1008).getLsbD 0 = true → s.invQuiet die = true → ∃ t, exec (.invalidationComplete die) s = .next t ∧
      t.mem = s.mem ∧ t.warps = s.warps ∧ (t.ctlWord die 0x1008).getLsbD 0 = false ∧
      (∀ c, dieOfCore c ∈ s.invDies die → ∀ e ∈ (t.core c).tlb, s.invHits die e.cid e.va e.bits = false) ∧
      ∀ k ∈ s.invDies die, ∀ e ∈ (t.die k).stc, s.invHits die e.cid e.va e.bits = false) ∧
    (die < 2 → (∀ x ∈ ([(0x1000, 0x0000FFFFFFFF0000), (0x2000, 0x3F), (0x2200, 0x1F), (0x2400, 0x00003FFFFFE00001),
        (0x2408, 0xFFFF), (0x100000 + 8 * (n % 0x5800), BitVec.allOnes 64)] : List (Nat × DWord)),
        ∃ t, exec (.registerWrite (.control die) x.1 value) s = .next t ∧
          t = { s with dies := t.dies, contexts := t.contexts } ∧
          (∀ c, t.ctx c = { s.ctx c with breached := (t.ctx c).breached } ∧
            ((s.ctx c).job = none ∨ x.1 < 0x2400 → t.ctx c = s.ctx c) ∧
            ((s.ctx c).job ≠ none → x.1 = 0x2400 ∨ x.1 = 0x2408 → (t.ctx c).breached = true)) ∧
          t.ctlWord die x.1 = value &&& x.2 ∧ ∀ k o, (k ≠ die ∨ o ≠ x.1) → t.ctlWord k o = s.ctlWord k o) ∧
      exec (.registerWrite (.control die) 0x2410 value) s = .next s) ∧
    (cid < 64 → ∃ t, exec (.registerWrite .bar0 (0x100018 + 0x100 * cid) value) s = .next t ∧
      t = { s with contexts := t.contexts } ∧ t.ctx cid = { s.ctx cid with irqen := value.getLsbD 0 }) ∧
    (∃ t, exec (.registerWrite .management 0x10 value) s = .next t ∧ t = { s with powerLimit := t.powerLimit } ∧
      t.powerLimit = if value.toNat < 1000 then 1000 else if 3600 < value.toNat then 3600 else value.toNat) ∧
    exec (.registerWrite .firmware 0x20 value) s = .next { s with rben := value.getLsbD 0 } ∧
    (9 < n → exec (.resizableBarWrite n) s = .next s) ∧
    (n ≤ 9 → ∃ t, exec (.resizableBarWrite n) s = .next t ∧ t = { s with bar2log := n, b2base := t.b2base } ∧
      t.b2base.toNat = s.b2base.toNat / 2 ^ n * 2 ^ n) ∧
    exec (.uevtClear value) s = .next { s with uevt := s.uevt &&& ~~~(value.extractLsb' 0 2) } ∧
    exec (.i3cDynamicAddress addr) s = .next { s with i3c := some addr } ∧
    (value ≠ 0x5253 → exec (.moduleReset value) s = .next s) ∧
    (value = 0x5253 → ∃ t, exec (.moduleReset value) s = .next t ∧
      { t with mem := [], fresh := 0, agenda := [], ticks := 0, nextId := 1 } = State.reset ∧
      ∀ a, inModule a = false → Memory.get t.mem a = Memory.get s.mem a)

/-- R399, R400, R87, R408 to R412, R405: accesses from outside. The host's through BAR2 are checked at target 2 of die 0 and
then at their home; a drive's own are denied; a peer's are checked at their port's target. What is permitted is
performed and answered, what is denied is captured, changes no byte, and is answered by an error (a denied posted
write is not answered). A link or drive that goes takes its requests with it.
R389, R406, R409: an uncorrectable error ends the context it hits, or all and holds the module; a correctable one is
counted. R417: a sample record goes into its die's ring, or is counted as dropped. R370, R414, R415: levels follow the
highest request, are lowered one cluster at a time from the highest, and restored in reverse; a hot die is forced to
level 1, and held there, a hotter one ends every job. R413, R420: time steps; READY rises only in the last step of
bring-up, and a drive that the bifurcation in use does not have never comes up (R407).
The model's choices: an event whose condition does not hold leaves the state alone (log entry 5); which corrections step
(52); what is a request, and its address (53, 59); what a lost link takes with it (54); levels while firmware has lowered
them or the die is hot (55); the steps of bring-up (57); where an uncorrectable error stands, a location that keeps it
(64). -/
def Obligations.PlatformEvents : Prop :=
  ∀ (s : State) (off die drive pa port core cluster mw id : Nat) (performed : List Nat) (write : Bool) (acc : HostAccess)
      (power : BitVec 16) (delta : Int) (hbm graft : Bool) (links : BitVec 36) (drives : BitVec 4) (c : Cmd),
    let n := accSize acc
    let served := fun (i : Instr) (key : Nat) (answer : List Byte → OutMsg) => (∀ j, j < n → Sparse.get false s.vague (key + j) = false) →
      ∃ t, exec i s = .next t ∧ t.warps = s.warps ∧
      (∀ m, acc = .read m → t.mem = s.mem ∧ t.outbox = s.outbox ++ [answer (s.memBytes key m)]) ∧
      (∀ bs, acc = .write bs → t.mem = Memory.setList s.mem key bs ∧ t.outbox = s.outbox) ∧
      (∀ op x y, acc = .atomic op x y → let old := BitVec.ofNat 64 (ofBytes (s.memBytes key n))
        t.mem = Memory.setList s.mem key (toBytes n ((AtomOp.ofCode op.toNat).apply n old x y).toNat) ∧
        t.outbox = s.outbox ++ [answer (toBytes n old.toNat)])
    let stopsAll := fun (i : Instr) => ∃ t, exec i s = .next t ∧ (∀ cid, (t.ctx cid).job = none) ∧
      t.uevt.getLsbD 0 = true ∧ t.held = true
    let key := s.bar2Addr off
    let isWrite := ∃ bs, acc = .write bs
    let w := accKind acc != .read
    (off + n ≤ 2 ^ (30 + s.bar2log) → hostAtom acc = true →
      ((∀ ln ∈ linesOf key n, s.targetPermits 0 2 64 w (ln * 128) = true) → s.denial 64 (accKind acc) key n = none →
        (s.readsBad key acc = false → served (.bar2Access off acc) key .readData) ∧
        (s.readsBad key acc = true → exec (.bar2Access off acc) s = .next { s with outbox := s.outbox ++ [.completerAbort] })) ∧
      ((∃ ln ∈ linesOf key n, s.targetPermits 0 2 64 w (ln * 128) = false) → ∃ t, exec (.bar2Access off acc) s = .next t ∧
        t.mem = s.mem ∧ (t.readCapture 0 2 0).getLsbD 63 = true ∧ (isWrite → t.outbox = s.outbox) ∧
        (¬ isWrite → t.outbox = s.outbox ++ [.completerAbort]))) ∧
    (2 ^ (30 + s.bar2log) < off + n → exec (.bar2Access off acc) s = .next s) ∧
    (drive < 4 → ∃ t, exec (.driveDma drive pa write) s = .next t ∧ t.mem = s.mem ∧
      (t.readCapture 0 3 0).getLsbD 63 = true ∧
      t.outbox = if write then s.outbox else s.outbox ++ [.completerAbort]) ∧
    (port < 36 → s.linkUp.getLsbD port = true → oneRequest pa n = true → peerAtom acc = true →
      ((∀ ln ∈ linesOf pa n, s.targetPermits (port / 18) (4 + port % 18) (96 + port) w (ln * 128) = true) →
        s.denial (96 + port) (accKind acc) pa n = none →
        (s.readsBad pa acc = false → served (.scaleUpRequest port pa acc) pa (.peerData port)) ∧
        (s.readsBad pa acc = true → exec (.scaleUpRequest port pa acc) s = .next { s with outbox := s.outbox ++ [.peerError port] })) ∧
      ((∃ ln ∈ linesOf pa n, s.targetPermits (port / 18) (4 + port % 18) (96 + port) w (ln * 128) = false) →
        ∃ t, exec (.scaleUpRequest port pa acc) s = .next t ∧ t.mem = s.mem ∧ t.outbox = s.outbox ++ [.peerError port] ∧
          (t.readCapture (port / 18) (4 + port % 18) 0).getLsbD 63 = true)) ∧
    (port < 36 → if s.linkUp.getLsbD port then ∃ t, exec (.linkDown port performed) s = .next t ∧
        (∀ p, p < 36 → t.linkUp.getLsbD p = (s.linkUp.getLsbD p && decide (p ≠ port))) ∧
        ((∀ e ∈ s.warps, ∀ o ∈ e.2.ops, ∀ x ∈ o.2.accesses, x.denied = false) →
          ∀ a, a < 2 ^ 46 → Memory.get t.mem a = Memory.get s.mem a)
      else exec (.linkDown port performed) s = .next s ∧ exec (.scaleUpRequest port pa acc) s = .next s) ∧
    (drive < 4 → let t0 := { s with drivesUp := s.drivesUp &&& ~~~(1#4 <<< drive) };
      ((∀ e ∈ s.cmds, e.2.unit ≠ .storage) → exec (.driveRemoval drive) s = .next t0) ∧
      (s.cmds = [(id, c)] → c.unit = .storage → c.st = .started → c.fault = none → reqDrive c.words = drive →
        exec (.driveRemoval drive) s = exec (.storageCompletion id 0x07 []) t0)) ∧
    exec (.flitReplay die) s = .next s ∧
    stopsAll .graftLoss ∧ stopsAll (.uncorrectableError .shared) ∧
    (∀ cid, ((s.ctx cid).job = none → exec (.uncorrectableError (.context cid)) s = .next s) ∧
      ((s.ctx cid).job ≠ none → ∃ t, exec (.uncorrectableError (.context cid)) s = .next t ∧ (t.ctx cid).job = none)) ∧
    (∀ x ∈ ([(.hostRead, .completerAbort), (.driveRead drive, .completerAbort), (.peerRead port, .peerError port)] :
        List (ErrorSource × OutMsg)),
      ∃ t, exec (.uncorrectableError x.1) s = .next t ∧ t = { s with outbox := s.outbox ++ [x.2], bad := t.bad } ∧
        (t.bad = s.bad ∨ ∃ a, a % 8 = 0 ∧ inModule a = true ∧
          ∀ j, Sparse.get false t.bad j = (Sparse.get false s.bad j || decide (a ≤ j ∧ j < a + 8)))) ∧
    (die < 2 → ∃ t, exec (.correctableError die) s = .next t ∧ t = { s with dies := t.dies } ∧
      (t.die die).ce.toNat = Nat.min ((s.die die).ce.toNat + 1) (2 ^ 32 - 1) ∧
      (t.die (1 - die)).ce = (s.die (1 - die)).ce) ∧
    (core < 128 → let d := s.die (core / 64)
      let capacity := 2 ^ ((d.smpRing.extractLsb' 48 4).toNat + 8)
      let place := (d.smpRing.extractLsb' 12 34).toNat * 4096 + d.smpPut.toNat % capacity * 16
      (nextSample (s.sampled core) (s.core core).sampleNext = none → exec (.pcSampleTick core power) s = .next s) ∧
      ∀ e, nextSample (s.sampled core) (s.core core).sampleNext = some e → ∃ t, exec (.pcSampleTick core power) s = .next t ∧
        (t.core core).sampleNext = (e.1 + 1) % 64 ∧
        if capacity ≤ (d.smpPut - d.smpGet).toNat then t.mem = s.mem ∧ (t.die (core / 64)).smpPut = d.smpPut ∧
          (t.die (core / 64)).smpDrop.toNat = Nat.min (d.smpDrop.toNat + 1) (2 ^ 32 - 1)
        else t.mem = Memory.setList s.mem place (toBytes 6 (s.warp e.2).headRun.1.toNat ++
              [BitVec.ofNat 8 (s.warp e.2).slot, BitVec.ofNat 8 ((s.warp e.2).cid % 64)] ++ toBytes 2 ((s.warp e.2).core % 128) ++
              toBytes 2 power.toNat ++ toBytes 4 (s.time.toNat % 2 ^ 32)) ∧
          (t.die (core / 64)).smpPut = d.smpPut + 1) ∧
    (cluster < 32 → ∃ t, exec (.perfLevelChange cluster) s = .next t ∧ t = { s with clusterLevel := t.clusterLevel } ∧
      (∀ k, k ≠ cluster → t.levelOf k = s.levelOf k) ∧
      ((∀ e ∈ s.warps, e.2.role = .control ∨ e.2.onCore = false ∨ clusterOfCore e.2.core ≠ cluster) →
        t.levelOf cluster = if s.hot (cluster / 16) then 1 else 0) ∧
      ∀ e ∈ s.warps, e.2.role ≠ .control → (e.2.life = .resident ∨ e.2.life = .stopped) → clusterOfCore e.2.core = cluster →
        (s.contexts.get? e.2.cid).isSome = true → 1 ≤ (t.levelOf cluster).toNat ∧
        (s.hot (cluster / 16) = true → t.levelOf cluster = 1) ∧
        (s.hot (cluster / 16) = false → s.loweredBy cluster = 0 →
          Nat.min e.2.perfLvl.toNat ((s.desc e.2.cid 6).extractLsb' 4 4).toNat ≤ (t.levelOf cluster).toNat)) ∧
    (let est := { s with powerEst := BitVec.ofNat 64 mw };
      (mw ≤ 1000 * s.powerLimit → exec (.powerLimitExceeded mw) s = .next est) ∧
      (1000 * s.powerLimit < mw → ((∀ k, k < 32 → (s.levelOf k).toNat ≤ 1) → exec (.powerLimitExceeded mw) s = .next est) ∧
        ∀ k, k < 32 → 1 < (s.levelOf k).toNat → (∀ j, j < 32 → (s.levelOf j).toNat ≤ (s.levelOf k).toNat) →
          (∀ j, j < 32 → s.levelOf j = s.levelOf k → j ≤ k) → ∃ t, exec (.powerLimitExceeded mw) s = .next t ∧
            (t.levelOf k).toNat = (s.levelOf k).toNat - 1 ∧ (∀ j, j ≠ k → t.levelOf j = s.levelOf j) ∧
            t.lowerLog = k :: s.lowerLog ∧ t.loweredBy k = s.loweredBy k + 1) ∧
      (1000 * s.powerLimit < mw → exec (.effectiveLevelRestore mw) s = .next est) ∧
      (mw ≤ 1000 * s.powerLimit → (s.lowerLog = [] → exec (.effectiveLevelRestore mw) s = .next est) ∧
        ∀ k l, s.lowerLog = k :: l → ∃ t, exec (.effectiveLevelRestore mw) s = .next t ∧ t.lowerLog = l ∧
          t.loweredBy k = s.loweredBy k - 1 ∧ t.levelOf k = BitVec.ofNat 4 (if s.hot (k / 16) then 1 else match s.resolved k with
            | none => 0
            | some r => Nat.max 1 (r - (s.loweredBy k - 1))))) ∧
    (die < 2 → (∃ t, exec (.thermalLevelForce die) s = .next t ∧
        (∀ k, t.levelOf k = if k / 16 = die then 1 else s.levelOf k) ∧
        t.temperature.extractLsb' (16 * die) 16 = 105 * 16) ∧
      ∃ t, exec (.thermalShutdown die) s = .next t ∧ (∀ cid, (t.ctx cid).job = none) ∧ t.uevt.getLsbD 1 = true ∧
        t.held = true ∧ t.ready = false) ∧
    exec (.timebaseCorrection delta) s =
      .next (if 1000 ≤ delta then { s with time := s.time + BitVec.ofNat 64 delta.toNat } else s) ∧
    (let up := fun (b : State) => { b with bringup := s.bringup + 1 };
      let run := exec (.bringUp hbm graft links drives) s;
      (s.bringup ∈ [0, 1, 7] → run = .next (up s)) ∧ (9 ≤ s.bringup → run = .next s) ∧
      (s.bringup = 2 → run = .next (if graft then up s else s)) ∧ (s.bringup = 3 → hbm = false → run = .next s) ∧
      (s.bringup = 5 → ∃ t, run = .next t ∧ t = up { s with drivesUp := t.drivesUp } ∧
        ∀ i, i < 4 → t.drivesUp.getLsbD i = (drives.getLsbD i && Config.driveThere i)) ∧
      (s.bringup = 6 → run = .next (up { s with linkUp := links })) ∧
      (s.bringup = 4 → ∃ t, run = .next t ∧ t.bringup = 5 ∧ (∀ cid i, t.descWord cid i = 0 ∨ 64 ≤ cid ∨ 8 ≤ i) ∧
        ∀ d k m p a, d < 2 → k < 22 → m ≠ 255 → t.targetPermits d k m p a = false) ∧
      (s.bringup = 8 → run = .next (if (s.ctlWord 0 0x2400).getLsbD 0 ∧ (s.ctlWord 1 0x2400).getLsbD 0 then
        up { s with ready := true } else s)) ∧
      ∀ t, run = .next t → t.ready = true → s.ready = true ∨ s.bringup = 8)
end

