-- ==== Sys2Proof/Laws/Encoding.lean ====
section
/-! SUPPORT. Fields of the encoder's words: for each operand record, what its own word holds and that its reserved bits
are zero. The round trip of decoder and encoder rests on these. -/

namespace Sys2Proof

set_option Elab.async false
set_option linter.all false

set_option linter.unusedSimpArgs false

/-! ## Fields of the word forms -/

@[simp] theorem fOp_packRR (op : BitVec 8) (d a b g : BitVec 6) :
    fOp (packRR op d a b g) = op := by
  apply BitVec.eq_of_getLsbD_eq; intro i h
  simp only [fOp, packRR, BitVec.getLsbD_extractLsb', BitVec.getLsbD_append]
  (repeat' split) <;> simp_all <;> omega

@[simp] theorem fD_packRR (op : BitVec 8) (d a b g : BitVec 6) :
    fD (packRR op d a b g) = d := by
  apply BitVec.eq_of_getLsbD_eq; intro i h
  simp only [fD, packRR, BitVec.getLsbD_extractLsb', BitVec.getLsbD_append]
  (repeat' split) <;> simp_all <;> omega

@[simp] theorem fA_packRR (op : BitVec 8) (d a b g : BitVec 6) :
    fA (packRR op d a b g) = a := by
  apply BitVec.eq_of_getLsbD_eq; intro i h
  simp only [fA, packRR, BitVec.getLsbD_extractLsb', BitVec.getLsbD_append]
  (repeat' split) <;> simp_all <;> omega

@[simp] theorem fB_packRR (op : BitVec 8) (d a b g : BitVec 6) :
    fB (packRR op d a b g) = b := by
  apply BitVec.eq_of_getLsbD_eq; intro i h
  simp only [fB, packRR, BitVec.getLsbD_extractLsb', BitVec.getLsbD_append]
  (repeat' split) <;> simp_all <;> omega

@[simp] theorem fG_packRR (op : BitVec 8) (d a b g : BitVec 6) :
    fG (packRR op d a b g) = g := by
  apply BitVec.eq_of_getLsbD_eq; intro i h
  simp only [fG, packRR, BitVec.getLsbD_extractLsb', BitVec.getLsbD_append]
  (repeat' split) <;> simp_all <;> omega

@[simp] theorem fOp_packENG (op x y : BitVec 8) (m : BitVec 2) (g : BitVec 6) :
    fOp (packENG op x y m g) = op := by
  apply BitVec.eq_of_getLsbD_eq; intro i h
  simp only [fOp, packENG, BitVec.getLsbD_extractLsb', BitVec.getLsbD_append]
  (repeat' split) <;> simp_all <;> omega

@[simp] theorem fX_packENG (op x y : BitVec 8) (m : BitVec 2) (g : BitVec 6) :
    fX (packENG op x y m g) = x := by
  apply BitVec.eq_of_getLsbD_eq; intro i h
  simp only [fX, packENG, BitVec.getLsbD_extractLsb', BitVec.getLsbD_append]
  (repeat' split) <;> simp_all <;> omega

@[simp] theorem fY_packENG (op x y : BitVec 8) (m : BitVec 2) (g : BitVec 6) :
    fY (packENG op x y m g) = y := by
  apply BitVec.eq_of_getLsbD_eq; intro i h
  simp only [fY, packENG, BitVec.getLsbD_extractLsb', BitVec.getLsbD_append]
  (repeat' split) <;> simp_all <;> omega

@[simp] theorem fM_packENG (op x y : BitVec 8) (m : BitVec 2) (g : BitVec 6) :
    fM (packENG op x y m g) = m := by
  apply BitVec.eq_of_getLsbD_eq; intro i h
  simp only [fM, packENG, BitVec.getLsbD_extractLsb', BitVec.getLsbD_append]
  (repeat' split) <;> simp_all <;> omega

@[simp] theorem fG_packENG (op x y : BitVec 8) (m : BitVec 2) (g : BitVec 6) :
    fG (packENG op x y m g) = g := by
  apply BitVec.eq_of_getLsbD_eq; intro i h
  simp only [fG, packENG, BitVec.getLsbD_extractLsb', BitVec.getLsbD_append]
  (repeat' split) <;> simp_all <;> omega

@[simp] theorem fOp_packBR (op : BitVec 8) (off : BitVec 18) (g : BitVec 6) :
    fOp (packBR op off g) = op := by
  apply BitVec.eq_of_getLsbD_eq; intro i h
  simp only [fOp, packBR, BitVec.getLsbD_extractLsb', BitVec.getLsbD_append]
  (repeat' split) <;> simp_all <;> omega

@[simp] theorem fOff_packBR (op : BitVec 8) (off : BitVec 18) (g : BitVec 6) :
    fOff (packBR op off g) = off := by
  apply BitVec.eq_of_getLsbD_eq; intro i h
  simp only [fOff, packBR, BitVec.getLsbD_extractLsb', BitVec.getLsbD_append]
  (repeat' split) <;> simp_all <;> omega

@[simp] theorem fG_packBR (op : BitVec 8) (off : BitVec 18) (g : BitVec 6) :
    fG (packBR op off g) = g := by
  apply BitVec.eq_of_getLsbD_eq; intro i h
  simp only [fG, packBR, BitVec.getLsbD_extractLsb', BitVec.getLsbD_append]
  (repeat' split) <;> simp_all <;> omega

/-! ## Guards -/

@[simp] theorem LGuard.ofBits_bits (g : LGuard) : LGuard.ofBits g.bits = g := by
  obtain ⟨e, s, p⟩ := g
  revert e s p; decide

@[simp] theorem UGuard.ofBits_bits (g : UGuard) : UGuard.ofBits g.bits = g := by
  obtain ⟨e, s, k⟩ := g
  revert e s k; decide

@[simp] theorem UGuard.clean_bits (g : UGuard) : UGuard.clean g.bits = true := by
  obtain ⟨e, s, k⟩ := g
  revert e s k; decide

/-! ## Literals -/

@[simp] theorem packMma_ab (ab : BitVec 3) (z : Bool) (grp : BitVec 2) (dc : BitVec 3) (lat : BitVec 2) (re : Bool) (rg : BitVec 3) (wo wd : BitVec 6) (r : BitVec 5) :
    (packMma ab z grp dc lat re rg wo wd r).extractLsb' 29 3 = ab := by
  apply BitVec.eq_of_getLsbD_eq; intro i h
  simp only [packMma, BitVec.getLsbD_extractLsb', BitVec.getLsbD_append]
  (repeat' split) <;> simp_all <;> omega

@[simp] theorem packMma_z (ab : BitVec 3) (z : Bool) (grp : BitVec 2) (dc : BitVec 3) (lat : BitVec 2) (re : Bool) (rg : BitVec 3) (wo wd : BitVec 6) (r : BitVec 5) :
    (packMma ab z grp dc lat re rg wo wd r).getLsbD 28 = z := by
  simp only [packMma, BitVec.getLsbD_append, BitVec.getLsbD_ofBool] <;> simp

@[simp] theorem packMma_grp (ab : BitVec 3) (z : Bool) (grp : BitVec 2) (dc : BitVec 3) (lat : BitVec 2) (re : Bool) (rg : BitVec 3) (wo wd : BitVec 6) (r : BitVec 5) :
    (packMma ab z grp dc lat re rg wo wd r).extractLsb' 26 2 = grp := by
  apply BitVec.eq_of_getLsbD_eq; intro i h
  simp only [packMma, BitVec.getLsbD_extractLsb', BitVec.getLsbD_append]
  (repeat' split) <;> simp_all <;> omega

@[simp] theorem packMma_dc (ab : BitVec 3) (z : Bool) (grp : BitVec 2) (dc : BitVec 3) (lat : BitVec 2) (re : Bool) (rg : BitVec 3) (wo wd : BitVec 6) (r : BitVec 5) :
    (packMma ab z grp dc lat re rg wo wd r).extractLsb' 23 3 = dc := by
  apply BitVec.eq_of_getLsbD_eq; intro i h
  simp only [packMma, BitVec.getLsbD_extractLsb', BitVec.getLsbD_append]
  (repeat' split) <;> simp_all <;> omega

@[simp] theorem packMma_lat (ab : BitVec 3) (z : Bool) (grp : BitVec 2) (dc : BitVec 3) (lat : BitVec 2) (re : Bool) (rg : BitVec 3) (wo wd : BitVec 6) (r : BitVec 5) :
    (packMma ab z grp dc lat re rg wo wd r).extractLsb' 21 2 = lat := by
  apply BitVec.eq_of_getLsbD_eq; intro i h
  simp only [packMma, BitVec.getLsbD_extractLsb', BitVec.getLsbD_append]
  (repeat' split) <;> simp_all <;> omega

@[simp] theorem packMma_re (ab : BitVec 3) (z : Bool) (grp : BitVec 2) (dc : BitVec 3) (lat : BitVec 2) (re : Bool) (rg : BitVec 3) (wo wd : BitVec 6) (r : BitVec 5) :
    (packMma ab z grp dc lat re rg wo wd r).getLsbD 20 = re := by
  simp only [packMma, BitVec.getLsbD_append, BitVec.getLsbD_ofBool] <;> simp

@[simp] theorem packMma_rg (ab : BitVec 3) (z : Bool) (grp : BitVec 2) (dc : BitVec 3) (lat : BitVec 2) (re : Bool) (rg : BitVec 3) (wo wd : BitVec 6) (r : BitVec 5) :
    (packMma ab z grp dc lat re rg wo wd r).extractLsb' 17 3 = rg := by
  apply BitVec.eq_of_getLsbD_eq; intro i h
  simp only [packMma, BitVec.getLsbD_extractLsb', BitVec.getLsbD_append]
  (repeat' split) <;> simp_all <;> omega

@[simp] theorem packMma_wo (ab : BitVec 3) (z : Bool) (grp : BitVec 2) (dc : BitVec 3) (lat : BitVec 2) (re : Bool) (rg : BitVec 3) (wo wd : BitVec 6) (r : BitVec 5) :
    (packMma ab z grp dc lat re rg wo wd r).extractLsb' 11 6 = wo := by
  apply BitVec.eq_of_getLsbD_eq; intro i h
  simp only [packMma, BitVec.getLsbD_extractLsb', BitVec.getLsbD_append]
  (repeat' split) <;> simp_all <;> omega

@[simp] theorem packMma_wd (ab : BitVec 3) (z : Bool) (grp : BitVec 2) (dc : BitVec 3) (lat : BitVec 2) (re : Bool) (rg : BitVec 3) (wo wd : BitVec 6) (r : BitVec 5) :
    (packMma ab z grp dc lat re rg wo wd r).extractLsb' 5 6 = wd := by
  apply BitVec.eq_of_getLsbD_eq; intro i h
  simp only [packMma, BitVec.getLsbD_extractLsb', BitVec.getLsbD_append]
  (repeat' split) <;> simp_all <;> omega

@[simp] theorem packMma_r (ab : BitVec 3) (z : Bool) (grp : BitVec 2) (dc : BitVec 3) (lat : BitVec 2) (re : Bool) (rg : BitVec 3) (wo wd : BitVec 6) (r : BitVec 5) :
    (packMma ab z grp dc lat re rg wo wd r).extractLsb' 0 5 = r := by
  apply BitVec.eq_of_getLsbD_eq; intro i h
  simp only [packMma, BitVec.getLsbD_extractLsb', BitVec.getLsbD_append]
  (repeat' split) <;> simp_all <;> omega

@[simp] theorem packC_wp (wp : BitVec 6) (eq re : Bool) (rg : BitVec 3) (rows : BitVec 6) (ch : BitVec 5) (r : BitVec 10) :
    (packC wp eq re rg rows ch r).extractLsb' 26 6 = wp := by
  apply BitVec.eq_of_getLsbD_eq; intro i h
  simp only [packC, BitVec.getLsbD_extractLsb', BitVec.getLsbD_append]
  (repeat' split) <;> simp_all <;> omega

@[simp] theorem packC_eq (wp : BitVec 6) (eq re : Bool) (rg : BitVec 3) (rows : BitVec 6) (ch : BitVec 5) (r : BitVec 10) :
    (packC wp eq re rg rows ch r).getLsbD 25 = eq := by
  simp only [packC, BitVec.getLsbD_append, BitVec.getLsbD_ofBool] <;> simp

@[simp] theorem packC_re (wp : BitVec 6) (eq re : Bool) (rg : BitVec 3) (rows : BitVec 6) (ch : BitVec 5) (r : BitVec 10) :
    (packC wp eq re rg rows ch r).getLsbD 24 = re := by
  simp only [packC, BitVec.getLsbD_append, BitVec.getLsbD_ofBool] <;> simp

@[simp] theorem packC_rg (wp : BitVec 6) (eq re : Bool) (rg : BitVec 3) (rows : BitVec 6) (ch : BitVec 5) (r : BitVec 10) :
    (packC wp eq re rg rows ch r).extractLsb' 21 3 = rg := by
  apply BitVec.eq_of_getLsbD_eq; intro i h
  simp only [packC, BitVec.getLsbD_extractLsb', BitVec.getLsbD_append]
  (repeat' split) <;> simp_all <;> omega

@[simp] theorem packC_rows (wp : BitVec 6) (eq re : Bool) (rg : BitVec 3) (rows : BitVec 6) (ch : BitVec 5) (r : BitVec 10) :
    (packC wp eq re rg rows ch r).extractLsb' 15 6 = rows := by
  apply BitVec.eq_of_getLsbD_eq; intro i h
  simp only [packC, BitVec.getLsbD_extractLsb', BitVec.getLsbD_append]
  (repeat' split) <;> simp_all <;> omega

@[simp] theorem packC_ch (wp : BitVec 6) (eq re : Bool) (rg : BitVec 3) (rows : BitVec 6) (ch : BitVec 5) (r : BitVec 10) :
    (packC wp eq re rg rows ch r).extractLsb' 10 5 = ch := by
  apply BitVec.eq_of_getLsbD_eq; intro i h
  simp only [packC, BitVec.getLsbD_extractLsb', BitVec.getLsbD_append]
  (repeat' split) <;> simp_all <;> omega

@[simp] theorem packC_r (wp : BitVec 6) (eq re : Bool) (rg : BitVec 3) (rows : BitVec 6) (ch : BitVec 5) (r : BitVec 10) :
    (packC wp eq re rg rows ch r).extractLsb' 0 10 = r := by
  apply BitVec.eq_of_getLsbD_eq; intro i h
  simp only [packC, BitVec.getLsbD_extractLsb', BitVec.getLsbD_append]
  (repeat' split) <;> simp_all <;> omega

/-! ## Records: fields and reserved bits of a record's own word -/

@[simp] theorem VPfx.ofWord_word (p : VPfx) : VPfx.ofWord p.word = p := by
  cases p
  simp only [VPfx.ofWord, VPfx.word, VPfx.mk.injEq]
  repeat' apply And.intro
  all_goals first
    | (apply BitVec.eq_of_getLsbD_eq; intro i h
       simp only [BitVec.getLsbD_extractLsb', BitVec.getLsbD_append]
       (repeat' split) <;> simp_all <;> omega)
    | (simp only [BitVec.getLsbD_append] <;> simp)

@[simp] theorem VPfx.fOp_word (p : VPfx) : fOp p.word = 255 := by
  apply BitVec.eq_of_getLsbD_eq; intro i h
  simp only [fOp, VPfx.word, BitVec.getLsbD_extractLsb', BitVec.getLsbD_append]
  (repeat' split) <;> simp_all <;> omega

@[simp] theorem VPfx.clean_word (p : VPfx) : VPfx.clean p.word = true := by
  have h : p.word.extractLsb' 0 9 = 0#9 := by
    apply BitVec.eq_of_getLsbD_eq; intro i h
    simp only [VPfx.word, BitVec.getLsbD_extractLsb', BitVec.getLsbD_append]
    (repeat' split) <;> simp_all <;> omega
  simp [VPfx.clean, h]

@[simp] theorem LPfx.ofWord_word (p : LPfx) : LPfx.ofWord p.word = p := by
  cases p
  simp only [LPfx.ofWord, LPfx.word, LPfx.mk.injEq]
  repeat' apply And.intro
  all_goals first
    | (apply BitVec.eq_of_getLsbD_eq; intro i h
       simp only [BitVec.getLsbD_extractLsb', BitVec.getLsbD_append]
       (repeat' split) <;> simp_all <;> omega)
    | (simp only [BitVec.getLsbD_append] <;> simp)

@[simp] theorem LPfx.fOp_word (p : LPfx) : fOp p.word = 255 := by
  apply BitVec.eq_of_getLsbD_eq; intro i h
  simp only [fOp, LPfx.word, BitVec.getLsbD_extractLsb', BitVec.getLsbD_append]
  (repeat' split) <;> simp_all <;> omega

@[simp] theorem SRR.fOp_word (op : BitVec 8) (o : SRR) : fOp (o.word op) = op := by simp [SRR.word]

@[simp] theorem SRR.ofWord_word (op : BitVec 8) (o : SRR) : SRR.ofWord (o.word op) = o := by simp [SRR.ofWord, SRR.word]

@[simp] theorem SRR.clean_word (op : BitVec 8) (o : SRR) : SRR.clean (o.word op) = true := by simp [SRR.clean, SRR.word]

@[simp] theorem SR1.fOp_word (op : BitVec 8) (o : SR1) : fOp (o.word op) = op := by simp [SR1.word]

@[simp] theorem SR1.ofWord_word (op : BitVec 8) (o : SR1) : SR1.ofWord (o.word op) = o := by simp [SR1.ofWord, SR1.word]

@[simp] theorem SR1.clean_word (op : BitVec 8) (o : SR1) : SR1.clean (o.word op) = true := by simp [SR1.clean, SR1.word]

@[simp] theorem SRI.fOp_word (op : BitVec 8) (o : SRI) : fOp (o.word op) = op := by simp [SRI.word]

@[simp] theorem SRI.ofWord_word (op : BitVec 8) (o : SRI) : SRI.ofWord (o.word op) = o := by simp [SRI.ofWord, SRI.word]

@[simp] theorem SRI.clean_word (op : BitVec 8) (o : SRI) : SRI.clean (o.word op) = true := by simp [SRI.clean, SRI.word]

@[simp] theorem SRL.fOp_word (op : BitVec 8) (o : SRL) : fOp (o.word op) = op := by simp [SRL.word]

@[simp] theorem SRL.ofWord_word (op : BitVec 8) (o : SRL) : SRL.ofWord (o.word op) o.lit = o := by simp [SRL.ofWord, SRL.word]

@[simp] theorem SRL.clean_word (op : BitVec 8) (o : SRL) : SRL.clean (o.word op) = true := by simp [SRL.clean, SRL.word]

@[simp] theorem SCS.fOp_word (op : BitVec 8) (o : SCS) : fOp (o.word op) = op := by simp [SCS.word]

@[simp] theorem SCS.ofWord_word (op : BitVec 8) (o : SCS) :
    SCS.ofWord (o.word op) = o := by
  obtain ⟨⟩ := o
  simp only [SCS.ofWord, SCS.word, fD_packRR, fA_packRR, fB_packRR, fG_packRR, LGuard.ofBits_bits, UGuard.ofBits_bits, SCS.mk.injEq]
  repeat' apply And.intro
  all_goals first
    | trivial
    | rfl
    | (apply BitVec.eq_of_getLsbD_eq; intro i h
       simp only [BitVec.getLsbD_extractLsb', BitVec.getLsbD_append]
       (repeat' split) <;> simp_all <;> omega)
    | (simp only [BitVec.getLsbD_append, BitVec.getLsbD_ofBool] <;> simp)

@[simp] theorem SCS.clean_word (op : BitVec 8) (o : SCS) :
    SCS.clean (o.word op) = true := by
  obtain ⟨⟩ := o
  simp only [SCS.clean, SCS.word, fD_packRR, fA_packRR, fB_packRR, fG_packRR, UGuard.clean_bits, Bool.and_eq_true, beq_iff_eq]
  repeat' apply And.intro
  all_goals first
    | trivial
    | rfl
    | (apply BitVec.eq_of_getLsbD_eq; intro i h
       simp only [BitVec.getLsbD_extractLsb', BitVec.getLsbD_append]
       (repeat' split) <;> simp_all <;> omega)
    | (simp only [BitVec.getLsbD_append, BitVec.getLsbD_ofBool] <;> simp)

@[simp] theorem SSel.fOp_word (op : BitVec 8) (o : SSel) : fOp (o.word op) = op := by simp [SSel.word]

@[simp] theorem SSel.ofWord_word (op : BitVec 8) (o : SSel) :
    SSel.ofWord (o.word op) = o := by
  obtain ⟨⟩ := o
  simp only [SSel.ofWord, SSel.word, fD_packRR, fA_packRR, fB_packRR, fG_packRR, LGuard.ofBits_bits, UGuard.ofBits_bits, SSel.mk.injEq]
  repeat' apply And.intro
  all_goals first
    | trivial
    | rfl
    | (apply BitVec.eq_of_getLsbD_eq; intro i h
       simp only [BitVec.getLsbD_extractLsb', BitVec.getLsbD_append]
       (repeat' split) <;> simp_all <;> omega)
    | (simp only [BitVec.getLsbD_append, BitVec.getLsbD_ofBool] <;> simp)

@[simp] theorem SSel.clean_word (op : BitVec 8) (o : SSel) :
    SSel.clean (o.word op) = true := by
  obtain ⟨⟩ := o
  simp only [SSel.clean, SSel.word, fD_packRR, fA_packRR, fB_packRR, fG_packRR, UGuard.clean_bits, Bool.and_eq_true, beq_iff_eq]
  repeat' apply And.intro
  all_goals first
    | trivial
    | rfl
    | (apply BitVec.eq_of_getLsbD_eq; intro i h
       simp only [BitVec.getLsbD_extractLsb', BitVec.getLsbD_append]
       (repeat' split) <;> simp_all <;> omega)
    | (simp only [BitVec.getLsbD_append, BitVec.getLsbD_ofBool] <;> simp)

@[simp] theorem SCV.fOp_word (op : BitVec 8) (o : SCV) : fOp (o.word op) = op := by simp [SCV.word]

@[simp] theorem SCV.ofWord_word (op : BitVec 8) (o : SCV) : SCV.ofWord (o.word op) = o := by simp [SCV.ofWord, SCV.word]

@[simp] theorem SCV.clean_word (op : BitVec 8) (o : SCV) : SCV.clean (o.word op) = true := by simp [SCV.clean, SCV.word]

@[simp] theorem VRR.fOp_word (op : BitVec 8) (o : VRR) : fOp (o.word op) = op := by simp [VRR.word]

@[simp] theorem VRR.ofWord_word (op : BitVec 8) (o : VRR) : VRR.ofWord o.x (o.word op) = o := by simp [VRR.ofWord, VRR.word]

@[simp] theorem VRR.clean_word (op : BitVec 8) (o : VRR) : VRR.clean (o.word op) = true := by simp [VRR.clean, VRR.word]

@[simp] theorem VR1.fOp_word (op : BitVec 8) (o : VR1) : fOp (o.word op) = op := by simp [VR1.word]

@[simp] theorem VR1.ofWord_word (op : BitVec 8) (o : VR1) : VR1.ofWord o.x (o.word op) = o := by simp [VR1.ofWord, VR1.word]

@[simp] theorem VR1.clean_word (op : BitVec 8) (o : VR1) : VR1.clean (o.word op) = true := by simp [VR1.clean, VR1.word]

@[simp] theorem VRI.fOp_word (op : BitVec 8) (o : VRI) : fOp (o.word op) = op := by simp [VRI.word]

@[simp] theorem VRI.ofWord_word (op : BitVec 8) (o : VRI) : VRI.ofWord o.x (o.word op) = o := by simp [VRI.ofWord, VRI.word]

@[simp] theorem VRI.clean_word (op : BitVec 8) (o : VRI) : VRI.clean (o.word op) = true := by simp [VRI.clean, VRI.word]

@[simp] theorem VRL.fOp_word (op : BitVec 8) (o : VRL) : fOp (o.word op) = op := by simp [VRL.word]

@[simp] theorem VRL.ofWord_word (op : BitVec 8) (o : VRL) : VRL.ofWord o.x (o.word op) o.lit = o := by simp [VRL.ofWord, VRL.word]

@[simp] theorem VRL.clean_word (op : BitVec 8) (o : VRL) : VRL.clean (o.word op) = true := by simp [VRL.clean, VRL.word]

@[simp] theorem VRW.fOp_word (op : BitVec 8) (o : VRW) : fOp (o.word op) = op := by simp [VRW.word]

@[simp] theorem VRW.ofWord_word (op : BitVec 8) (o : VRW) : VRW.ofWord o.x (o.word op) = o := by simp [VRW.ofWord, VRW.word]

@[simp] theorem VRW.clean_word (op : BitVec 8) (o : VRW) : VRW.clean (o.word op) = true := by simp [VRW.clean, VRW.word]

@[simp] theorem VAW.fOp_word (op : BitVec 8) (o : VAW) : fOp (o.word op) = op := by simp [VAW.word]

@[simp] theorem VAW.ofWord_word (op : BitVec 8) (o : VAW) : VAW.ofWord o.x (o.word op) = o := by simp [VAW.ofWord, VAW.word]

@[simp] theorem VAW.clean_word (op : BitVec 8) (o : VAW) : VAW.clean (o.word op) = true := by simp [VAW.clean, VAW.word]

@[simp] theorem VCP.fOp_word (op : BitVec 8) (o : VCP) : fOp (o.word op) = op := by simp [VCP.word]

@[simp] theorem VCP.ofWord_word (op : BitVec 8) (o : VCP) :
    VCP.ofWord o.x (o.word op) = o := by
  obtain ⟨⟩ := o
  simp only [VCP.ofWord, VCP.word, fD_packRR, fA_packRR, fB_packRR, fG_packRR, LGuard.ofBits_bits, UGuard.ofBits_bits, VCP.mk.injEq]
  repeat' apply And.intro
  all_goals first
    | trivial
    | rfl
    | (apply BitVec.eq_of_getLsbD_eq; intro i h
       simp only [BitVec.getLsbD_extractLsb', BitVec.getLsbD_append]
       (repeat' split) <;> simp_all <;> omega)
    | (simp only [BitVec.getLsbD_append, BitVec.getLsbD_ofBool] <;> simp)

@[simp] theorem VCP.clean_word (op : BitVec 8) (o : VCP) :
    VCP.clean (o.word op) = true := by
  obtain ⟨⟩ := o
  simp only [VCP.clean, VCP.word, fD_packRR, fA_packRR, fB_packRR, fG_packRR, UGuard.clean_bits, Bool.and_eq_true, beq_iff_eq]
  repeat' apply And.intro
  all_goals first
    | trivial
    | rfl
    | (apply BitVec.eq_of_getLsbD_eq; intro i h
       simp only [BitVec.getLsbD_extractLsb', BitVec.getLsbD_append]
       (repeat' split) <;> simp_all <;> omega)
    | (simp only [BitVec.getLsbD_append, BitVec.getLsbD_ofBool] <;> simp)

@[simp] theorem VSel.fOp_word (op : BitVec 8) (o : VSel) : fOp (o.word op) = op := by simp [VSel.word]

@[simp] theorem VSel.ofWord_word (op : BitVec 8) (o : VSel) :
    VSel.ofWord o.x (o.word op) = o := by
  obtain ⟨⟩ := o
  simp only [VSel.ofWord, VSel.word, fD_packRR, fA_packRR, fB_packRR, fG_packRR, LGuard.ofBits_bits, UGuard.ofBits_bits, VSel.mk.injEq]
  repeat' apply And.intro
  all_goals first
    | trivial
    | rfl
    | (apply BitVec.eq_of_getLsbD_eq; intro i h
       simp only [BitVec.getLsbD_extractLsb', BitVec.getLsbD_append]
       (repeat' split) <;> simp_all <;> omega)
    | (simp only [BitVec.getLsbD_append, BitVec.getLsbD_ofBool] <;> simp)

@[simp] theorem VSel.clean_word (op : BitVec 8) (o : VSel) :
    VSel.clean (o.word op) = true := by
  obtain ⟨⟩ := o
  simp only [VSel.clean, VSel.word, fD_packRR, fA_packRR, fB_packRR, fG_packRR, UGuard.clean_bits, Bool.and_eq_true, beq_iff_eq]
  repeat' apply And.intro
  all_goals first
    | trivial
    | rfl
    | (apply BitVec.eq_of_getLsbD_eq; intro i h
       simp only [BitVec.getLsbD_extractLsb', BitVec.getLsbD_append]
       (repeat' split) <;> simp_all <;> omega)
    | (simp only [BitVec.getLsbD_append, BitVec.getLsbD_ofBool] <;> simp)

@[simp] theorem VD.fOp_word (op : BitVec 8) (o : VD) : fOp (o.word op) = op := by simp [VD.word]

@[simp] theorem VD.ofWord_word (op : BitVec 8) (o : VD) : VD.ofWord o.x (o.word op) = o := by simp [VD.ofWord, VD.word]

@[simp] theorem VD.clean_word (op : BitVec 8) (o : VD) : VD.clean (o.word op) = true := by simp [VD.clean, VD.word]

@[simp] theorem VA.fOp_word (op : BitVec 8) (o : VA) : fOp (o.word op) = op := by simp [VA.word]

@[simp] theorem VA.ofWord_word (op : BitVec 8) (o : VA) : VA.ofWord o.x (o.word op) = o := by simp [VA.ofWord, VA.word]

@[simp] theorem VA.clean_word (op : BitVec 8) (o : VA) : VA.clean (o.word op) = true := by simp [VA.clean, VA.word]

@[simp] theorem VSr.fOp_word (op : BitVec 8) (o : VSr) : fOp (o.word op) = op := by simp [VSr.word]

@[simp] theorem VSr.ofWord_word (op : BitVec 8) (o : VSr) : VSr.ofWord o.x (o.word op) = o := by simp [VSr.ofWord, VSr.word]

@[simp] theorem VSr.clean_word (op : BitVec 8) (o : VSr) : VSr.clean (o.word op) = true := by simp [VSr.clean, VSr.word]

@[simp] theorem VCV.fOp_word (op : BitVec 8) (o : VCV) : fOp (o.word op) = op := by simp [VCV.word]

@[simp] theorem VCV.ofWord_word (op : BitVec 8) (o : VCV) : VCV.ofWord o.x (o.word op) = o := by simp [VCV.ofWord, VCV.word]

@[simp] theorem VCV.clean_word (op : BitVec 8) (o : VCV) : VCV.clean (o.word op) = true := by simp [VCV.clean, VCV.word]

@[simp] theorem LMem.fOp_word (op : BitVec 8) (o : LMem) : fOp (o.word op) = op := by simp [LMem.word]

@[simp] theorem LMem.ofWord_word (op : BitVec 8) (o : LMem) : LMem.ofWord o.x (o.word op) = o := by simp [LMem.ofWord, LMem.word]

@[simp] theorem LMem.clean_word (op : BitVec 8) (o : LMem) : LMem.clean (o.word op) = true := by simp [LMem.clean, LMem.word]

@[simp] theorem LTile.fOp_word (op : BitVec 8) (o : LTile) : fOp (o.word op) = op := by simp [LTile.word]

@[simp] theorem LTile.ofWord_word (op : BitVec 8) (o : LTile) : LTile.ofWord o.x (o.word op) = o := by simp [LTile.ofWord, LTile.word]

@[simp] theorem LTile.clean_word (op : BitVec 8) (o : LTile) : LTile.clean (o.word op) = true := by simp [LTile.clean, LTile.word]

@[simp] theorem LAcc.fOp_word (op : BitVec 8) (o : LAcc) : fOp (o.word op) = op := by simp [LAcc.word]

@[simp] theorem LAcc.ofWord_word (op : BitVec 8) (o : LAcc) :
    LAcc.ofWord o.x (o.word op) = o := by
  obtain ⟨⟩ := o
  simp only [LAcc.ofWord, LAcc.word, fD_packRR, fA_packRR, fB_packRR, fG_packRR, LGuard.ofBits_bits, UGuard.ofBits_bits, LAcc.mk.injEq]
  repeat' apply And.intro
  all_goals first
    | trivial
    | rfl
    | (apply BitVec.eq_of_getLsbD_eq; intro i h
       simp only [BitVec.getLsbD_extractLsb', BitVec.getLsbD_append]
       (repeat' split) <;> simp_all <;> omega)
    | (simp only [BitVec.getLsbD_append, BitVec.getLsbD_ofBool] <;> simp)

@[simp] theorem LAcc.clean_word (op : BitVec 8) (o : LAcc) :
    LAcc.clean (o.word op) = true := by
  obtain ⟨⟩ := o
  simp only [LAcc.clean, LAcc.word, fD_packRR, fA_packRR, fB_packRR, fG_packRR, UGuard.clean_bits, Bool.and_eq_true, beq_iff_eq]
  repeat' apply And.intro
  all_goals first
    | trivial
    | rfl
    | (apply BitVec.eq_of_getLsbD_eq; intro i h
       simp only [BitVec.getLsbD_extractLsb', BitVec.getLsbD_append]
       (repeat' split) <;> simp_all <;> omega)
    | (simp only [BitVec.getLsbD_append, BitVec.getLsbD_ofBool] <;> simp)

@[simp] theorem LFence.fOp_word (op : BitVec 8) (o : LFence) : fOp (o.word op) = op := by simp [LFence.word]

@[simp] theorem LFence.ofWord_word (op : BitVec 8) (o : LFence) : LFence.ofWord o.x (o.word op) = o := by simp [LFence.ofWord, LFence.word]

@[simp] theorem LFence.clean_word (op : BitVec 8) (o : LFence) : LFence.clean (o.word op) = true := by simp [LFence.clean, LFence.word]

@[simp] theorem LLine.fOp_word (op : BitVec 8) (o : LLine) : fOp (o.word op) = op := by simp [LLine.word]

@[simp] theorem LLine.ofWord_word (op : BitVec 8) (o : LLine) : LLine.ofWord o.x (o.word op) = o := by simp [LLine.ofWord, LLine.word]

@[simp] theorem LLine.clean_word (op : BitVec 8) (o : LLine) : LLine.clean (o.word op) = true := by simp [LLine.clean, LLine.word]

@[simp] theorem XG.fOp_word (op : BitVec 8) (o : XG) : fOp (o.word op) = op := by simp [XG.word]

@[simp] theorem XG.ofWord_word (op : BitVec 8) (o : XG) : XG.ofWord (o.word op) = o := by simp [XG.ofWord, XG.word]

@[simp] theorem XG.clean_word (op : BitVec 8) (o : XG) : XG.clean (o.word op) = true := by simp [XG.clean, XG.word]

@[simp] theorem XRI.fOp_word (op : BitVec 8) (o : XRI) : fOp (o.word op) = op := by simp [XRI.word]

@[simp] theorem XRI.ofWord_word (op : BitVec 8) (o : XRI) : XRI.ofWord (o.word op) = o := by simp [XRI.ofWord, XRI.word]

@[simp] theorem XRI.clean_word (op : BitVec 8) (o : XRI) : XRI.clean (o.word op) = true := by simp [XRI.clean, XRI.word]

@[simp] theorem XR1.fOp_word (op : BitVec 8) (o : XR1) : fOp (o.word op) = op := by simp [XR1.word]

@[simp] theorem XR1.ofWord_word (op : BitVec 8) (o : XR1) : XR1.ofWord (o.word op) = o := by simp [XR1.ofWord, XR1.word]

@[simp] theorem XR1.clean_word (op : BitVec 8) (o : XR1) : XR1.clean (o.word op) = true := by simp [XR1.clean, XR1.word]

@[simp] theorem XTy.fOp_word (op : BitVec 8) (o : XTy) : fOp (o.word op) = op := by simp [XTy.word]

@[simp] theorem XTy.ofWord_word (op : BitVec 8) (o : XTy) :
    XTy.ofWord (o.word op) = o := by
  obtain ⟨⟩ := o
  simp only [XTy.ofWord, XTy.word, fD_packRR, fA_packRR, fB_packRR, fG_packRR, LGuard.ofBits_bits, UGuard.ofBits_bits, XTy.mk.injEq]
  repeat' apply And.intro
  all_goals first
    | trivial
    | rfl
    | (apply BitVec.eq_of_getLsbD_eq; intro i h
       simp only [BitVec.getLsbD_extractLsb', BitVec.getLsbD_append]
       (repeat' split) <;> simp_all <;> omega)
    | (simp only [BitVec.getLsbD_append, BitVec.getLsbD_ofBool] <;> simp)

@[simp] theorem XTy.clean_word (op : BitVec 8) (o : XTy) :
    XTy.clean (o.word op) = true := by
  obtain ⟨⟩ := o
  simp only [XTy.clean, XTy.word, fD_packRR, fA_packRR, fB_packRR, fG_packRR, UGuard.clean_bits, Bool.and_eq_true, beq_iff_eq]
  repeat' apply And.intro
  all_goals first
    | trivial
    | rfl
    | (apply BitVec.eq_of_getLsbD_eq; intro i h
       simp only [BitVec.getLsbD_extractLsb', BitVec.getLsbD_append]
       (repeat' split) <;> simp_all <;> omega)
    | (simp only [BitVec.getLsbD_append, BitVec.getLsbD_ofBool] <;> simp)

@[simp] theorem XQd.fOp_word (op : BitVec 8) (o : XQd) : fOp (o.word op) = op := by simp [XQd.word]

@[simp] theorem XQd.ofWord_word (op : BitVec 8) (o : XQd) :
    XQd.ofWord (o.word op) = o := by
  obtain ⟨⟩ := o
  simp only [XQd.ofWord, XQd.word, fD_packRR, fA_packRR, fB_packRR, fG_packRR, LGuard.ofBits_bits, UGuard.ofBits_bits, XQd.mk.injEq]
  repeat' apply And.intro
  all_goals first
    | trivial
    | rfl
    | (apply BitVec.eq_of_getLsbD_eq; intro i h
       simp only [BitVec.getLsbD_extractLsb', BitVec.getLsbD_append]
       (repeat' split) <;> simp_all <;> omega)
    | (simp only [BitVec.getLsbD_append, BitVec.getLsbD_ofBool] <;> simp)

@[simp] theorem XQd.clean_word (op : BitVec 8) (o : XQd) :
    XQd.clean (o.word op) = true := by
  obtain ⟨⟩ := o
  simp only [XQd.clean, XQd.word, fD_packRR, fA_packRR, fB_packRR, fG_packRR, UGuard.clean_bits, Bool.and_eq_true, beq_iff_eq]
  repeat' apply And.intro
  all_goals first
    | trivial
    | rfl
    | (apply BitVec.eq_of_getLsbD_eq; intro i h
       simp only [BitVec.getLsbD_extractLsb', BitVec.getLsbD_append]
       (repeat' split) <;> simp_all <;> omega)
    | (simp only [BitVec.getLsbD_append, BitVec.getLsbD_ofBool] <;> simp)

@[simp] theorem XVote.fOp_word (op : BitVec 8) (o : XVote) : fOp (o.word op) = op := by simp [XVote.word]

@[simp] theorem XVote.ofWord_word (op : BitVec 8) (o : XVote) :
    XVote.ofWord (o.word op) = o := by
  obtain ⟨⟩ := o
  simp only [XVote.ofWord, XVote.word, fD_packRR, fA_packRR, fB_packRR, fG_packRR, LGuard.ofBits_bits, UGuard.ofBits_bits, XVote.mk.injEq]
  repeat' apply And.intro
  all_goals first
    | trivial
    | rfl
    | (apply BitVec.eq_of_getLsbD_eq; intro i h
       simp only [BitVec.getLsbD_extractLsb', BitVec.getLsbD_append]
       (repeat' split) <;> simp_all <;> omega)
    | (simp only [BitVec.getLsbD_append, BitVec.getLsbD_ofBool] <;> simp)

@[simp] theorem XVote.clean_word (op : BitVec 8) (o : XVote) :
    XVote.clean (o.word op) = true := by
  obtain ⟨⟩ := o
  simp only [XVote.clean, XVote.word, fD_packRR, fA_packRR, fB_packRR, fG_packRR, UGuard.clean_bits, Bool.and_eq_true, beq_iff_eq]
  repeat' apply And.intro
  all_goals first
    | trivial
    | rfl
    | (apply BitVec.eq_of_getLsbD_eq; intro i h
       simp only [BitVec.getLsbD_extractLsb', BitVec.getLsbD_append]
       (repeat' split) <;> simp_all <;> omega)
    | (simp only [BitVec.getLsbD_append, BitVec.getLsbD_ofBool] <;> simp)

@[simp] theorem XBal.fOp_word (op : BitVec 8) (o : XBal) : fOp (o.word op) = op := by simp [XBal.word]

@[simp] theorem XBal.ofWord_word (op : BitVec 8) (o : XBal) :
    XBal.ofWord (o.word op) = o := by
  obtain ⟨⟩ := o
  simp only [XBal.ofWord, XBal.word, fD_packRR, fA_packRR, fB_packRR, fG_packRR, LGuard.ofBits_bits, UGuard.ofBits_bits, XBal.mk.injEq]
  repeat' apply And.intro
  all_goals first
    | trivial
    | rfl
    | (apply BitVec.eq_of_getLsbD_eq; intro i h
       simp only [BitVec.getLsbD_extractLsb', BitVec.getLsbD_append]
       (repeat' split) <;> simp_all <;> omega)
    | (simp only [BitVec.getLsbD_append, BitVec.getLsbD_ofBool] <;> simp)

@[simp] theorem XBal.clean_word (op : BitVec 8) (o : XBal) :
    XBal.clean (o.word op) = true := by
  obtain ⟨⟩ := o
  simp only [XBal.clean, XBal.word, fD_packRR, fA_packRR, fB_packRR, fG_packRR, UGuard.clean_bits, Bool.and_eq_true, beq_iff_eq]
  repeat' apply And.intro
  all_goals first
    | trivial
    | rfl
    | (apply BitVec.eq_of_getLsbD_eq; intro i h
       simp only [BitVec.getLsbD_extractLsb', BitVec.getLsbD_append]
       (repeat' split) <;> simp_all <;> omega)
    | (simp only [BitVec.getLsbD_append, BitVec.getLsbD_ofBool] <;> simp)

@[simp] theorem XScan.fOp_word (op : BitVec 8) (o : XScan) : fOp (o.word op) = op := by simp [XScan.word]

@[simp] theorem XScan.ofWord_word (op : BitVec 8) (o : XScan) :
    XScan.ofWord (o.word op) = o := by
  obtain ⟨⟩ := o
  simp only [XScan.ofWord, XScan.word, fD_packRR, fA_packRR, fB_packRR, fG_packRR, LGuard.ofBits_bits, UGuard.ofBits_bits, XScan.mk.injEq]
  repeat' apply And.intro
  all_goals first
    | trivial
    | rfl
    | (apply BitVec.eq_of_getLsbD_eq; intro i h
       simp only [BitVec.getLsbD_extractLsb', BitVec.getLsbD_append]
       (repeat' split) <;> simp_all <;> omega)
    | (simp only [BitVec.getLsbD_append, BitVec.getLsbD_ofBool] <;> simp)

@[simp] theorem XScan.clean_word (op : BitVec 8) (o : XScan) :
    XScan.clean (o.word op) = true := by
  obtain ⟨⟩ := o
  simp only [XScan.clean, XScan.word, fD_packRR, fA_packRR, fB_packRR, fG_packRR, UGuard.clean_bits, Bool.and_eq_true, beq_iff_eq]
  repeat' apply And.intro
  all_goals first
    | trivial
    | rfl
    | (apply BitVec.eq_of_getLsbD_eq; intro i h
       simp only [BitVec.getLsbD_extractLsb', BitVec.getLsbD_append]
       (repeat' split) <;> simp_all <;> omega)
    | (simp only [BitVec.getLsbD_append, BitVec.getLsbD_ofBool] <;> simp)

@[simp] theorem XPart.fOp_word (op : BitVec 8) (o : XPart) : fOp (o.word op) = op := by simp [XPart.word]

@[simp] theorem XPart.ofWord_word (op : BitVec 8) (o : XPart) : XPart.ofWord (o.word op) = o := by simp [XPart.ofWord, XPart.word]

@[simp] theorem XPart.clean_word (op : BitVec 8) (o : XPart) : XPart.clean (o.word op) = true := by simp [XPart.clean, XPart.word]

@[simp] theorem XPlop.fOp_word (op : BitVec 8) (o : XPlop) : fOp (o.word op) = op := by simp [XPlop.word]

@[simp] theorem XPlop.ofWord_word (op : BitVec 8) (o : XPlop) :
    XPlop.ofWord (o.word op) = o := by
  obtain ⟨⟩ := o
  simp only [XPlop.ofWord, XPlop.word, fD_packRR, fA_packRR, fB_packRR, fG_packRR, LGuard.ofBits_bits, UGuard.ofBits_bits, XPlop.mk.injEq]
  repeat' apply And.intro
  all_goals first
    | trivial
    | rfl
    | (apply BitVec.eq_of_getLsbD_eq; intro i h
       simp only [BitVec.getLsbD_extractLsb', BitVec.getLsbD_append]
       (repeat' split) <;> simp_all <;> omega)
    | (simp only [BitVec.getLsbD_append, BitVec.getLsbD_ofBool] <;> simp)

@[simp] theorem XPlop.clean_word (op : BitVec 8) (o : XPlop) :
    XPlop.clean (o.word op) = true := by
  obtain ⟨⟩ := o
  simp only [XPlop.clean, XPlop.word, fD_packRR, fA_packRR, fB_packRR, fG_packRR, UGuard.clean_bits, Bool.and_eq_true, beq_iff_eq]
  repeat' apply And.intro
  all_goals first
    | trivial
    | rfl
    | (apply BitVec.eq_of_getLsbD_eq; intro i h
       simp only [BitVec.getLsbD_extractLsb', BitVec.getLsbD_append]
       (repeat' split) <;> simp_all <;> omega)
    | (simp only [BitVec.getLsbD_append, BitVec.getLsbD_ofBool] <;> simp)

@[simp] theorem XBr.fOp_word (op : BitVec 8) (o : XBr) : fOp (o.word op) = op := by simp [XBr.word]

@[simp] theorem XBr.ofWord_word (op : BitVec 8) (o : XBr) : XBr.ofWord (o.word op) = o := by simp [XBr.ofWord, XBr.word]

@[simp] theorem XBr.clean_word (op : BitVec 8) (o : XBr) : XBr.clean (o.word op) = true := by simp [XBr.clean, XBr.word]

@[simp] theorem XA.fOp_word (op : BitVec 8) (o : XA) : fOp (o.word op) = op := by simp [XA.word]

@[simp] theorem XA.ofWord_word (op : BitVec 8) (o : XA) : XA.ofWord (o.word op) = o := by simp [XA.ofWord, XA.word]

@[simp] theorem XA.clean_word (op : BitVec 8) (o : XA) : XA.clean (o.word op) = true := by simp [XA.clean, XA.word]

@[simp] theorem XD.fOp_word (op : BitVec 8) (o : XD) : fOp (o.word op) = op := by simp [XD.word]

@[simp] theorem XD.ofWord_word (op : BitVec 8) (o : XD) : XD.ofWord (o.word op) = o := by simp [XD.ofWord, XD.word]

@[simp] theorem XD.clean_word (op : BitVec 8) (o : XD) : XD.clean (o.word op) = true := by simp [XD.clean, XD.word]

@[simp] theorem MMma.fOp_word (op : BitVec 8) (o : MMma) : fOp (o.word op) = op := by simp [MMma.word]

@[simp] theorem MMma.ofWord_word (op : BitVec 8) (o : MMma) :
    MMma.ofWord (o.word op) o.litWord = o := by
  obtain ⟨⟩ := o
  simp only [MMma.ofWord, MMma.word, MMma.litWord, packMma_ab, packMma_z, packMma_grp, packMma_dc, packMma_lat, packMma_re, packMma_rg, packMma_wo, packMma_wd, packMma_r, fX_packENG, fY_packENG, fM_packENG, fG_packENG, LGuard.ofBits_bits, UGuard.ofBits_bits, MMma.mk.injEq]
  repeat' apply And.intro
  all_goals first
    | trivial
    | rfl
    | (apply BitVec.eq_of_getLsbD_eq; intro i h
       simp only [BitVec.getLsbD_extractLsb', BitVec.getLsbD_append]
       (repeat' split) <;> simp_all <;> omega)
    | (simp only [BitVec.getLsbD_append, BitVec.getLsbD_ofBool] <;> simp)

@[simp] theorem MMma.clean_word (op : BitVec 8) (o : MMma) :
    MMma.clean (o.word op) o.litWord = true := by
  obtain ⟨⟩ := o
  simp only [MMma.clean, MMma.word, MMma.litWord, packMma_ab, packMma_z, packMma_grp, packMma_dc, packMma_lat, packMma_re, packMma_rg, packMma_wo, packMma_wd, packMma_r, fX_packENG, fY_packENG, fM_packENG, fG_packENG, UGuard.clean_bits, Bool.and_eq_true, beq_iff_eq]
  repeat' apply And.intro
  all_goals first
    | trivial
    | rfl
    | (apply BitVec.eq_of_getLsbD_eq; intro i h
       simp only [BitVec.getLsbD_extractLsb', BitVec.getLsbD_append]
       (repeat' split) <;> simp_all <;> omega)
    | (simp only [BitVec.getLsbD_append, BitVec.getLsbD_ofBool] <;> simp)

@[simp] theorem MBnd.fOp_word (op : BitVec 8) (o : MBnd) : fOp (o.word op) = op := by simp [MBnd.word]

@[simp] theorem MBnd.ofWord_word (op : BitVec 8) (o : MBnd) :
    MBnd.ofWord (o.word op) o.litWord = o := by
  obtain ⟨⟩ := o
  simp only [MBnd.ofWord, MBnd.word, MBnd.litWord, packMma_ab, packMma_z, packMma_grp, packMma_dc, packMma_lat, packMma_re, packMma_rg, packMma_wo, packMma_wd, packMma_r, fX_packENG, fY_packENG, fM_packENG, fG_packENG, LGuard.ofBits_bits, UGuard.ofBits_bits, MBnd.mk.injEq]
  repeat' apply And.intro
  all_goals first
    | trivial
    | rfl
    | (apply BitVec.eq_of_getLsbD_eq; intro i h
       simp only [BitVec.getLsbD_extractLsb', BitVec.getLsbD_append]
       (repeat' split) <;> simp_all <;> omega)
    | (simp only [BitVec.getLsbD_append, BitVec.getLsbD_ofBool] <;> simp)

@[simp] theorem MBnd.clean_word (op : BitVec 8) (o : MBnd) :
    MBnd.clean (o.word op) o.litWord = true := by
  obtain ⟨⟩ := o
  simp only [MBnd.clean, MBnd.word, MBnd.litWord, packMma_ab, packMma_z, packMma_grp, packMma_dc, packMma_lat, packMma_re, packMma_rg, packMma_wo, packMma_wd, packMma_r, fX_packENG, fY_packENG, fM_packENG, fG_packENG, UGuard.clean_bits, Bool.and_eq_true, beq_iff_eq]
  repeat' apply And.intro
  all_goals first
    | trivial
    | rfl
    | (apply BitVec.eq_of_getLsbD_eq; intro i h
       simp only [BitVec.getLsbD_extractLsb', BitVec.getLsbD_append]
       (repeat' split) <;> simp_all <;> omega)
    | (simp only [BitVec.getLsbD_append, BitVec.getLsbD_ofBool] <;> simp)

@[simp] theorem MZ.fOp_word (op : BitVec 8) (m : BitVec 2) (o : MZ) : fOp (o.word op m) = op := by simp [MZ.word]

@[simp] theorem MZ.fM_word (op : BitVec 8) (m : BitVec 2) (o : MZ) : fM (o.word op m) = m := by simp [MZ.word]

@[simp] theorem MZ.ofWord_word (op : BitVec 8) (m : BitVec 2) (o : MZ) :
    MZ.ofWord (o.word op m) = o := by
  obtain ⟨⟩ := o
  simp only [MZ.ofWord, MZ.word, fX_packENG, fY_packENG, fM_packENG, fG_packENG, LGuard.ofBits_bits, UGuard.ofBits_bits, MZ.mk.injEq]
  repeat' apply And.intro
  all_goals first
    | trivial
    | rfl
    | (apply BitVec.eq_of_getLsbD_eq; intro i h
       simp only [BitVec.getLsbD_extractLsb', BitVec.getLsbD_append]
       (repeat' split) <;> simp_all <;> omega)
    | (simp only [BitVec.getLsbD_append, BitVec.getLsbD_ofBool] <;> simp)

@[simp] theorem MZ.clean_word (op : BitVec 8) (m : BitVec 2) (o : MZ) :
    MZ.clean (o.word op m) = true := by
  obtain ⟨⟩ := o
  simp only [MZ.clean, MZ.word, fX_packENG, fY_packENG, fM_packENG, fG_packENG, UGuard.clean_bits, Bool.and_eq_true, beq_iff_eq]
  repeat' apply And.intro
  all_goals first
    | trivial
    | rfl
    | (apply BitVec.eq_of_getLsbD_eq; intro i h
       simp only [BitVec.getLsbD_extractLsb', BitVec.getLsbD_append]
       (repeat' split) <;> simp_all <;> omega)
    | (simp only [BitVec.getLsbD_append, BitVec.getLsbD_ofBool] <;> simp)

@[simp] theorem MLat.fOp_word (op : BitVec 8) (m : BitVec 2) (o : MLat) : fOp (o.word op m) = op := by simp [MLat.word]

@[simp] theorem MLat.fM_word (op : BitVec 8) (m : BitVec 2) (o : MLat) : fM (o.word op m) = m := by simp [MLat.word]

@[simp] theorem MLat.ofWord_word (op : BitVec 8) (m : BitVec 2) (o : MLat) : MLat.ofWord (o.word op m) = o := by simp [MLat.ofWord, MLat.word]

@[simp] theorem MLat.clean_word (op : BitVec 8) (m : BitVec 2) (o : MLat) : MLat.clean (o.word op m) = true := by simp [MLat.clean, MLat.word]

@[simp] theorem MStat.fOp_word (op : BitVec 8) (o : MStat) : fOp (o.word op) = op := by simp [MStat.word]

@[simp] theorem MStat.ofWord_word (op : BitVec 8) (o : MStat) :
    MStat.ofWord (o.word op) = o := by
  obtain ⟨⟩ := o
  simp only [MStat.ofWord, MStat.word, fX_packENG, fY_packENG, fM_packENG, fG_packENG, LGuard.ofBits_bits, UGuard.ofBits_bits, MStat.mk.injEq]
  repeat' apply And.intro
  all_goals first
    | trivial
    | rfl
    | (apply BitVec.eq_of_getLsbD_eq; intro i h
       simp only [BitVec.getLsbD_extractLsb', BitVec.getLsbD_append]
       (repeat' split) <;> simp_all <;> omega)
    | (simp only [BitVec.getLsbD_append, BitVec.getLsbD_ofBool] <;> simp)

@[simp] theorem MStat.clean_word (op : BitVec 8) (o : MStat) :
    MStat.clean (o.word op) = true := by
  obtain ⟨⟩ := o
  simp only [MStat.clean, MStat.word, fX_packENG, fY_packENG, fM_packENG, fG_packENG, UGuard.clean_bits, Bool.and_eq_true, beq_iff_eq]
  repeat' apply And.intro
  all_goals first
    | trivial
    | rfl
    | (apply BitVec.eq_of_getLsbD_eq; intro i h
       simp only [BitVec.getLsbD_extractLsb', BitVec.getLsbD_append]
       (repeat' split) <;> simp_all <;> omega)
    | (simp only [BitVec.getLsbD_append, BitVec.getLsbD_ofBool] <;> simp)

@[simp] theorem CCpy.fOp_word (op : BitVec 8) (o : CCpy) : fOp (o.word op) = op := by simp [CCpy.word]

@[simp] theorem CCpy.ofWord_word (op : BitVec 8) (o : CCpy) :
    CCpy.ofWord (o.word op) o.litWord = o := by
  obtain ⟨⟩ := o
  simp only [CCpy.ofWord, CCpy.word, CCpy.litWord, packC_wp, packC_eq, packC_re, packC_rg, packC_rows, packC_ch, packC_r, fX_packENG, fY_packENG, fM_packENG, fG_packENG, LGuard.ofBits_bits, UGuard.ofBits_bits, CCpy.mk.injEq]
  repeat' apply And.intro
  all_goals first
    | trivial
    | rfl
    | (apply BitVec.eq_of_getLsbD_eq; intro i h
       simp only [BitVec.getLsbD_extractLsb', BitVec.getLsbD_append]
       (repeat' split) <;> simp_all <;> omega)
    | (simp only [BitVec.getLsbD_append, BitVec.getLsbD_ofBool] <;> simp)

@[simp] theorem CCpy.clean_word (op : BitVec 8) (o : CCpy) :
    CCpy.clean (o.word op) o.litWord = true := by
  obtain ⟨⟩ := o
  simp only [CCpy.clean, CCpy.word, CCpy.litWord, packC_wp, packC_eq, packC_re, packC_rg, packC_rows, packC_ch, packC_r, fX_packENG, fY_packENG, fM_packENG, fG_packENG, UGuard.clean_bits, Bool.and_eq_true, beq_iff_eq]
  repeat' apply And.intro
  all_goals first
    | trivial
    | rfl
    | (apply BitVec.eq_of_getLsbD_eq; intro i h
       simp only [BitVec.getLsbD_extractLsb', BitVec.getLsbD_append]
       (repeat' split) <;> simp_all <;> omega)
    | (simp only [BitVec.getLsbD_append, BitVec.getLsbD_ofBool] <;> simp)

@[simp] theorem CCpym.fOp_word (op : BitVec 8) (o : CCpym) : fOp (o.word op) = op := by simp [CCpym.word]

@[simp] theorem CCpym.ofWord_word (op : BitVec 8) (o : CCpym) :
    CCpym.ofWord (o.word op) o.litWord = o := by
  obtain ⟨⟩ := o
  simp only [CCpym.ofWord, CCpym.word, CCpym.litWord, packC_wp, packC_eq, packC_re, packC_rg, packC_rows, packC_ch, packC_r, fX_packENG, fY_packENG, fM_packENG, fG_packENG, LGuard.ofBits_bits, UGuard.ofBits_bits, CCpym.mk.injEq]
  repeat' apply And.intro
  all_goals first
    | trivial
    | rfl
    | (apply BitVec.eq_of_getLsbD_eq; intro i h
       simp only [BitVec.getLsbD_extractLsb', BitVec.getLsbD_append]
       (repeat' split) <;> simp_all <;> omega)
    | (simp only [BitVec.getLsbD_append, BitVec.getLsbD_ofBool] <;> simp)

@[simp] theorem CCpym.clean_word (op : BitVec 8) (o : CCpym) :
    CCpym.clean (o.word op) o.litWord = true := by
  obtain ⟨⟩ := o
  simp only [CCpym.clean, CCpym.word, CCpym.litWord, packC_wp, packC_eq, packC_re, packC_rg, packC_rows, packC_ch, packC_r, fX_packENG, fY_packENG, fM_packENG, fG_packENG, UGuard.clean_bits, Bool.and_eq_true, beq_iff_eq]
  repeat' apply And.intro
  all_goals first
    | trivial
    | rfl
    | (apply BitVec.eq_of_getLsbD_eq; intro i h
       simp only [BitVec.getLsbD_extractLsb', BitVec.getLsbD_append]
       (repeat' split) <;> simp_all <;> omega)
    | (simp only [BitVec.getLsbD_append, BitVec.getLsbD_ofBool] <;> simp)

@[simp] theorem CTile.fOp_word (op : BitVec 8) (o : CTile) : fOp (o.word op) = op := by simp [CTile.word]

@[simp] theorem CTile.ofWord_word (op : BitVec 8) (o : CTile) :
    CTile.ofWord (o.word op) o.litWord = o := by
  obtain ⟨⟩ := o
  simp only [CTile.ofWord, CTile.word, CTile.litWord, packC_wp, packC_eq, packC_re, packC_rg, packC_rows, packC_ch, packC_r, fX_packENG, fY_packENG, fM_packENG, fG_packENG, LGuard.ofBits_bits, UGuard.ofBits_bits, CTile.mk.injEq]
  repeat' apply And.intro
  all_goals first
    | trivial
    | rfl
    | (apply BitVec.eq_of_getLsbD_eq; intro i h
       simp only [BitVec.getLsbD_extractLsb', BitVec.getLsbD_append]
       (repeat' split) <;> simp_all <;> omega)
    | (simp only [BitVec.getLsbD_append, BitVec.getLsbD_ofBool] <;> simp)

@[simp] theorem CTile.clean_word (op : BitVec 8) (o : CTile) :
    CTile.clean (o.word op) o.litWord = true := by
  obtain ⟨⟩ := o
  simp only [CTile.clean, CTile.word, CTile.litWord, packC_wp, packC_eq, packC_re, packC_rg, packC_rows, packC_ch, packC_r, fX_packENG, fY_packENG, fM_packENG, fG_packENG, UGuard.clean_bits, Bool.and_eq_true, beq_iff_eq]
  repeat' apply And.intro
  all_goals first
    | trivial
    | rfl
    | (apply BitVec.eq_of_getLsbD_eq; intro i h
       simp only [BitVec.getLsbD_extractLsb', BitVec.getLsbD_append]
       (repeat' split) <;> simp_all <;> omega)
    | (simp only [BitVec.getLsbD_append, BitVec.getLsbD_ofBool] <;> simp)

@[simp] theorem CP.fOp_word (op : BitVec 8) (m : BitVec 2) (o : CP) : fOp (o.word op m) = op := by simp [CP.word]

@[simp] theorem CP.fM_word (op : BitVec 8) (m : BitVec 2) (o : CP) : fM (o.word op m) = m := by simp [CP.word]

@[simp] theorem CP.ofWord_word (op : BitVec 8) (m : BitVec 2) (o : CP) :
    CP.ofWord (o.word op m) = o := by
  obtain ⟨⟩ := o
  simp only [CP.ofWord, CP.word, fX_packENG, fY_packENG, fM_packENG, fG_packENG, LGuard.ofBits_bits, UGuard.ofBits_bits, CP.mk.injEq]
  repeat' apply And.intro
  all_goals first
    | trivial
    | rfl
    | (apply BitVec.eq_of_getLsbD_eq; intro i h
       simp only [BitVec.getLsbD_extractLsb', BitVec.getLsbD_append]
       (repeat' split) <;> simp_all <;> omega)
    | (simp only [BitVec.getLsbD_append, BitVec.getLsbD_ofBool] <;> simp)

@[simp] theorem CP.clean_word (op : BitVec 8) (m : BitVec 2) (o : CP) :
    CP.clean (o.word op m) = true := by
  obtain ⟨⟩ := o
  simp only [CP.clean, CP.word, fX_packENG, fY_packENG, fM_packENG, fG_packENG, UGuard.clean_bits, Bool.and_eq_true, beq_iff_eq]
  repeat' apply And.intro
  all_goals first
    | trivial
    | rfl
    | (apply BitVec.eq_of_getLsbD_eq; intro i h
       simp only [BitVec.getLsbD_extractLsb', BitVec.getLsbD_append]
       (repeat' split) <;> simp_all <;> omega)
    | (simp only [BitVec.getLsbD_append, BitVec.getLsbD_ofBool] <;> simp)

@[simp] theorem CApp.fOp_word (op : BitVec 8) (o : CApp) : fOp (o.word op) = op := by simp [CApp.word]

@[simp] theorem CApp.ofWord_word (op : BitVec 8) (o : CApp) :
    CApp.ofWord (o.word op) = o := by
  obtain ⟨⟩ := o
  simp only [CApp.ofWord, CApp.word, fX_packENG, fY_packENG, fM_packENG, fG_packENG, LGuard.ofBits_bits, UGuard.ofBits_bits, CApp.mk.injEq]
  repeat' apply And.intro
  all_goals first
    | trivial
    | rfl
    | (apply BitVec.eq_of_getLsbD_eq; intro i h
       simp only [BitVec.getLsbD_extractLsb', BitVec.getLsbD_append]
       (repeat' split) <;> simp_all <;> omega)
    | (simp only [BitVec.getLsbD_append, BitVec.getLsbD_ofBool] <;> simp)

@[simp] theorem CApp.clean_word (op : BitVec 8) (o : CApp) :
    CApp.clean (o.word op) = true := by
  obtain ⟨⟩ := o
  simp only [CApp.clean, CApp.word, fX_packENG, fY_packENG, fM_packENG, fG_packENG, UGuard.clean_bits, Bool.and_eq_true, beq_iff_eq]
  repeat' apply And.intro
  all_goals first
    | trivial
    | rfl
    | (apply BitVec.eq_of_getLsbD_eq; intro i h
       simp only [BitVec.getLsbD_extractLsb', BitVec.getLsbD_append]
       (repeat' split) <;> simp_all <;> omega)
    | (simp only [BitVec.getLsbD_append, BitVec.getLsbD_ofBool] <;> simp)

@[simp] theorem CDrn.fOp_word (op : BitVec 8) (o : CDrn) : fOp (o.word op) = op := by simp [CDrn.word]

@[simp] theorem CDrn.ofWord_word (op : BitVec 8) (o : CDrn) :
    CDrn.ofWord (o.word op) = o := by
  obtain ⟨⟩ := o
  simp only [CDrn.ofWord, CDrn.word, fX_packENG, fY_packENG, fM_packENG, fG_packENG, LGuard.ofBits_bits, UGuard.ofBits_bits, CDrn.mk.injEq]
  repeat' apply And.intro
  all_goals first
    | trivial
    | rfl
    | (apply BitVec.eq_of_getLsbD_eq; intro i h
       simp only [BitVec.getLsbD_extractLsb', BitVec.getLsbD_append]
       (repeat' split) <;> simp_all <;> omega)
    | (simp only [BitVec.getLsbD_append, BitVec.getLsbD_ofBool] <;> simp)

@[simp] theorem CDrn.clean_word (op : BitVec 8) (o : CDrn) :
    CDrn.clean (o.word op) = true := by
  obtain ⟨⟩ := o
  simp only [CDrn.clean, CDrn.word, fX_packENG, fY_packENG, fM_packENG, fG_packENG, UGuard.clean_bits, Bool.and_eq_true, beq_iff_eq]
  repeat' apply And.intro
  all_goals first
    | trivial
    | rfl
    | (apply BitVec.eq_of_getLsbD_eq; intro i h
       simp only [BitVec.getLsbD_extractLsb', BitVec.getLsbD_append]
       (repeat' split) <;> simp_all <;> omega)
    | (simp only [BitVec.getLsbD_append, BitVec.getLsbD_ofBool] <;> simp)

@[simp] theorem CTf.fOp_word (op : BitVec 8) (m : BitVec 2) (o : CTf) : fOp (o.word op m) = op := by simp [CTf.word]

@[simp] theorem CTf.fM_word (op : BitVec 8) (m : BitVec 2) (o : CTf) : fM (o.word op m) = m := by simp [CTf.word]

@[simp] theorem CTf.ofWord_word (op : BitVec 8) (m : BitVec 2) (o : CTf) :
    CTf.ofWord (o.word op m) = o := by
  obtain ⟨⟩ := o
  simp only [CTf.ofWord, CTf.word, fX_packENG, fY_packENG, fM_packENG, fG_packENG, LGuard.ofBits_bits, UGuard.ofBits_bits, CTf.mk.injEq]
  repeat' apply And.intro
  all_goals first
    | trivial
    | rfl
    | (apply BitVec.eq_of_getLsbD_eq; intro i h
       simp only [BitVec.getLsbD_extractLsb', BitVec.getLsbD_append]
       (repeat' split) <;> simp_all <;> omega)
    | (simp only [BitVec.getLsbD_append, BitVec.getLsbD_ofBool] <;> simp)

@[simp] theorem CTf.clean_word (op : BitVec 8) (m : BitVec 2) (o : CTf) :
    CTf.clean (o.word op m) = true := by
  obtain ⟨⟩ := o
  simp only [CTf.clean, CTf.word, fX_packENG, fY_packENG, fM_packENG, fG_packENG, UGuard.clean_bits, Bool.and_eq_true, beq_iff_eq]
  repeat' apply And.intro
  all_goals first
    | trivial
    | rfl
    | (apply BitVec.eq_of_getLsbD_eq; intro i h
       simp only [BitVec.getLsbD_extractLsb', BitVec.getLsbD_append]
       (repeat' split) <;> simp_all <;> omega)
    | (simp only [BitVec.getLsbD_append, BitVec.getLsbD_ofBool] <;> simp)

@[simp] theorem YX.fOp_word (op : BitVec 8) (m : BitVec 2) (o : YX) : fOp (o.word op m) = op := by simp [YX.word]

@[simp] theorem YX.fM_word (op : BitVec 8) (m : BitVec 2) (o : YX) : fM (o.word op m) = m := by simp [YX.word]

@[simp] theorem YX.ofWord_word (op : BitVec 8) (m : BitVec 2) (o : YX) : YX.ofWord (o.word op m) = o := by simp [YX.ofWord, YX.word]

@[simp] theorem YX.clean_word (op : BitVec 8) (m : BitVec 2) (o : YX) : YX.clean (o.word op m) = true := by simp [YX.clean, YX.word]

@[simp] theorem YPg.fOp_word (op : BitVec 8) (o : YPg) : fOp (o.word op) = op := by simp [YPg.word]

@[simp] theorem YPg.ofWord_word (op : BitVec 8) (o : YPg) :
    YPg.ofWord (o.word op) = o := by
  obtain ⟨⟩ := o
  simp only [YPg.ofWord, YPg.word, fX_packENG, fY_packENG, fM_packENG, fG_packENG, LGuard.ofBits_bits, UGuard.ofBits_bits, YPg.mk.injEq]
  repeat' apply And.intro
  all_goals first
    | trivial
    | rfl
    | (apply BitVec.eq_of_getLsbD_eq; intro i h
       simp only [BitVec.getLsbD_extractLsb', BitVec.getLsbD_append]
       (repeat' split) <;> simp_all <;> omega)
    | (simp only [BitVec.getLsbD_append, BitVec.getLsbD_ofBool] <;> simp)

@[simp] theorem YPg.clean_word (op : BitVec 8) (o : YPg) :
    YPg.clean (o.word op) = true := by
  obtain ⟨⟩ := o
  simp only [YPg.clean, YPg.word, fX_packENG, fY_packENG, fM_packENG, fG_packENG, UGuard.clean_bits, Bool.and_eq_true, beq_iff_eq]
  repeat' apply And.intro
  all_goals first
    | trivial
    | rfl
    | (apply BitVec.eq_of_getLsbD_eq; intro i h
       simp only [BitVec.getLsbD_extractLsb', BitVec.getLsbD_append]
       (repeat' split) <;> simp_all <;> omega)
    | (simp only [BitVec.getLsbD_append, BitVec.getLsbD_ofBool] <;> simp)

@[simp] theorem YRg.fOp_word (op : BitVec 8) (m : BitVec 2) (o : YRg) : fOp (o.word op m) = op := by simp [YRg.word]

@[simp] theorem YRg.fM_word (op : BitVec 8) (m : BitVec 2) (o : YRg) : fM (o.word op m) = m := by simp [YRg.word]

@[simp] theorem YRg.ofWord_word (op : BitVec 8) (m : BitVec 2) (o : YRg) :
    YRg.ofWord (o.word op m) = o := by
  obtain ⟨⟩ := o
  simp only [YRg.ofWord, YRg.word, fX_packENG, fY_packENG, fM_packENG, fG_packENG, LGuard.ofBits_bits, UGuard.ofBits_bits, YRg.mk.injEq]
  repeat' apply And.intro
  all_goals first
    | trivial
    | rfl
    | (apply BitVec.eq_of_getLsbD_eq; intro i h
       simp only [BitVec.getLsbD_extractLsb', BitVec.getLsbD_append]
       (repeat' split) <;> simp_all <;> omega)
    | (simp only [BitVec.getLsbD_append, BitVec.getLsbD_ofBool] <;> simp)

@[simp] theorem YRg.clean_word (op : BitVec 8) (m : BitVec 2) (o : YRg) :
    YRg.clean (o.word op m) = true := by
  obtain ⟨⟩ := o
  simp only [YRg.clean, YRg.word, fX_packENG, fY_packENG, fM_packENG, fG_packENG, UGuard.clean_bits, Bool.and_eq_true, beq_iff_eq]
  repeat' apply And.intro
  all_goals first
    | trivial
    | rfl
    | (apply BitVec.eq_of_getLsbD_eq; intro i h
       simp only [BitVec.getLsbD_extractLsb', BitVec.getLsbD_append]
       (repeat' split) <;> simp_all <;> omega)
    | (simp only [BitVec.getLsbD_append, BitVec.getLsbD_ofBool] <;> simp)

@[simp] theorem YLn.fOp_word (op : BitVec 8) (o : YLn) : fOp (o.word op) = op := by simp [YLn.word]

@[simp] theorem YLn.ofWord_word (op : BitVec 8) (o : YLn) :
    YLn.ofWord (o.word op) = o := by
  obtain ⟨⟩ := o
  simp only [YLn.ofWord, YLn.word, fX_packENG, fY_packENG, fM_packENG, fG_packENG, LGuard.ofBits_bits, UGuard.ofBits_bits, YLn.mk.injEq]
  repeat' apply And.intro
  all_goals first
    | trivial
    | rfl
    | (apply BitVec.eq_of_getLsbD_eq; intro i h
       simp only [BitVec.getLsbD_extractLsb', BitVec.getLsbD_append]
       (repeat' split) <;> simp_all <;> omega)
    | (simp only [BitVec.getLsbD_append, BitVec.getLsbD_ofBool] <;> simp)

@[simp] theorem YLn.clean_word (op : BitVec 8) (o : YLn) :
    YLn.clean (o.word op) = true := by
  obtain ⟨⟩ := o
  simp only [YLn.clean, YLn.word, fX_packENG, fY_packENG, fM_packENG, fG_packENG, UGuard.clean_bits, Bool.and_eq_true, beq_iff_eq]
  repeat' apply And.intro
  all_goals first
    | trivial
    | rfl
    | (apply BitVec.eq_of_getLsbD_eq; intro i h
       simp only [BitVec.getLsbD_extractLsb', BitVec.getLsbD_append]
       (repeat' split) <;> simp_all <;> omega)
    | (simp only [BitVec.getLsbD_append, BitVec.getLsbD_ofBool] <;> simp)

@[simp] theorem YA.fOp_word (op : BitVec 8) (o : YA) : fOp (o.word op) = op := by simp [YA.word]

@[simp] theorem YA.ofWord_word (op : BitVec 8) (o : YA) :
    YA.ofWord (o.word op) = o := by
  obtain ⟨⟩ := o
  simp only [YA.ofWord, YA.word, fX_packENG, fY_packENG, fM_packENG, fG_packENG, LGuard.ofBits_bits, UGuard.ofBits_bits, YA.mk.injEq]
  repeat' apply And.intro
  all_goals first
    | trivial
    | rfl
    | (apply BitVec.eq_of_getLsbD_eq; intro i h
       simp only [BitVec.getLsbD_extractLsb', BitVec.getLsbD_append]
       (repeat' split) <;> simp_all <;> omega)
    | (simp only [BitVec.getLsbD_append, BitVec.getLsbD_ofBool] <;> simp)

@[simp] theorem YA.clean_word (op : BitVec 8) (o : YA) :
    YA.clean (o.word op) = true := by
  obtain ⟨⟩ := o
  simp only [YA.clean, YA.word, fX_packENG, fY_packENG, fM_packENG, fG_packENG, UGuard.clean_bits, Bool.and_eq_true, beq_iff_eq]
  repeat' apply And.intro
  all_goals first
    | trivial
    | rfl
    | (apply BitVec.eq_of_getLsbD_eq; intro i h
       simp only [BitVec.getLsbD_extractLsb', BitVec.getLsbD_append]
       (repeat' split) <;> simp_all <;> omega)
    | (simp only [BitVec.getLsbD_append, BitVec.getLsbD_ofBool] <;> simp)

@[simp] theorem YA.fOp_wordR (op : BitVec 8) (o : YA) : fOp (o.wordR op) = op := by simp [YA.wordR]

@[simp] theorem YA.ofWordR_wordR (op : BitVec 8) (o : YA) : YA.ofWordR (o.wordR op) = o := by simp [YA.ofWordR, YA.wordR]

@[simp] theorem YA.cleanR_wordR (op : BitVec 8) (o : YA) : YA.cleanR (o.wordR op) = true := by simp [YA.cleanR, YA.wordR]

@[simp] theorem YD.fOp_word (op : BitVec 8) (o : YD) : fOp (o.word op) = op := by simp [YD.word]

@[simp] theorem YD.ofWord_word (op : BitVec 8) (o : YD) : YD.ofWord (o.word op) = o := by simp [YD.ofWord, YD.word]

@[simp] theorem YD.clean_word (op : BitVec 8) (o : YD) : YD.clean (o.word op) = true := by simp [YD.clean, YD.word]

@[simp] theorem YD.fOp_wordY (op : BitVec 8) (o : YD) : fOp (o.wordY op) = op := by simp [YD.wordY]

@[simp] theorem YD.ofWordY_wordY (op : BitVec 8) (o : YD) :
    YD.ofWordY (o.wordY op) = o := by
  obtain ⟨⟩ := o
  simp only [YD.ofWordY, YD.wordY, fX_packENG, fY_packENG, fM_packENG, fG_packENG, LGuard.ofBits_bits, UGuard.ofBits_bits, YD.mk.injEq]
  repeat' apply And.intro
  all_goals first
    | trivial
    | rfl
    | (apply BitVec.eq_of_getLsbD_eq; intro i h
       simp only [BitVec.getLsbD_extractLsb', BitVec.getLsbD_append]
       (repeat' split) <;> simp_all <;> omega)
    | (simp only [BitVec.getLsbD_append, BitVec.getLsbD_ofBool] <;> simp)

@[simp] theorem YD.cleanY_wordY (op : BitVec 8) (o : YD) :
    YD.cleanY (o.wordY op) = true := by
  obtain ⟨⟩ := o
  simp only [YD.cleanY, YD.wordY, fX_packENG, fY_packENG, fM_packENG, fG_packENG, UGuard.clean_bits, Bool.and_eq_true, beq_iff_eq]
  repeat' apply And.intro
  all_goals first
    | trivial
    | rfl
    | (apply BitVec.eq_of_getLsbD_eq; intro i h
       simp only [BitVec.getLsbD_extractLsb', BitVec.getLsbD_append]
       (repeat' split) <;> simp_all <;> omega)
    | (simp only [BitVec.getLsbD_append, BitVec.getLsbD_ofBool] <;> simp)

@[simp] theorem YG.fOp_word (op : BitVec 8) (o : YG) : fOp (o.word op) = op := by simp [YG.word]

@[simp] theorem YG.ofWord_word (op : BitVec 8) (o : YG) : YG.ofWord (o.word op) = o := by simp [YG.ofWord, YG.word]

@[simp] theorem YG.clean_word (op : BitVec 8) (o : YG) : YG.clean (o.word op) = true := by simp [YG.clean, YG.word]

@[simp] theorem YCr.fOp_word (op : BitVec 8) (o : YCr) : fOp (o.word op) = op := by simp [YCr.word]

@[simp] theorem YCr.ofWord_word (op : BitVec 8) (o : YCr) : YCr.ofWord (o.word op) = o := by simp [YCr.ofWord, YCr.word]

@[simp] theorem YCr.clean_word (op : BitVec 8) (o : YCr) : YCr.clean (o.word op) = true := by simp [YCr.clean, YCr.word]

@[simp] theorem YCw.fOp_word (op : BitVec 8) (o : YCw) : fOp (o.word op) = op := by simp [YCw.word]

@[simp] theorem YCw.ofWord_word (op : BitVec 8) (o : YCw) : YCw.ofWord (o.word op) = o := by simp [YCw.ofWord, YCw.word]

@[simp] theorem YCw.clean_word (op : BitVec 8) (o : YCw) : YCw.clean (o.word op) = true := by simp [YCw.clean, YCw.word]

@[simp] theorem YN.fOp_word (op : BitVec 8) (o : YN) : fOp (o.word op) = op := by simp [YN.word]

@[simp] theorem YN.ofWord_word (op : BitVec 8) (o : YN) : YN.ofWord (o.word op) = o := by simp [YN.ofWord, YN.word]

@[simp] theorem YN.clean_word (op : BitVec 8) (o : YN) : YN.clean (o.word op) = true := by simp [YN.clean, YN.word]
end Sys2Proof
end

