-- ==== Sys2Proof/Laws/PerInstr.lean ====
section
/-! SUPPORT. Statements made per instruction, one lemma per constructor: an instruction's words decode to it. -/

namespace Sys2Proof.Laws.Encoding

set_option Elab.async false

/-- The words of a legal instruction decode to it, all of them and no more, whatever follows. -/
def Statement (i : Instr) : Prop :=
  ∀ (cls : Cls) (ws : List Word), WellFormed i = true → i.cls = some cls →
    decodeWords cls (encode i ++ ws) = .ok (i, (encode i).length)

/-- A word that is no prefix stands alone, with a literal after it where its opcode takes one. -/
theorem bare (cls : Cls) (w : Word) (ws : List Word) (i : Instr) (hp : isPrefix cls w = false)
    (h : decodeTarget cls none w ws.head? = .ok i) : decodeWords cls (w :: ws) = .ok (i, targetLen cls w) := by
  simp [decodeWords, hp, h, Except.map]

/-- A word of class V or F after its prefix, if it has one. -/
theorem afterVPfx (cls : Cls) (x : Option VPfx) (w : Word) (ws : List Word) (i : Instr) (hw : isPrefix cls w = false)
    (hc : isPrefix cls = fun w => fOp w == 255) (h : decodeTarget cls (x.map VPfx.word) w ws.head? = .ok i) :
    decodeWords cls (vpfxWords x ++ w :: ws) = .ok (i, (vpfxWords x).length + targetLen cls w) := by
  cases x with
  | none => simpa [vpfxWords] using bare cls w ws i hw h
  | some p =>
    have hp : isPrefix cls p.word = true := by simp [hc]
    simp only [Option.map_some] at h
    simp [vpfxWords, decodeWords, hp, hw, h, Except.map, Nat.add_comm]

/-- A word of class L after its prefix, if it has one. -/
theorem afterLPfx (x : Option LPfx) (w : Word) (ws : List Word) (i : Instr) (hw : isPrefix .l w = false)
    (h : decodeTarget .l (x.map LPfx.word) w ws.head? = .ok i) :
    decodeWords .l (lpfxWords x ++ w :: ws) = .ok (i, (lpfxWords x).length + targetLen .l w) := by
  cases x with
  | none => simpa [lpfxWords] using bare .l w ws i hw h
  | some p =>
    have hp : isPrefix .l p.word = true := by simp [isPrefix]
    simp only [Option.map_some] at h
    simp [lpfxWords, decodeWords, hp, hw, h, Except.map, Nat.add_comm]

theorem target_v (x : Option VPfx) (w : Word) (l : Option Word) : decodeTarget .v (x.map VPfx.word) w l = decodeV x l w := by
  cases x <;> simp [decodeTarget]

theorem target_f (x : Option VPfx) (w : Word) (l : Option Word) : decodeTarget .f (x.map VPfx.word) w l = decodeF x w := by
  cases x <;> simp [decodeTarget]

theorem target_l (x : Option LPfx) (w : Word) (l : Option Word) : decodeTarget .l (x.map LPfx.word) w l = decodeL x w := by
  cases x <;> simp [decodeTarget]

theorem movw (o : SR1) : Statement (.movw o) := by
  intro cls ws h hc; cases hc
  have := bare .s (o.word 0x01) ws (.movw o) rfl (by simp [decodeTarget, decodeS, legal, h])
  simpa [encode, targetLen, takesLiteral] using this

theorem liw (o : SRL) : Statement (.liw o) := by
  intro cls ws h hc; cases hc
  have := bare .s (o.word 0x02) (o.lit :: ws) (.liw o) rfl (by simp [decodeTarget, decodeS, legal, withLit, h])
  simpa [encode, targetLen, takesLiteral] using this

theorem addw (o : SRR) : Statement (.addw o) := by
  intro cls ws h hc; cases hc
  have := bare .s (o.word 0x03) ws (.addw o) rfl (by simp [decodeTarget, decodeS, legal, h])
  simpa [encode, targetLen, takesLiteral] using this

theorem addwi (o : SRI) : Statement (.addwi o) := by
  intro cls ws h hc; cases hc
  have := bare .s (o.word 0x04) ws (.addwi o) rfl (by simp [decodeTarget, decodeS, legal, h])
  simpa [encode, targetLen, takesLiteral] using this

theorem subw (o : SRR) : Statement (.subw o) := by
  intro cls ws h hc; cases hc
  have := bare .s (o.word 0x05) ws (.subw o) rfl (by simp [decodeTarget, decodeS, legal, h])
  simpa [encode, targetLen, takesLiteral] using this

theorem mulw (o : SRR) : Statement (.mulw o) := by
  intro cls ws h hc; cases hc
  have := bare .s (o.word 0x06) ws (.mulw o) rfl (by simp [decodeTarget, decodeS, legal, h])
  simpa [encode, targetLen, takesLiteral] using this

theorem mulhwI (o : SRR) : Statement (.mulhwI o) := by
  intro cls ws h hc; cases hc
  have := bare .s (o.word 0x07) ws (.mulhwI o) rfl (by simp [decodeTarget, decodeS, legal, h])
  simpa [encode, targetLen, takesLiteral] using this

theorem mulhwN (o : SRR) : Statement (.mulhwN o) := by
  intro cls ws h hc; cases hc
  have := bare .s (o.word 0x08) ws (.mulhwN o) rfl (by simp [decodeTarget, decodeS, legal, h])
  simpa [encode, targetLen, takesLiteral] using this

theorem shlw (o : SRR) : Statement (.shlw o) := by
  intro cls ws h hc; cases hc
  have := bare .s (o.word 0x09) ws (.shlw o) rfl (by simp [decodeTarget, decodeS, legal, h])
  simpa [encode, targetLen, takesLiteral] using this

theorem shrw (o : SRR) : Statement (.shrw o) := by
  intro cls ws h hc; cases hc
  have := bare .s (o.word 0x0a) ws (.shrw o) rfl (by simp [decodeTarget, decodeS, legal, h])
  simpa [encode, targetLen, takesLiteral] using this

theorem sarw (o : SRR) : Statement (.sarw o) := by
  intro cls ws h hc; cases hc
  have := bare .s (o.word 0x0b) ws (.sarw o) rfl (by simp [decodeTarget, decodeS, legal, h])
  simpa [encode, targetLen, takesLiteral] using this

theorem shlwi (o : SRI) : Statement (.shlwi o) := by
  intro cls ws h hc; cases hc
  have := bare .s (o.word 0x0c) ws (.shlwi o) rfl (by simp [decodeTarget, decodeS, legal, h])
  simpa [encode, targetLen, takesLiteral] using this

theorem shrwi (o : SRI) : Statement (.shrwi o) := by
  intro cls ws h hc; cases hc
  have := bare .s (o.word 0x0d) ws (.shrwi o) rfl (by simp [decodeTarget, decodeS, legal, h])
  simpa [encode, targetLen, takesLiteral] using this

theorem sarwi (o : SRI) : Statement (.sarwi o) := by
  intro cls ws h hc; cases hc
  have := bare .s (o.word 0x0e) ws (.sarwi o) rfl (by simp [decodeTarget, decodeS, legal, h])
  simpa [encode, targetLen, takesLiteral] using this

theorem andw (o : SRR) : Statement (.andw o) := by
  intro cls ws h hc; cases hc
  have := bare .s (o.word 0x0f) ws (.andw o) rfl (by simp [decodeTarget, decodeS, legal, h])
  simpa [encode, targetLen, takesLiteral] using this

theorem orw (o : SRR) : Statement (.orw o) := by
  intro cls ws h hc; cases hc
  have := bare .s (o.word 0x10) ws (.orw o) rfl (by simp [decodeTarget, decodeS, legal, h])
  simpa [encode, targetLen, takesLiteral] using this

theorem xorw (o : SRR) : Statement (.xorw o) := by
  intro cls ws h hc; cases hc
  have := bare .s (o.word 0x11) ws (.xorw o) rfl (by simp [decodeTarget, decodeS, legal, h])
  simpa [encode, targetLen, takesLiteral] using this

theorem notw (o : SR1) : Statement (.notw o) := by
  intro cls ws h hc; cases hc
  have := bare .s (o.word 0x12) ws (.notw o) rfl (by simp [decodeTarget, decodeS, legal, h])
  simpa [encode, targetLen, takesLiteral] using this

theorem minwI (o : SRR) : Statement (.minwI o) := by
  intro cls ws h hc; cases hc
  have := bare .s (o.word 0x13) ws (.minwI o) rfl (by simp [decodeTarget, decodeS, legal, h])
  simpa [encode, targetLen, takesLiteral] using this

theorem maxwI (o : SRR) : Statement (.maxwI o) := by
  intro cls ws h hc; cases hc
  have := bare .s (o.word 0x14) ws (.maxwI o) rfl (by simp [decodeTarget, decodeS, legal, h])
  simpa [encode, targetLen, takesLiteral] using this

theorem minwN (o : SRR) : Statement (.minwN o) := by
  intro cls ws h hc; cases hc
  have := bare .s (o.word 0x15) ws (.minwN o) rfl (by simp [decodeTarget, decodeS, legal, h])
  simpa [encode, targetLen, takesLiteral] using this

theorem maxwN (o : SRR) : Statement (.maxwN o) := by
  intro cls ws h hc; cases hc
  have := bare .s (o.word 0x16) ws (.maxwN o) rfl (by simp [decodeTarget, decodeS, legal, h])
  simpa [encode, targetLen, takesLiteral] using this

theorem cmpwI (o : SCS) : Statement (.cmpwI o) := by
  intro cls ws h hc; cases hc
  have := bare .s (o.word 0x17) ws (.cmpwI o) rfl (by simp [decodeTarget, decodeS, legal, h])
  simpa [encode, targetLen, takesLiteral] using this

theorem cmpwN (o : SCS) : Statement (.cmpwN o) := by
  intro cls ws h hc; cases hc
  have := bare .s (o.word 0x18) ws (.cmpwN o) rfl (by simp [decodeTarget, decodeS, legal, h])
  simpa [encode, targetLen, takesLiteral] using this

theorem selw (o : SSel) : Statement (.selw o) := by
  intro cls ws h hc; cases hc
  have := bare .s (o.word 0x19) ws (.selw o) rfl (by simp [decodeTarget, decodeS, legal, h])
  simpa [encode, targetLen, takesLiteral] using this

theorem add64w (o : SRR) : Statement (.add64w o) := by
  intro cls ws h hc; cases hc
  have := bare .s (o.word 0x1a) ws (.add64w o) rfl (by simp [decodeTarget, decodeS, legal, h])
  simpa [encode, targetLen, takesLiteral] using this

theorem sub64w (o : SRR) : Statement (.sub64w o) := by
  intro cls ws h hc; cases hc
  have := bare .s (o.word 0x1b) ws (.sub64w o) rfl (by simp [decodeTarget, decodeS, legal, h])
  simpa [encode, targetLen, takesLiteral] using this

theorem faddw (o : SRR) : Statement (.faddw o) := by
  intro cls ws h hc; cases hc
  have := bare .s (o.word 0x1c) ws (.faddw o) rfl (by simp [decodeTarget, decodeS, legal, h])
  simpa [encode, targetLen, takesLiteral] using this

theorem fsubw (o : SRR) : Statement (.fsubw o) := by
  intro cls ws h hc; cases hc
  have := bare .s (o.word 0x1d) ws (.fsubw o) rfl (by simp [decodeTarget, decodeS, legal, h])
  simpa [encode, targetLen, takesLiteral] using this

theorem fmulw (o : SRR) : Statement (.fmulw o) := by
  intro cls ws h hc; cases hc
  have := bare .s (o.word 0x1e) ws (.fmulw o) rfl (by simp [decodeTarget, decodeS, legal, h])
  simpa [encode, targetLen, takesLiteral] using this

theorem ffmaw (o : SRR) : Statement (.ffmaw o) := by
  intro cls ws h hc; cases hc
  have := bare .s (o.word 0x1f) ws (.ffmaw o) rfl (by simp [decodeTarget, decodeS, legal, h])
  simpa [encode, targetLen, takesLiteral] using this

theorem fdivw (o : SRR) : Statement (.fdivw o) := by
  intro cls ws h hc; cases hc
  have := bare .s (o.word 0x20) ws (.fdivw o) rfl (by simp [decodeTarget, decodeS, legal, h])
  simpa [encode, targetLen, takesLiteral] using this

theorem fcmpw (o : SCS) : Statement (.fcmpw o) := by
  intro cls ws h hc; cases hc
  have := bare .s (o.word 0x21) ws (.fcmpw o) rfl (by simp [decodeTarget, decodeS, legal, h])
  simpa [encode, targetLen, takesLiteral] using this

theorem cvtw (o : SCV) : Statement (.cvtw o) := by
  intro cls ws h hc; cases hc
  have := bare .s (o.word 0x22) ws (.cvtw o) rfl (by simp [decodeTarget, decodeS, legal, h])
  simpa [encode, targetLen, takesLiteral] using this

theorem v2w (o : SRR) : Statement (.v2w o) := by
  intro cls ws h hc; cases hc
  have := bare .s (o.word 0x23) ws (.v2w o) rfl (by simp [decodeTarget, decodeS, legal, h])
  simpa [encode, targetLen, takesLiteral] using this

theorem bcntw (o : SR1) : Statement (.bcntw o) := by
  intro cls ws h hc; cases hc
  have := bare .s (o.word 0x24) ws (.bcntw o) rfl (by simp [decodeTarget, decodeS, legal, h])
  simpa [encode, targetLen, takesLiteral] using this

theorem clzw (o : SR1) : Statement (.clzw o) := by
  intro cls ws h hc; cases hc
  have := bare .s (o.word 0x25) ws (.clzw o) rfl (by simp [decodeTarget, decodeS, legal, h])
  simpa [encode, targetLen, takesLiteral] using this

theorem mov (o : VR1) : Statement (.mov o) := by
  intro cls ws h hc; cases hc
  have := afterVPfx .v o.x (o.word 0x01) ws (.mov o) (by simp [isPrefix]) rfl
    (by simp [target_v, decodeV, legal, h])
  simpa [encode, targetLen, takesLiteral] using this

theorem li (o : VRL) : Statement (.li o) := by
  intro cls ws h hc; cases hc
  have := afterVPfx .v o.x (o.word 0x02) (o.lit :: ws) (.li o) (by simp [isPrefix]) rfl
    (by simp [target_v, decodeV, legal, withLit, h])
  simpa [encode, targetLen, takesLiteral] using this

theorem w2v (o : VRW) : Statement (.w2v o) := by
  intro cls ws h hc; cases hc
  have := afterVPfx .v o.x (o.word 0x03) ws (.w2v o) (by simp [isPrefix]) rfl
    (by simp [target_v, decodeV, legal, h])
  simpa [encode, targetLen, takesLiteral] using this

theorem iadd (o : VRR) : Statement (.iadd o) := by
  intro cls ws h hc; cases hc
  have := afterVPfx .v o.x (o.word 0x04) ws (.iadd o) (by simp [isPrefix]) rfl
    (by simp [target_v, decodeV, legal, h])
  simpa [encode, targetLen, takesLiteral] using this

theorem iaddi (o : VRI) : Statement (.iaddi o) := by
  intro cls ws h hc; cases hc
  have := afterVPfx .v o.x (o.word 0x05) ws (.iaddi o) (by simp [isPrefix]) rfl
    (by simp [target_v, decodeV, legal, h])
  simpa [encode, targetLen, takesLiteral] using this

theorem isub (o : VRR) : Statement (.isub o) := by
  intro cls ws h hc; cases hc
  have := afterVPfx .v o.x (o.word 0x06) ws (.isub o) (by simp [isPrefix]) rfl
    (by simp [target_v, decodeV, legal, h])
  simpa [encode, targetLen, takesLiteral] using this

theorem imul (o : VRR) : Statement (.imul o) := by
  intro cls ws h hc; cases hc
  have := afterVPfx .v o.x (o.word 0x07) ws (.imul o) (by simp [isPrefix]) rfl
    (by simp [target_v, decodeV, legal, h])
  simpa [encode, targetLen, takesLiteral] using this

theorem imulhI (o : VRR) : Statement (.imulhI o) := by
  intro cls ws h hc; cases hc
  have := afterVPfx .v o.x (o.word 0x08) ws (.imulhI o) (by simp [isPrefix]) rfl
    (by simp [target_v, decodeV, legal, h])
  simpa [encode, targetLen, takesLiteral] using this

theorem imulhN (o : VRR) : Statement (.imulhN o) := by
  intro cls ws h hc; cases hc
  have := afterVPfx .v o.x (o.word 0x09) ws (.imulhN o) (by simp [isPrefix]) rfl
    (by simp [target_v, decodeV, legal, h])
  simpa [encode, targetLen, takesLiteral] using this

theorem imad (o : VRR) : Statement (.imad o) := by
  intro cls ws h hc; cases hc
  have := afterVPfx .v o.x (o.word 0x0a) ws (.imad o) (by simp [isPrefix]) rfl
    (by simp [target_v, decodeV, legal, h])
  simpa [encode, targetLen, takesLiteral] using this

theorem iabs (o : VR1) : Statement (.iabs o) := by
  intro cls ws h hc; cases hc
  have := afterVPfx .v o.x (o.word 0x0b) ws (.iabs o) (by simp [isPrefix]) rfl
    (by simp [target_v, decodeV, legal, h])
  simpa [encode, targetLen, takesLiteral] using this

theorem ineg (o : VR1) : Statement (.ineg o) := by
  intro cls ws h hc; cases hc
  have := afterVPfx .v o.x (o.word 0x0c) ws (.ineg o) (by simp [isPrefix]) rfl
    (by simp [target_v, decodeV, legal, h])
  simpa [encode, targetLen, takesLiteral] using this

theorem iminI (o : VRR) : Statement (.iminI o) := by
  intro cls ws h hc; cases hc
  have := afterVPfx .v o.x (o.word 0x0d) ws (.iminI o) (by simp [isPrefix]) rfl
    (by simp [target_v, decodeV, legal, h])
  simpa [encode, targetLen, takesLiteral] using this

theorem imaxI (o : VRR) : Statement (.imaxI o) := by
  intro cls ws h hc; cases hc
  have := afterVPfx .v o.x (o.word 0x0e) ws (.imaxI o) (by simp [isPrefix]) rfl
    (by simp [target_v, decodeV, legal, h])
  simpa [encode, targetLen, takesLiteral] using this

theorem iminN (o : VRR) : Statement (.iminN o) := by
  intro cls ws h hc; cases hc
  have := afterVPfx .v o.x (o.word 0x0f) ws (.iminN o) (by simp [isPrefix]) rfl
    (by simp [target_v, decodeV, legal, h])
  simpa [encode, targetLen, takesLiteral] using this

theorem imaxN (o : VRR) : Statement (.imaxN o) := by
  intro cls ws h hc; cases hc
  have := afterVPfx .v o.x (o.word 0x10) ws (.imaxN o) (by simp [isPrefix]) rfl
    (by simp [target_v, decodeV, legal, h])
  simpa [encode, targetLen, takesLiteral] using this

theorem shl (o : VRR) : Statement (.shl o) := by
  intro cls ws h hc; cases hc
  have := afterVPfx .v o.x (o.word 0x11) ws (.shl o) (by simp [isPrefix]) rfl
    (by simp [target_v, decodeV, legal, h])
  simpa [encode, targetLen, takesLiteral] using this

theorem shr (o : VRR) : Statement (.shr o) := by
  intro cls ws h hc; cases hc
  have := afterVPfx .v o.x (o.word 0x12) ws (.shr o) (by simp [isPrefix]) rfl
    (by simp [target_v, decodeV, legal, h])
  simpa [encode, targetLen, takesLiteral] using this

theorem sar (o : VRR) : Statement (.sar o) := by
  intro cls ws h hc; cases hc
  have := afterVPfx .v o.x (o.word 0x13) ws (.sar o) (by simp [isPrefix]) rfl
    (by simp [target_v, decodeV, legal, h])
  simpa [encode, targetLen, takesLiteral] using this

theorem shli (o : VRI) : Statement (.shli o) := by
  intro cls ws h hc; cases hc
  have := afterVPfx .v o.x (o.word 0x14) ws (.shli o) (by simp [isPrefix]) rfl
    (by simp [target_v, decodeV, legal, h])
  simpa [encode, targetLen, takesLiteral] using this

theorem shri (o : VRI) : Statement (.shri o) := by
  intro cls ws h hc; cases hc
  have := afterVPfx .v o.x (o.word 0x15) ws (.shri o) (by simp [isPrefix]) rfl
    (by simp [target_v, decodeV, legal, h])
  simpa [encode, targetLen, takesLiteral] using this

theorem sari (o : VRI) : Statement (.sari o) := by
  intro cls ws h hc; cases hc
  have := afterVPfx .v o.x (o.word 0x16) ws (.sari o) (by simp [isPrefix]) rfl
    (by simp [target_v, decodeV, legal, h])
  simpa [encode, targetLen, takesLiteral] using this

theorem vand (o : VRR) : Statement (.vand o) := by
  intro cls ws h hc; cases hc
  have := afterVPfx .v o.x (o.word 0x17) ws (.vand o) (by simp [isPrefix]) rfl
    (by simp [target_v, decodeV, legal, h])
  simpa [encode, targetLen, takesLiteral] using this

theorem vor (o : VRR) : Statement (.vor o) := by
  intro cls ws h hc; cases hc
  have := afterVPfx .v o.x (o.word 0x18) ws (.vor o) (by simp [isPrefix]) rfl
    (by simp [target_v, decodeV, legal, h])
  simpa [encode, targetLen, takesLiteral] using this

theorem vxor (o : VRR) : Statement (.vxor o) := by
  intro cls ws h hc; cases hc
  have := afterVPfx .v o.x (o.word 0x19) ws (.vxor o) (by simp [isPrefix]) rfl
    (by simp [target_v, decodeV, legal, h])
  simpa [encode, targetLen, takesLiteral] using this

theorem vnot (o : VR1) : Statement (.vnot o) := by
  intro cls ws h hc; cases hc
  have := afterVPfx .v o.x (o.word 0x1a) ws (.vnot o) (by simp [isPrefix]) rfl
    (by simp [target_v, decodeV, legal, h])
  simpa [encode, targetLen, takesLiteral] using this

theorem popc (o : VR1) : Statement (.popc o) := by
  intro cls ws h hc; cases hc
  have := afterVPfx .v o.x (o.word 0x1b) ws (.popc o) (by simp [isPrefix]) rfl
    (by simp [target_v, decodeV, legal, h])
  simpa [encode, targetLen, takesLiteral] using this

theorem clz (o : VR1) : Statement (.clz o) := by
  intro cls ws h hc; cases hc
  have := afterVPfx .v o.x (o.word 0x1c) ws (.clz o) (by simp [isPrefix]) rfl
    (by simp [target_v, decodeV, legal, h])
  simpa [encode, targetLen, takesLiteral] using this

theorem brev (o : VR1) : Statement (.brev o) := by
  intro cls ws h hc; cases hc
  have := afterVPfx .v o.x (o.word 0x1d) ws (.brev o) (by simp [isPrefix]) rfl
    (by simp [target_v, decodeV, legal, h])
  simpa [encode, targetLen, takesLiteral] using this

theorem bfe (o : VRR) : Statement (.bfe o) := by
  intro cls ws h hc; cases hc
  have := afterVPfx .v o.x (o.word 0x1e) ws (.bfe o) (by simp [isPrefix]) rfl
    (by simp [target_v, decodeV, legal, h])
  simpa [encode, targetLen, takesLiteral] using this

theorem bfi (o : VRR) : Statement (.bfi o) := by
  intro cls ws h hc; cases hc
  have := afterVPfx .v o.x (o.word 0x1f) ws (.bfi o) (by simp [isPrefix]) rfl
    (by simp [target_v, decodeV, legal, h])
  simpa [encode, targetLen, takesLiteral] using this

theorem isetpEq (o : VCP) : Statement (.isetpEq o) := by
  intro cls ws h hc; cases hc
  have := afterVPfx .v o.x (o.word 0x20) ws (.isetpEq o) (by simp [isPrefix]) rfl
    (by simp [target_v, decodeV, legal, h])
  simpa [encode, targetLen, takesLiteral] using this

theorem isetpNe (o : VCP) : Statement (.isetpNe o) := by
  intro cls ws h hc; cases hc
  have := afterVPfx .v o.x (o.word 0x21) ws (.isetpNe o) (by simp [isPrefix]) rfl
    (by simp [target_v, decodeV, legal, h])
  simpa [encode, targetLen, takesLiteral] using this

theorem isetpLt (o : VCP) : Statement (.isetpLt o) := by
  intro cls ws h hc; cases hc
  have := afterVPfx .v o.x (o.word 0x22) ws (.isetpLt o) (by simp [isPrefix]) rfl
    (by simp [target_v, decodeV, legal, h])
  simpa [encode, targetLen, takesLiteral] using this

theorem isetpLe (o : VCP) : Statement (.isetpLe o) := by
  intro cls ws h hc; cases hc
  have := afterVPfx .v o.x (o.word 0x23) ws (.isetpLe o) (by simp [isPrefix]) rfl
    (by simp [target_v, decodeV, legal, h])
  simpa [encode, targetLen, takesLiteral] using this

theorem isetpGt (o : VCP) : Statement (.isetpGt o) := by
  intro cls ws h hc; cases hc
  have := afterVPfx .v o.x (o.word 0x24) ws (.isetpGt o) (by simp [isPrefix]) rfl
    (by simp [target_v, decodeV, legal, h])
  simpa [encode, targetLen, takesLiteral] using this

theorem isetpGe (o : VCP) : Statement (.isetpGe o) := by
  intro cls ws h hc; cases hc
  have := afterVPfx .v o.x (o.word 0x25) ws (.isetpGe o) (by simp [isPrefix]) rfl
    (by simp [target_v, decodeV, legal, h])
  simpa [encode, targetLen, takesLiteral] using this

theorem isetpLtN (o : VCP) : Statement (.isetpLtN o) := by
  intro cls ws h hc; cases hc
  have := afterVPfx .v o.x (o.word 0x26) ws (.isetpLtN o) (by simp [isPrefix]) rfl
    (by simp [target_v, decodeV, legal, h])
  simpa [encode, targetLen, takesLiteral] using this

theorem isetpLeN (o : VCP) : Statement (.isetpLeN o) := by
  intro cls ws h hc; cases hc
  have := afterVPfx .v o.x (o.word 0x27) ws (.isetpLeN o) (by simp [isPrefix]) rfl
    (by simp [target_v, decodeV, legal, h])
  simpa [encode, targetLen, takesLiteral] using this

theorem isetpGtN (o : VCP) : Statement (.isetpGtN o) := by
  intro cls ws h hc; cases hc
  have := afterVPfx .v o.x (o.word 0x28) ws (.isetpGtN o) (by simp [isPrefix]) rfl
    (by simp [target_v, decodeV, legal, h])
  simpa [encode, targetLen, takesLiteral] using this

theorem isetpGeN (o : VCP) : Statement (.isetpGeN o) := by
  intro cls ws h hc; cases hc
  have := afterVPfx .v o.x (o.word 0x29) ws (.isetpGeN o) (by simp [isPrefix]) rfl
    (by simp [target_v, decodeV, legal, h])
  simpa [encode, targetLen, takesLiteral] using this

theorem sel (o : VSel) : Statement (.sel o) := by
  intro cls ws h hc; cases hc
  have := afterVPfx .v o.x (o.word 0x2a) ws (.sel o) (by simp [isPrefix]) rfl
    (by simp [target_v, decodeV, legal, h])
  simpa [encode, targetLen, takesLiteral] using this

theorem iadd64 (o : VRR) : Statement (.iadd64 o) := by
  intro cls ws h hc; cases hc
  have := afterVPfx .v o.x (o.word 0x2b) ws (.iadd64 o) (by simp [isPrefix]) rfl
    (by simp [target_v, decodeV, legal, h])
  simpa [encode, targetLen, takesLiteral] using this

theorem isub64 (o : VRR) : Statement (.isub64 o) := by
  intro cls ws h hc; cases hc
  have := afterVPfx .v o.x (o.word 0x2c) ws (.isub64 o) (by simp [isPrefix]) rfl
    (by simp [target_v, decodeV, legal, h])
  simpa [encode, targetLen, takesLiteral] using this

theorem imulwI (o : VRR) : Statement (.imulwI o) := by
  intro cls ws h hc; cases hc
  have := afterVPfx .v o.x (o.word 0x2d) ws (.imulwI o) (by simp [isPrefix]) rfl
    (by simp [target_v, decodeV, legal, h])
  simpa [encode, targetLen, takesLiteral] using this

theorem imulwN (o : VRR) : Statement (.imulwN o) := by
  intro cls ws h hc; cases hc
  have := afterVPfx .v o.x (o.word 0x2e) ws (.imulwN o) (by simp [isPrefix]) rfl
    (by simp [target_v, decodeV, legal, h])
  simpa [encode, targetLen, takesLiteral] using this

theorem pmov (o : VD) : Statement (.pmov o) := by
  intro cls ws h hc; cases hc
  have := afterVPfx .v o.x (o.word 0x2f) ws (.pmov o) (by simp [isPrefix]) rfl
    (by simp [target_v, decodeV, legal, h])
  simpa [encode, targetLen, takesLiteral] using this

theorem vmovp (o : VA) : Statement (.vmovp o) := by
  intro cls ws h hc; cases hc
  have := afterVPfx .v o.x (o.word 0x30) ws (.vmovp o) (by simp [isPrefix]) rfl
    (by simp [target_v, decodeV, legal, h])
  simpa [encode, targetLen, takesLiteral] using this

theorem sreg (o : VSr) : Statement (.sreg o) := by
  intro cls ws h hc; cases hc
  have := afterVPfx .v o.x (o.word 0x31) ws (.sreg o) (by simp [isPrefix]) rfl
    (by simp [target_v, decodeV, legal, h])
  simpa [encode, targetLen, takesLiteral] using this

theorem fadd (o : VRR) : Statement (.fadd o) := by
  intro cls ws h hc; cases hc
  have := afterVPfx .f o.x (o.word 0x01) ws (.fadd o) (by simp [isPrefix]) rfl
    (by simp [target_f, decodeF, legal, h])
  simpa [encode, targetLen, takesLiteral] using this

theorem fsub (o : VRR) : Statement (.fsub o) := by
  intro cls ws h hc; cases hc
  have := afterVPfx .f o.x (o.word 0x02) ws (.fsub o) (by simp [isPrefix]) rfl
    (by simp [target_f, decodeF, legal, h])
  simpa [encode, targetLen, takesLiteral] using this

theorem fmul (o : VRR) : Statement (.fmul o) := by
  intro cls ws h hc; cases hc
  have := afterVPfx .f o.x (o.word 0x03) ws (.fmul o) (by simp [isPrefix]) rfl
    (by simp [target_f, decodeF, legal, h])
  simpa [encode, targetLen, takesLiteral] using this

theorem ffma (o : VRR) : Statement (.ffma o) := by
  intro cls ws h hc; cases hc
  have := afterVPfx .f o.x (o.word 0x04) ws (.ffma o) (by simp [isPrefix]) rfl
    (by simp [target_f, decodeF, legal, h])
  simpa [encode, targetLen, takesLiteral] using this

theorem fmin (o : VRR) : Statement (.fmin o) := by
  intro cls ws h hc; cases hc
  have := afterVPfx .f o.x (o.word 0x05) ws (.fmin o) (by simp [isPrefix]) rfl
    (by simp [target_f, decodeF, legal, h])
  simpa [encode, targetLen, takesLiteral] using this

theorem fmax (o : VRR) : Statement (.fmax o) := by
  intro cls ws h hc; cases hc
  have := afterVPfx .f o.x (o.word 0x06) ws (.fmax o) (by simp [isPrefix]) rfl
    (by simp [target_f, decodeF, legal, h])
  simpa [encode, targetLen, takesLiteral] using this

theorem fabs (o : VR1) : Statement (.fabs o) := by
  intro cls ws h hc; cases hc
  have := afterVPfx .f o.x (o.word 0x07) ws (.fabs o) (by simp [isPrefix]) rfl
    (by simp [target_f, decodeF, legal, h])
  simpa [encode, targetLen, takesLiteral] using this

theorem fneg (o : VR1) : Statement (.fneg o) := by
  intro cls ws h hc; cases hc
  have := afterVPfx .f o.x (o.word 0x08) ws (.fneg o) (by simp [isPrefix]) rfl
    (by simp [target_f, decodeF, legal, h])
  simpa [encode, targetLen, takesLiteral] using this

theorem fsetpEq (o : VCP) : Statement (.fsetpEq o) := by
  intro cls ws h hc; cases hc
  have := afterVPfx .f o.x (o.word 0x09) ws (.fsetpEq o) (by simp [isPrefix]) rfl
    (by simp [target_f, decodeF, legal, h])
  simpa [encode, targetLen, takesLiteral] using this

theorem fsetpNe (o : VCP) : Statement (.fsetpNe o) := by
  intro cls ws h hc; cases hc
  have := afterVPfx .f o.x (o.word 0x0a) ws (.fsetpNe o) (by simp [isPrefix]) rfl
    (by simp [target_f, decodeF, legal, h])
  simpa [encode, targetLen, takesLiteral] using this

theorem fsetpLt (o : VCP) : Statement (.fsetpLt o) := by
  intro cls ws h hc; cases hc
  have := afterVPfx .f o.x (o.word 0x0b) ws (.fsetpLt o) (by simp [isPrefix]) rfl
    (by simp [target_f, decodeF, legal, h])
  simpa [encode, targetLen, takesLiteral] using this

theorem fsetpLe (o : VCP) : Statement (.fsetpLe o) := by
  intro cls ws h hc; cases hc
  have := afterVPfx .f o.x (o.word 0x0c) ws (.fsetpLe o) (by simp [isPrefix]) rfl
    (by simp [target_f, decodeF, legal, h])
  simpa [encode, targetLen, takesLiteral] using this

theorem fsetpGt (o : VCP) : Statement (.fsetpGt o) := by
  intro cls ws h hc; cases hc
  have := afterVPfx .f o.x (o.word 0x0d) ws (.fsetpGt o) (by simp [isPrefix]) rfl
    (by simp [target_f, decodeF, legal, h])
  simpa [encode, targetLen, takesLiteral] using this

theorem fsetpGe (o : VCP) : Statement (.fsetpGe o) := by
  intro cls ws h hc; cases hc
  have := afterVPfx .f o.x (o.word 0x0e) ws (.fsetpGe o) (by simp [isPrefix]) rfl
    (by simp [target_f, decodeF, legal, h])
  simpa [encode, targetLen, takesLiteral] using this

theorem fsetpNan (o : VCP) : Statement (.fsetpNan o) := by
  intro cls ws h hc; cases hc
  have := afterVPfx .f o.x (o.word 0x0f) ws (.fsetpNan o) (by simp [isPrefix]) rfl
    (by simp [target_f, decodeF, legal, h])
  simpa [encode, targetLen, takesLiteral] using this

theorem fclass (o : VR1) : Statement (.fclass o) := by
  intro cls ws h hc; cases hc
  have := afterVPfx .f o.x (o.word 0x10) ws (.fclass o) (by simp [isPrefix]) rfl
    (by simp [target_f, decodeF, legal, h])
  simpa [encode, targetLen, takesLiteral] using this

theorem hadd2 (o : VRR) : Statement (.hadd2 o) := by
  intro cls ws h hc; cases hc
  have := afterVPfx .f o.x (o.word 0x11) ws (.hadd2 o) (by simp [isPrefix]) rfl
    (by simp [target_f, decodeF, legal, h])
  simpa [encode, targetLen, takesLiteral] using this

theorem hmul2 (o : VRR) : Statement (.hmul2 o) := by
  intro cls ws h hc; cases hc
  have := afterVPfx .f o.x (o.word 0x12) ws (.hmul2 o) (by simp [isPrefix]) rfl
    (by simp [target_f, decodeF, legal, h])
  simpa [encode, targetLen, takesLiteral] using this

theorem hfma2 (o : VRR) : Statement (.hfma2 o) := by
  intro cls ws h hc; cases hc
  have := afterVPfx .f o.x (o.word 0x13) ws (.hfma2 o) (by simp [isPrefix]) rfl
    (by simp [target_f, decodeF, legal, h])
  simpa [encode, targetLen, takesLiteral] using this

theorem badd2 (o : VRR) : Statement (.badd2 o) := by
  intro cls ws h hc; cases hc
  have := afterVPfx .f o.x (o.word 0x14) ws (.badd2 o) (by simp [isPrefix]) rfl
    (by simp [target_f, decodeF, legal, h])
  simpa [encode, targetLen, takesLiteral] using this

theorem bmul2 (o : VRR) : Statement (.bmul2 o) := by
  intro cls ws h hc; cases hc
  have := afterVPfx .f o.x (o.word 0x15) ws (.bmul2 o) (by simp [isPrefix]) rfl
    (by simp [target_f, decodeF, legal, h])
  simpa [encode, targetLen, takesLiteral] using this

theorem bfma2 (o : VRR) : Statement (.bfma2 o) := by
  intro cls ws h hc; cases hc
  have := afterVPfx .f o.x (o.word 0x16) ws (.bfma2 o) (by simp [isPrefix]) rfl
    (by simp [target_f, decodeF, legal, h])
  simpa [encode, targetLen, takesLiteral] using this

theorem rcp (o : VR1) : Statement (.rcp o) := by
  intro cls ws h hc; cases hc
  have := afterVPfx .f o.x (o.word 0x17) ws (.rcp o) (by simp [isPrefix]) rfl
    (by simp [target_f, decodeF, legal, h])
  simpa [encode, targetLen, takesLiteral] using this

theorem rsq (o : VR1) : Statement (.rsq o) := by
  intro cls ws h hc; cases hc
  have := afterVPfx .f o.x (o.word 0x18) ws (.rsq o) (by simp [isPrefix]) rfl
    (by simp [target_f, decodeF, legal, h])
  simpa [encode, targetLen, takesLiteral] using this

theorem sqrt (o : VR1) : Statement (.sqrt o) := by
  intro cls ws h hc; cases hc
  have := afterVPfx .f o.x (o.word 0x19) ws (.sqrt o) (by simp [isPrefix]) rfl
    (by simp [target_f, decodeF, legal, h])
  simpa [encode, targetLen, takesLiteral] using this

theorem ex2 (o : VR1) : Statement (.ex2 o) := by
  intro cls ws h hc; cases hc
  have := afterVPfx .f o.x (o.word 0x1a) ws (.ex2 o) (by simp [isPrefix]) rfl
    (by simp [target_f, decodeF, legal, h])
  simpa [encode, targetLen, takesLiteral] using this

theorem lg2 (o : VR1) : Statement (.lg2 o) := by
  intro cls ws h hc; cases hc
  have := afterVPfx .f o.x (o.word 0x1b) ws (.lg2 o) (by simp [isPrefix]) rfl
    (by simp [target_f, decodeF, legal, h])
  simpa [encode, targetLen, takesLiteral] using this

theorem sin (o : VR1) : Statement (.sin o) := by
  intro cls ws h hc; cases hc
  have := afterVPfx .f o.x (o.word 0x1c) ws (.sin o) (by simp [isPrefix]) rfl
    (by simp [target_f, decodeF, legal, h])
  simpa [encode, targetLen, takesLiteral] using this

theorem cos (o : VR1) : Statement (.cos o) := by
  intro cls ws h hc; cases hc
  have := afterVPfx .f o.x (o.word 0x1d) ws (.cos o) (by simp [isPrefix]) rfl
    (by simp [target_f, decodeF, legal, h])
  simpa [encode, targetLen, takesLiteral] using this

theorem tanh (o : VR1) : Statement (.tanh o) := by
  intro cls ws h hc; cases hc
  have := afterVPfx .f o.x (o.word 0x1e) ws (.tanh o) (by simp [isPrefix]) rfl
    (by simp [target_f, decodeF, legal, h])
  simpa [encode, targetLen, takesLiteral] using this

theorem fdiv (o : VRR) : Statement (.fdiv o) := by
  intro cls ws h hc; cases hc
  have := afterVPfx .f o.x (o.word 0x1f) ws (.fdiv o) (by simp [isPrefix]) rfl
    (by simp [target_f, decodeF, legal, h])
  simpa [encode, targetLen, takesLiteral] using this

theorem cvt (o : VCV) : Statement (.cvt o) := by
  intro cls ws h hc; cases hc
  have := afterVPfx .f o.x (o.word 0x20) ws (.cvt o) (by simp [isPrefix]) rfl
    (by simp [target_f, decodeF, legal, h])
  simpa [encode, targetLen, takesLiteral] using this

theorem cvts (o : VAW) : Statement (.cvts o) := by
  intro cls ws h hc; cases hc
  have := afterVPfx .f o.x (o.word 0x21) ws (.cvts o) (by simp [isPrefix]) rfl
    (by simp [target_f, decodeF, legal, h])
  simpa [encode, targetLen, takesLiteral] using this

theorem cvtxB0 (o : VAW) : Statement (.cvtxB0 o) := by
  intro cls ws h hc; cases hc
  have := afterVPfx .f o.x (o.word 0x22) ws (.cvtxB0 o) (by simp [isPrefix]) rfl
    (by simp [target_f, decodeF, legal, h])
  simpa [encode, targetLen, takesLiteral] using this

theorem cvtxB1 (o : VAW) : Statement (.cvtxB1 o) := by
  intro cls ws h hc; cases hc
  have := afterVPfx .f o.x (o.word 0x23) ws (.cvtxB1 o) (by simp [isPrefix]) rfl
    (by simp [target_f, decodeF, legal, h])
  simpa [encode, targetLen, takesLiteral] using this

theorem cvtxB2 (o : VAW) : Statement (.cvtxB2 o) := by
  intro cls ws h hc; cases hc
  have := afterVPfx .f o.x (o.word 0x24) ws (.cvtxB2 o) (by simp [isPrefix]) rfl
    (by simp [target_f, decodeF, legal, h])
  simpa [encode, targetLen, takesLiteral] using this

theorem cvtxB3 (o : VAW) : Statement (.cvtxB3 o) := by
  intro cls ws h hc; cases hc
  have := afterVPfx .f o.x (o.word 0x25) ws (.cvtxB3 o) (by simp [isPrefix]) rfl
    (by simp [target_f, decodeF, legal, h])
  simpa [encode, targetLen, takesLiteral] using this

theorem qadd (o : VRR) : Statement (.qadd o) := by
  intro cls ws h hc; cases hc
  have := afterVPfx .f o.x (o.word 0x26) ws (.qadd o) (by simp [isPrefix]) rfl
    (by simp [target_f, decodeF, legal, h])
  simpa [encode, targetLen, takesLiteral] using this

theorem qsub (o : VRR) : Statement (.qsub o) := by
  intro cls ws h hc; cases hc
  have := afterVPfx .f o.x (o.word 0x27) ws (.qsub o) (by simp [isPrefix]) rfl
    (by simp [target_f, decodeF, legal, h])
  simpa [encode, targetLen, takesLiteral] using this

theorem qmul (o : VRR) : Statement (.qmul o) := by
  intro cls ws h hc; cases hc
  have := afterVPfx .f o.x (o.word 0x28) ws (.qmul o) (by simp [isPrefix]) rfl
    (by simp [target_f, decodeF, legal, h])
  simpa [encode, targetLen, takesLiteral] using this

theorem qdiv (o : VRR) : Statement (.qdiv o) := by
  intro cls ws h hc; cases hc
  have := afterVPfx .f o.x (o.word 0x29) ws (.qdiv o) (by simp [isPrefix]) rfl
    (by simp [target_f, decodeF, legal, h])
  simpa [encode, targetLen, takesLiteral] using this

theorem qcvt (o : VR1) : Statement (.qcvt o) := by
  intro cls ws h hc; cases hc
  have := afterVPfx .f o.x (o.word 0x2a) ws (.qcvt o) (by simp [isPrefix]) rfl
    (by simp [target_f, decodeF, legal, h])
  simpa [encode, targetLen, takesLiteral] using this

theorem qfrom (o : VRR) : Statement (.qfrom o) := by
  intro cls ws h hc; cases hc
  have := afterVPfx .f o.x (o.word 0x2b) ws (.qfrom o) (by simp [isPrefix]) rfl
    (by simp [target_f, decodeF, legal, h])
  simpa [encode, targetLen, takesLiteral] using this

theorem qnum (o : VR1) : Statement (.qnum o) := by
  intro cls ws h hc; cases hc
  have := afterVPfx .f o.x (o.word 0x2c) ws (.qnum o) (by simp [isPrefix]) rfl
    (by simp [target_f, decodeF, legal, h])
  simpa [encode, targetLen, takesLiteral] using this

theorem qden (o : VR1) : Statement (.qden o) := by
  intro cls ws h hc; cases hc
  have := afterVPfx .f o.x (o.word 0x2d) ws (.qden o) (by simp [isPrefix]) rfl
    (by simp [target_f, decodeF, legal, h])
  simpa [encode, targetLen, takesLiteral] using this

theorem qmed (o : VRR) : Statement (.qmed o) := by
  intro cls ws h hc; cases hc
  have := afterVPfx .f o.x (o.word 0x2e) ws (.qmed o) (by simp [isPrefix]) rfl
    (by simp [target_f, decodeF, legal, h])
  simpa [encode, targetLen, takesLiteral] using this

theorem qrnd (o : VRR) : Statement (.qrnd o) := by
  intro cls ws h hc; cases hc
  have := afterVPfx .f o.x (o.word 0x2f) ws (.qrnd o) (by simp [isPrefix]) rfl
    (by simp [target_f, decodeF, legal, h])
  simpa [encode, targetLen, takesLiteral] using this

theorem qsetpEq (o : VCP) : Statement (.qsetpEq o) := by
  intro cls ws h hc; cases hc
  have := afterVPfx .f o.x (o.word 0x30) ws (.qsetpEq o) (by simp [isPrefix]) rfl
    (by simp [target_f, decodeF, legal, h])
  simpa [encode, targetLen, takesLiteral] using this

theorem qsetpNe (o : VCP) : Statement (.qsetpNe o) := by
  intro cls ws h hc; cases hc
  have := afterVPfx .f o.x (o.word 0x31) ws (.qsetpNe o) (by simp [isPrefix]) rfl
    (by simp [target_f, decodeF, legal, h])
  simpa [encode, targetLen, takesLiteral] using this

theorem qsetpLt (o : VCP) : Statement (.qsetpLt o) := by
  intro cls ws h hc; cases hc
  have := afterVPfx .f o.x (o.word 0x32) ws (.qsetpLt o) (by simp [isPrefix]) rfl
    (by simp [target_f, decodeF, legal, h])
  simpa [encode, targetLen, takesLiteral] using this

theorem qsetpLe (o : VCP) : Statement (.qsetpLe o) := by
  intro cls ws h hc; cases hc
  have := afterVPfx .f o.x (o.word 0x33) ws (.qsetpLe o) (by simp [isPrefix]) rfl
    (by simp [target_f, decodeF, legal, h])
  simpa [encode, targetLen, takesLiteral] using this

theorem qsetpGt (o : VCP) : Statement (.qsetpGt o) := by
  intro cls ws h hc; cases hc
  have := afterVPfx .f o.x (o.word 0x34) ws (.qsetpGt o) (by simp [isPrefix]) rfl
    (by simp [target_f, decodeF, legal, h])
  simpa [encode, targetLen, takesLiteral] using this

theorem qsetpGe (o : VCP) : Statement (.qsetpGe o) := by
  intro cls ws h hc; cases hc
  have := afterVPfx .f o.x (o.word 0x35) ws (.qsetpGe o) (by simp [isPrefix]) rfl
    (by simp [target_f, decodeF, legal, h])
  simpa [encode, targetLen, takesLiteral] using this

theorem qrec (o : VR1) : Statement (.qrec o) := by
  intro cls ws h hc; cases hc
  have := afterVPfx .f o.x (o.word 0x36) ws (.qrec o) (by simp [isPrefix]) rfl
    (by simp [target_f, decodeF, legal, h])
  simpa [encode, targetLen, takesLiteral] using this

theorem qclass (o : VR1) : Statement (.qclass o) := by
  intro cls ws h hc; cases hc
  have := afterVPfx .f o.x (o.word 0x37) ws (.qclass o) (by simp [isPrefix]) rfl
    (by simp [target_f, decodeF, legal, h])
  simpa [encode, targetLen, takesLiteral] using this

theorem ldN8 (o : LMem) : Statement (.ldN8 o) := by
  intro cls ws h hc; cases hc
  have := afterLPfx o.x (o.word 0x01) ws (.ldN8 o) (by simp [isPrefix])
    (by simp [target_l, decodeL, legal, h])
  simpa [encode, targetLen, takesLiteral] using this

theorem ldI8 (o : LMem) : Statement (.ldI8 o) := by
  intro cls ws h hc; cases hc
  have := afterLPfx o.x (o.word 0x02) ws (.ldI8 o) (by simp [isPrefix])
    (by simp [target_l, decodeL, legal, h])
  simpa [encode, targetLen, takesLiteral] using this

theorem ldN16 (o : LMem) : Statement (.ldN16 o) := by
  intro cls ws h hc; cases hc
  have := afterLPfx o.x (o.word 0x03) ws (.ldN16 o) (by simp [isPrefix])
    (by simp [target_l, decodeL, legal, h])
  simpa [encode, targetLen, takesLiteral] using this

theorem ldI16 (o : LMem) : Statement (.ldI16 o) := by
  intro cls ws h hc; cases hc
  have := afterLPfx o.x (o.word 0x04) ws (.ldI16 o) (by simp [isPrefix])
    (by simp [target_l, decodeL, legal, h])
  simpa [encode, targetLen, takesLiteral] using this

theorem ld32 (o : LMem) : Statement (.ld32 o) := by
  intro cls ws h hc; cases hc
  have := afterLPfx o.x (o.word 0x05) ws (.ld32 o) (by simp [isPrefix])
    (by simp [target_l, decodeL, legal, h])
  simpa [encode, targetLen, takesLiteral] using this

theorem ld64 (o : LMem) : Statement (.ld64 o) := by
  intro cls ws h hc; cases hc
  have := afterLPfx o.x (o.word 0x06) ws (.ld64 o) (by simp [isPrefix])
    (by simp [target_l, decodeL, legal, h])
  simpa [encode, targetLen, takesLiteral] using this

theorem ld128 (o : LMem) : Statement (.ld128 o) := by
  intro cls ws h hc; cases hc
  have := afterLPfx o.x (o.word 0x07) ws (.ld128 o) (by simp [isPrefix])
    (by simp [target_l, decodeL, legal, h])
  simpa [encode, targetLen, takesLiteral] using this

theorem st8 (o : LMem) : Statement (.st8 o) := by
  intro cls ws h hc; cases hc
  have := afterLPfx o.x (o.word 0x08) ws (.st8 o) (by simp [isPrefix])
    (by simp [target_l, decodeL, legal, h])
  simpa [encode, targetLen, takesLiteral] using this

theorem st16 (o : LMem) : Statement (.st16 o) := by
  intro cls ws h hc; cases hc
  have := afterLPfx o.x (o.word 0x09) ws (.st16 o) (by simp [isPrefix])
    (by simp [target_l, decodeL, legal, h])
  simpa [encode, targetLen, takesLiteral] using this

theorem st32 (o : LMem) : Statement (.st32 o) := by
  intro cls ws h hc; cases hc
  have := afterLPfx o.x (o.word 0x0a) ws (.st32 o) (by simp [isPrefix])
    (by simp [target_l, decodeL, legal, h])
  simpa [encode, targetLen, takesLiteral] using this

theorem st64 (o : LMem) : Statement (.st64 o) := by
  intro cls ws h hc; cases hc
  have := afterLPfx o.x (o.word 0x0b) ws (.st64 o) (by simp [isPrefix])
    (by simp [target_l, decodeL, legal, h])
  simpa [encode, targetLen, takesLiteral] using this

theorem st128 (o : LMem) : Statement (.st128 o) := by
  intro cls ws h hc; cases hc
  have := afterLPfx o.x (o.word 0x0c) ws (.st128 o) (by simp [isPrefix])
    (by simp [target_l, decodeL, legal, h])
  simpa [encode, targetLen, takesLiteral] using this

theorem ldt32 (o : LTile) : Statement (.ldt32 o) := by
  intro cls ws h hc; cases hc
  have := afterLPfx o.x (o.word 0x0d) ws (.ldt32 o) (by simp [isPrefix])
    (by simp [target_l, decodeL, legal, h])
  simpa [encode, targetLen, takesLiteral] using this

theorem ldt64 (o : LTile) : Statement (.ldt64 o) := by
  intro cls ws h hc; cases hc
  have := afterLPfx o.x (o.word 0x0e) ws (.ldt64 o) (by simp [isPrefix])
    (by simp [target_l, decodeL, legal, h])
  simpa [encode, targetLen, takesLiteral] using this

theorem ldt128 (o : LTile) : Statement (.ldt128 o) := by
  intro cls ws h hc; cases hc
  have := afterLPfx o.x (o.word 0x0f) ws (.ldt128 o) (by simp [isPrefix])
    (by simp [target_l, decodeL, legal, h])
  simpa [encode, targetLen, takesLiteral] using this

theorem stt32 (o : LTile) : Statement (.stt32 o) := by
  intro cls ws h hc; cases hc
  have := afterLPfx o.x (o.word 0x10) ws (.stt32 o) (by simp [isPrefix])
    (by simp [target_l, decodeL, legal, h])
  simpa [encode, targetLen, takesLiteral] using this

theorem stt64 (o : LTile) : Statement (.stt64 o) := by
  intro cls ws h hc; cases hc
  have := afterLPfx o.x (o.word 0x11) ws (.stt64 o) (by simp [isPrefix])
    (by simp [target_l, decodeL, legal, h])
  simpa [encode, targetLen, takesLiteral] using this

theorem stt128 (o : LTile) : Statement (.stt128 o) := by
  intro cls ws h hc; cases hc
  have := afterLPfx o.x (o.word 0x12) ws (.stt128 o) (by simp [isPrefix])
    (by simp [target_l, decodeL, legal, h])
  simpa [encode, targetLen, takesLiteral] using this

theorem lda (o : LAcc) : Statement (.lda o) := by
  intro cls ws h hc; cases hc
  have := afterLPfx o.x (o.word 0x13) ws (.lda o) (by simp [isPrefix])
    (by simp [target_l, decodeL, legal, h])
  simpa [encode, targetLen, takesLiteral] using this

theorem sta (o : LAcc) : Statement (.sta o) := by
  intro cls ws h hc; cases hc
  have := afterLPfx o.x (o.word 0x14) ws (.sta o) (by simp [isPrefix])
    (by simp [target_l, decodeL, legal, h])
  simpa [encode, targetLen, takesLiteral] using this

theorem ldc (o : LTile) : Statement (.ldc o) := by
  intro cls ws h hc; cases hc
  have := afterLPfx o.x (o.word 0x15) ws (.ldc o) (by simp [isPrefix])
    (by simp [target_l, decodeL, legal, h])
  simpa [encode, targetLen, takesLiteral] using this

theorem atomAddN32 (o : LMem) : Statement (.atomAddN32 o) := by
  intro cls ws h hc; cases hc
  have := afterLPfx o.x (o.word 0x16) ws (.atomAddN32 o) (by simp [isPrefix])
    (by simp [target_l, decodeL, legal, h])
  simpa [encode, targetLen, takesLiteral] using this

theorem atomAddN64 (o : LMem) : Statement (.atomAddN64 o) := by
  intro cls ws h hc; cases hc
  have := afterLPfx o.x (o.word 0x17) ws (.atomAddN64 o) (by simp [isPrefix])
    (by simp [target_l, decodeL, legal, h])
  simpa [encode, targetLen, takesLiteral] using this

theorem atomMinI32 (o : LMem) : Statement (.atomMinI32 o) := by
  intro cls ws h hc; cases hc
  have := afterLPfx o.x (o.word 0x18) ws (.atomMinI32 o) (by simp [isPrefix])
    (by simp [target_l, decodeL, legal, h])
  simpa [encode, targetLen, takesLiteral] using this

theorem atomMaxI32 (o : LMem) : Statement (.atomMaxI32 o) := by
  intro cls ws h hc; cases hc
  have := afterLPfx o.x (o.word 0x19) ws (.atomMaxI32 o) (by simp [isPrefix])
    (by simp [target_l, decodeL, legal, h])
  simpa [encode, targetLen, takesLiteral] using this

theorem atomMinN32 (o : LMem) : Statement (.atomMinN32 o) := by
  intro cls ws h hc; cases hc
  have := afterLPfx o.x (o.word 0x1a) ws (.atomMinN32 o) (by simp [isPrefix])
    (by simp [target_l, decodeL, legal, h])
  simpa [encode, targetLen, takesLiteral] using this

theorem atomMaxN32 (o : LMem) : Statement (.atomMaxN32 o) := by
  intro cls ws h hc; cases hc
  have := afterLPfx o.x (o.word 0x1b) ws (.atomMaxN32 o) (by simp [isPrefix])
    (by simp [target_l, decodeL, legal, h])
  simpa [encode, targetLen, takesLiteral] using this

theorem atomAnd (o : LMem) : Statement (.atomAnd o) := by
  intro cls ws h hc; cases hc
  have := afterLPfx o.x (o.word 0x1c) ws (.atomAnd o) (by simp [isPrefix])
    (by simp [target_l, decodeL, legal, h])
  simpa [encode, targetLen, takesLiteral] using this

theorem atomOr (o : LMem) : Statement (.atomOr o) := by
  intro cls ws h hc; cases hc
  have := afterLPfx o.x (o.word 0x1d) ws (.atomOr o) (by simp [isPrefix])
    (by simp [target_l, decodeL, legal, h])
  simpa [encode, targetLen, takesLiteral] using this

theorem atomXor (o : LMem) : Statement (.atomXor o) := by
  intro cls ws h hc; cases hc
  have := afterLPfx o.x (o.word 0x1e) ws (.atomXor o) (by simp [isPrefix])
    (by simp [target_l, decodeL, legal, h])
  simpa [encode, targetLen, takesLiteral] using this

theorem atomExch (o : LMem) : Statement (.atomExch o) := by
  intro cls ws h hc; cases hc
  have := afterLPfx o.x (o.word 0x1f) ws (.atomExch o) (by simp [isPrefix])
    (by simp [target_l, decodeL, legal, h])
  simpa [encode, targetLen, takesLiteral] using this

theorem atomCas (o : LMem) : Statement (.atomCas o) := by
  intro cls ws h hc; cases hc
  have := afterLPfx o.x (o.word 0x20) ws (.atomCas o) (by simp [isPrefix])
    (by simp [target_l, decodeL, legal, h])
  simpa [encode, targetLen, takesLiteral] using this

theorem atomFaddF32 (o : LMem) : Statement (.atomFaddF32 o) := by
  intro cls ws h hc; cases hc
  have := afterLPfx o.x (o.word 0x21) ws (.atomFaddF32 o) (by simp [isPrefix])
    (by simp [target_l, decodeL, legal, h])
  simpa [encode, targetLen, takesLiteral] using this

theorem atomExch64 (o : LMem) : Statement (.atomExch64 o) := by
  intro cls ws h hc; cases hc
  have := afterLPfx o.x (o.word 0x22) ws (.atomExch64 o) (by simp [isPrefix])
    (by simp [target_l, decodeL, legal, h])
  simpa [encode, targetLen, takesLiteral] using this

theorem redAddN32 (o : LMem) : Statement (.redAddN32 o) := by
  intro cls ws h hc; cases hc
  have := afterLPfx o.x (o.word 0x23) ws (.redAddN32 o) (by simp [isPrefix])
    (by simp [target_l, decodeL, legal, h])
  simpa [encode, targetLen, takesLiteral] using this

theorem redAddN64 (o : LMem) : Statement (.redAddN64 o) := by
  intro cls ws h hc; cases hc
  have := afterLPfx o.x (o.word 0x24) ws (.redAddN64 o) (by simp [isPrefix])
    (by simp [target_l, decodeL, legal, h])
  simpa [encode, targetLen, takesLiteral] using this

theorem redMinI32 (o : LMem) : Statement (.redMinI32 o) := by
  intro cls ws h hc; cases hc
  have := afterLPfx o.x (o.word 0x25) ws (.redMinI32 o) (by simp [isPrefix])
    (by simp [target_l, decodeL, legal, h])
  simpa [encode, targetLen, takesLiteral] using this

theorem redMaxI32 (o : LMem) : Statement (.redMaxI32 o) := by
  intro cls ws h hc; cases hc
  have := afterLPfx o.x (o.word 0x26) ws (.redMaxI32 o) (by simp [isPrefix])
    (by simp [target_l, decodeL, legal, h])
  simpa [encode, targetLen, takesLiteral] using this

theorem redMinN32 (o : LMem) : Statement (.redMinN32 o) := by
  intro cls ws h hc; cases hc
  have := afterLPfx o.x (o.word 0x27) ws (.redMinN32 o) (by simp [isPrefix])
    (by simp [target_l, decodeL, legal, h])
  simpa [encode, targetLen, takesLiteral] using this

theorem redMaxN32 (o : LMem) : Statement (.redMaxN32 o) := by
  intro cls ws h hc; cases hc
  have := afterLPfx o.x (o.word 0x28) ws (.redMaxN32 o) (by simp [isPrefix])
    (by simp [target_l, decodeL, legal, h])
  simpa [encode, targetLen, takesLiteral] using this

theorem redAnd (o : LMem) : Statement (.redAnd o) := by
  intro cls ws h hc; cases hc
  have := afterLPfx o.x (o.word 0x29) ws (.redAnd o) (by simp [isPrefix])
    (by simp [target_l, decodeL, legal, h])
  simpa [encode, targetLen, takesLiteral] using this

theorem redOr (o : LMem) : Statement (.redOr o) := by
  intro cls ws h hc; cases hc
  have := afterLPfx o.x (o.word 0x2a) ws (.redOr o) (by simp [isPrefix])
    (by simp [target_l, decodeL, legal, h])
  simpa [encode, targetLen, takesLiteral] using this

theorem redXor (o : LMem) : Statement (.redXor o) := by
  intro cls ws h hc; cases hc
  have := afterLPfx o.x (o.word 0x2b) ws (.redXor o) (by simp [isPrefix])
    (by simp [target_l, decodeL, legal, h])
  simpa [encode, targetLen, takesLiteral] using this

theorem redFaddF32 (o : LMem) : Statement (.redFaddF32 o) := by
  intro cls ws h hc; cases hc
  have := afterLPfx o.x (o.word 0x2c) ws (.redFaddF32 o) (by simp [isPrefix])
    (by simp [target_l, decodeL, legal, h])
  simpa [encode, targetLen, takesLiteral] using this

theorem atomtAddN32 (o : LTile) : Statement (.atomtAddN32 o) := by
  intro cls ws h hc; cases hc
  have := afterLPfx o.x (o.word 0x30) ws (.atomtAddN32 o) (by simp [isPrefix])
    (by simp [target_l, decodeL, legal, h])
  simpa [encode, targetLen, takesLiteral] using this

theorem atomtMinI32 (o : LTile) : Statement (.atomtMinI32 o) := by
  intro cls ws h hc; cases hc
  have := afterLPfx o.x (o.word 0x31) ws (.atomtMinI32 o) (by simp [isPrefix])
    (by simp [target_l, decodeL, legal, h])
  simpa [encode, targetLen, takesLiteral] using this

theorem atomtMaxI32 (o : LTile) : Statement (.atomtMaxI32 o) := by
  intro cls ws h hc; cases hc
  have := afterLPfx o.x (o.word 0x32) ws (.atomtMaxI32 o) (by simp [isPrefix])
    (by simp [target_l, decodeL, legal, h])
  simpa [encode, targetLen, takesLiteral] using this

theorem atomtExch (o : LTile) : Statement (.atomtExch o) := by
  intro cls ws h hc; cases hc
  have := afterLPfx o.x (o.word 0x33) ws (.atomtExch o) (by simp [isPrefix])
    (by simp [target_l, decodeL, legal, h])
  simpa [encode, targetLen, takesLiteral] using this

theorem atomtCas (o : LTile) : Statement (.atomtCas o) := by
  intro cls ws h hc; cases hc
  have := afterLPfx o.x (o.word 0x34) ws (.atomtCas o) (by simp [isPrefix])
    (by simp [target_l, decodeL, legal, h])
  simpa [encode, targetLen, takesLiteral] using this

theorem fence (o : LFence) : Statement (.fence o) := by
  intro cls ws h hc; cases hc
  have := afterLPfx o.x (o.word 0x35) ws (.fence o) (by simp [isPrefix])
    (by simp [target_l, decodeL, legal, h])
  simpa [encode, targetLen, takesLiteral] using this

theorem cinv (o : LLine) : Statement (.cinv o) := by
  intro cls ws h hc; cases hc
  have := afterLPfx o.x (o.word 0x36) ws (.cinv o) (by simp [isPrefix])
    (by simp [target_l, decodeL, legal, h])
  simpa [encode, targetLen, takesLiteral] using this

theorem pref (o : LLine) : Statement (.pref o) := by
  intro cls ws h hc; cases hc
  have := afterLPfx o.x (o.word 0x37) ws (.pref o) (by simp [isPrefix])
    (by simp [target_l, decodeL, legal, h])
  simpa [encode, targetLen, takesLiteral] using this

theorem nop (o : XG) : Statement (.nop o) := by
  intro cls ws h hc; cases hc
  have := bare .x (o.word 0x01) ws (.nop o) rfl (by simp [decodeTarget, decodeX, legal, h])
  simpa [encode, targetLen, takesLiteral] using this

theorem xch (o : XRI) : Statement (.xch o) := by
  intro cls ws h hc; cases hc
  have := bare .x (o.word 0x02) ws (.xch o) rfl (by simp [decodeTarget, decodeX, legal, h])
  simpa [encode, targetLen, takesLiteral] using this

theorem qbc (o : XRI) : Statement (.qbc o) := by
  intro cls ws h hc; cases hc
  have := bare .x (o.word 0x03) ws (.qbc o) rfl (by simp [decodeTarget, decodeX, legal, h])
  simpa [encode, targetLen, takesLiteral] using this

theorem qsum (o : XTy) : Statement (.qsum o) := by
  intro cls ws h hc; cases hc
  have := bare .x (o.word 0x04) ws (.qsum o) rfl (by simp [decodeTarget, decodeX, legal, h])
  simpa [encode, targetLen, takesLiteral] using this

theorem qmin (o : XTy) : Statement (.qmin o) := by
  intro cls ws h hc; cases hc
  have := bare .x (o.word 0x05) ws (.qmin o) rfl (by simp [decodeTarget, decodeX, legal, h])
  simpa [encode, targetLen, takesLiteral] using this

theorem qmax (o : XTy) : Statement (.qmax o) := by
  intro cls ws h hc; cases hc
  have := bare .x (o.word 0x06) ws (.qmax o) rfl (by simp [decodeTarget, decodeX, legal, h])
  simpa [encode, targetLen, takesLiteral] using this

theorem qdiff (o : XQd) : Statement (.qdiff o) := by
  intro cls ws h hc; cases hc
  have := bare .x (o.word 0x07) ws (.qdiff o) rfl (by simp [decodeTarget, decodeX, legal, h])
  simpa [encode, targetLen, takesLiteral] using this

theorem voteAny (o : XVote) : Statement (.voteAny o) := by
  intro cls ws h hc; cases hc
  have := bare .x (o.word 0x08) ws (.voteAny o) rfl (by simp [decodeTarget, decodeX, legal, h])
  simpa [encode, targetLen, takesLiteral] using this

theorem voteAll (o : XVote) : Statement (.voteAll o) := by
  intro cls ws h hc; cases hc
  have := bare .x (o.word 0x09) ws (.voteAll o) rfl (by simp [decodeTarget, decodeX, legal, h])
  simpa [encode, targetLen, takesLiteral] using this

theorem ballot (o : XBal) : Statement (.ballot o) := by
  intro cls ws h hc; cases hc
  have := bare .x (o.word 0x0a) ws (.ballot o) rfl (by simp [decodeTarget, decodeX, legal, h])
  simpa [encode, targetLen, takesLiteral] using this

theorem matchLanes (o : XR1) : Statement (.matchLanes o) := by
  intro cls ws h hc; cases hc
  have := bare .x (o.word 0x0b) ws (.matchLanes o) rfl (by simp [decodeTarget, decodeX, legal, h])
  simpa [encode, targetLen, takesLiteral] using this

theorem redtAdd (o : XTy) : Statement (.redtAdd o) := by
  intro cls ws h hc; cases hc
  have := bare .x (o.word 0x0c) ws (.redtAdd o) rfl (by simp [decodeTarget, decodeX, legal, h])
  simpa [encode, targetLen, takesLiteral] using this

theorem redtMin (o : XTy) : Statement (.redtMin o) := by
  intro cls ws h hc; cases hc
  have := bare .x (o.word 0x0d) ws (.redtMin o) rfl (by simp [decodeTarget, decodeX, legal, h])
  simpa [encode, targetLen, takesLiteral] using this

theorem redtMax (o : XTy) : Statement (.redtMax o) := by
  intro cls ws h hc; cases hc
  have := bare .x (o.word 0x0e) ws (.redtMax o) rfl (by simp [decodeTarget, decodeX, legal, h])
  simpa [encode, targetLen, takesLiteral] using this

theorem scantAdd (o : XScan) : Statement (.scantAdd o) := by
  intro cls ws h hc; cases hc
  have := bare .x (o.word 0x0f) ws (.scantAdd o) rfl (by simp [decodeTarget, decodeX, legal, h])
  simpa [encode, targetLen, takesLiteral] using this

theorem part (o : XPart) : Statement (.part o) := by
  intro cls ws h hc; cases hc
  have := bare .x (o.word 0x10) ws (.part o) rfl (by simp [decodeTarget, decodeX, legal, h])
  simpa [encode, targetLen, takesLiteral] using this

theorem plop (o : XPlop) : Statement (.plop o) := by
  intro cls ws h hc; cases hc
  have := bare .x (o.word 0x11) ws (.plop o) rfl (by simp [decodeTarget, decodeX, legal, h])
  simpa [encode, targetLen, takesLiteral] using this

theorem bra (o : XBr) : Statement (.bra o) := by
  intro cls ws h hc; cases hc
  have := bare .x (o.word 0x12) ws (.bra o) rfl (by simp [decodeTarget, decodeX, legal, h])
  simpa [encode, targetLen, takesLiteral] using this

theorem brx (o : XA) : Statement (.brx o) := by
  intro cls ws h hc; cases hc
  have := bare .x (o.word 0x13) ws (.brx o) rfl (by simp [decodeTarget, decodeX, legal, h])
  simpa [encode, targetLen, takesLiteral] using this

theorem call (o : XBr) : Statement (.call o) := by
  intro cls ws h hc; cases hc
  have := bare .x (o.word 0x14) ws (.call o) rfl (by simp [decodeTarget, decodeX, legal, h])
  simpa [encode, targetLen, takesLiteral] using this

theorem ret (o : XA) : Statement (.ret o) := by
  intro cls ws h hc; cases hc
  have := bare .x (o.word 0x15) ws (.ret o) rfl (by simp [decodeTarget, decodeX, legal, h])
  simpa [encode, targetLen, takesLiteral] using this

theorem exit (o : XG) : Statement (.exit o) := by
  intro cls ws h hc; cases hc
  have := bare .x (o.word 0x16) ws (.exit o) rfl (by simp [decodeTarget, decodeX, legal, h])
  simpa [encode, targetLen, takesLiteral] using this

theorem yield (o : XG) : Statement (.yield o) := by
  intro cls ws h hc; cases hc
  have := bare .x (o.word 0x17) ws (.yield o) rfl (by simp [decodeTarget, decodeX, legal, h])
  simpa [encode, targetLen, takesLiteral] using this

theorem active (o : XD) : Statement (.active o) := by
  intro cls ws h hc; cases hc
  have := bare .x (o.word 0x18) ws (.active o) rfl (by simp [decodeTarget, decodeX, legal, h])
  simpa [encode, targetLen, takesLiteral] using this

theorem mma (o : MMma) : Statement (.mma o) := by
  intro cls ws h hc; cases hc
  have := bare .m (o.word 0x01) (o.litWord :: ws) (.mma o) rfl (by simp [decodeTarget, decodeM, legal, withLit, h])
  simpa [encode, targetLen, takesLiteral] using this

theorem mbound (o : MBnd) : Statement (.mbound o) := by
  intro cls ws h hc; cases hc
  have := bare .m (o.word 0x02) (o.litWord :: ws) (.mbound o) rfl (by simp [decodeTarget, decodeM, legal, withLit, h])
  simpa [encode, targetLen, takesLiteral] using this

theorem mzero (o : MZ) : Statement (.mzero o) := by
  intro cls ws h hc; cases hc
  have := bare .m (o.word 0x03 0) ws (.mzero o) rfl (by simp [decodeTarget, decodeM, legal, h])
  simpa [encode, targetLen, takesLiteral] using this

theorem mzeroX4 (o : MZ) : Statement (.mzeroX4 o) := by
  intro cls ws h hc; cases hc
  have := bare .m (o.word 0x03 1) ws (.mzeroX4 o) rfl (by simp [decodeTarget, decodeM, legal, h])
  simpa [encode, targetLen, takesLiteral] using this

theorem mlatK (o : MLat) : Statement (.mlatK o) := by
  intro cls ws h hc; cases hc
  have := bare .m (o.word 0x04 0) ws (.mlatK o) rfl (by simp [decodeTarget, decodeM, legal, h])
  simpa [encode, targetLen, takesLiteral] using this

theorem mlatV (o : MLat) : Statement (.mlatV o) := by
  intro cls ws h hc; cases hc
  have := bare .m (o.word 0x04 1) ws (.mlatV o) rfl (by simp [decodeTarget, decodeM, legal, h])
  simpa [encode, targetLen, takesLiteral] using this

theorem mstat (o : MStat) : Statement (.mstat o) := by
  intro cls ws h hc; cases hc
  have := bare .m (o.word 0x05) ws (.mstat o) rfl (by simp [decodeTarget, decodeM, legal, h])
  simpa [encode, targetLen, takesLiteral] using this

theorem cpy (o : CCpy) : Statement (.cpy o) := by
  intro cls ws h hc; cases hc
  have := bare .c (o.word 0x01) (o.litWord :: ws) (.cpy o) rfl (by simp [decodeTarget, decodeC, legal, withLit, h])
  simpa [encode, targetLen, takesLiteral] using this

theorem cpym (o : CCpym) : Statement (.cpym o) := by
  intro cls ws h hc; cases hc
  have := bare .c (o.word 0x02) (o.litWord :: ws) (.cpym o) rfl (by simp [decodeTarget, decodeC, legal, withLit, h])
  simpa [encode, targetLen, takesLiteral] using this

theorem enc (o : CTile) : Statement (.enc o) := by
  intro cls ws h hc; cases hc
  have := bare .c (o.word 0x03) (o.litWord :: ws) (.enc o) rfl (by simp [decodeTarget, decodeC, legal, withLit, h])
  simpa [encode, targetLen, takesLiteral] using this

theorem dect (o : CTile) : Statement (.dect o) := by
  intro cls ws h hc; cases hc
  have := bare .c (o.word 0x04) (o.litWord :: ws) (.dect o) rfl (by simp [decodeTarget, decodeC, legal, withLit, h])
  simpa [encode, targetLen, takesLiteral] using this

theorem sread (o : CP) : Statement (.sread o) := by
  intro cls ws h hc; cases hc
  have := bare .c (o.word 0x06 0) ws (.sread o) rfl (by simp [decodeTarget, decodeC, legal, h])
  simpa [encode, targetLen, takesLiteral] using this

theorem swrite (o : CP) : Statement (.swrite o) := by
  intro cls ws h hc; cases hc
  have := bare .c (o.word 0x07 0) ws (.swrite o) rfl (by simp [decodeTarget, decodeC, legal, h])
  simpa [encode, targetLen, takesLiteral] using this

theorem swriteFua (o : CP) : Statement (.swriteFua o) := by
  intro cls ws h hc; cases hc
  have := bare .c (o.word 0x07 1) ws (.swriteFua o) rfl (by simp [decodeTarget, decodeC, legal, h])
  simpa [encode, targetLen, takesLiteral] using this

theorem append (o : CApp) : Statement (.append o) := by
  intro cls ws h hc; cases hc
  have := bare .c (o.word 0x08) ws (.append o) rfl (by simp [decodeTarget, decodeC, legal, h])
  simpa [encode, targetLen, takesLiteral] using this

theorem drain (o : CDrn) : Statement (.drain o) := by
  intro cls ws h hc; cases hc
  have := bare .c (o.word 0x09) ws (.drain o) rfl (by simp [decodeTarget, decodeC, legal, h])
  simpa [encode, targetLen, takesLiteral] using this

theorem quiesce (o : YX) : Statement (.quiesce o) := by
  intro cls ws h hc; cases hc
  have := bare .c (o.word 0x0a 0) ws (.quiesce o) rfl (by simp [decodeTarget, decodeC, legal, h])
  simpa [encode, targetLen, takesLiteral] using this

theorem tfset (o : CTf) : Statement (.tfset o) := by
  intro cls ws h hc; cases hc
  have := bare .c (o.word 0x0b 0) ws (.tfset o) rfl (by simp [decodeTarget, decodeC, legal, h])
  simpa [encode, targetLen, takesLiteral] using this

theorem tfsetOvcur (o : CTf) : Statement (.tfsetOvcur o) := by
  intro cls ws h hc; cases hc
  have := bare .c (o.word 0x0b 1) ws (.tfsetOvcur o) rfl (by simp [decodeTarget, decodeC, legal, h])
  simpa [encode, targetLen, takesLiteral] using this

theorem tfget (o : CTf) : Statement (.tfget o) := by
  intro cls ws h hc; cases hc
  have := bare .c (o.word 0x0c 0) ws (.tfget o) rfl (by simp [decodeTarget, decodeC, legal, h])
  simpa [encode, targetLen, takesLiteral] using this

theorem phregSo (o : YX) : Statement (.phregSo o) := by
  intro cls ws h hc; cases hc
  have := bare .y (o.word 0x01 0) ws (.phregSo o) rfl (by simp [decodeTarget, decodeY, legal, h])
  simpa [encode, targetLen, takesLiteral] using this

theorem phregWo (o : YX) : Statement (.phregWo o) := by
  intro cls ws h hc; cases hc
  have := bare .y (o.word 0x01 1) ws (.phregWo o) rfl (by simp [decodeTarget, decodeY, legal, h])
  simpa [encode, targetLen, takesLiteral] using this

theorem phregSw (o : YX) : Statement (.phregSw o) := by
  intro cls ws h hc; cases hc
  have := bare .y (o.word 0x01 2) ws (.phregSw o) rfl (by simp [decodeTarget, decodeY, legal, h])
  simpa [encode, targetLen, takesLiteral] using this

theorem phdrop (o : YX) : Statement (.phdrop o) := by
  intro cls ws h hc; cases hc
  have := bare .y (o.word 0x02 0) ws (.phdrop o) rfl (by simp [decodeTarget, decodeY, legal, h])
  simpa [encode, targetLen, takesLiteral] using this

theorem phsig (o : YX) : Statement (.phsig o) := by
  intro cls ws h hc; cases hc
  have := bare .y (o.word 0x03 0) ws (.phsig o) rfl (by simp [decodeTarget, decodeY, legal, h])
  simpa [encode, targetLen, takesLiteral] using this

theorem phwait (o : YX) : Statement (.phwait o) := by
  intro cls ws h hc; cases hc
  have := bare .y (o.word 0x04 0) ws (.phwait o) rfl (by simp [decodeTarget, decodeY, legal, h])
  simpa [encode, targetLen, takesLiteral] using this

theorem phsw (o : YX) : Statement (.phsw o) := by
  intro cls ws h hc; cases hc
  have := bare .y (o.word 0x05 0) ws (.phsw o) rfl (by simp [decodeTarget, decodeY, legal, h])
  simpa [encode, targetLen, takesLiteral] using this

theorem phget (o : YPg) : Statement (.phget o) := by
  intro cls ws h hc; cases hc
  have := bare .y (o.word 0x06) ws (.phget o) rfl (by simp [decodeTarget, decodeY, legal, h])
  simpa [encode, targetLen, takesLiteral] using this

theorem racqP (o : YRg) : Statement (.racqP o) := by
  intro cls ws h hc; cases hc
  have := bare .y (o.word 0x07 0) ws (.racqP o) rfl (by simp [decodeTarget, decodeY, legal, h])
  simpa [encode, targetLen, takesLiteral] using this

theorem racqC (o : YRg) : Statement (.racqC o) := by
  intro cls ws h hc; cases hc
  have := bare .y (o.word 0x07 1) ws (.racqC o) rfl (by simp [decodeTarget, decodeY, legal, h])
  simpa [encode, targetLen, takesLiteral] using this

theorem rrelP (o : YRg) : Statement (.rrelP o) := by
  intro cls ws h hc; cases hc
  have := bare .y (o.word 0x08 0) ws (.rrelP o) rfl (by simp [decodeTarget, decodeY, legal, h])
  simpa [encode, targetLen, takesLiteral] using this

theorem rrelC (o : YRg) : Statement (.rrelC o) := by
  intro cls ws h hc; cases hc
  have := bare .y (o.word 0x08 1) ws (.rrelC o) rfl (by simp [decodeTarget, decodeY, legal, h])
  simpa [encode, targetLen, takesLiteral] using this

theorem launch (o : YLn) : Statement (.launch o) := by
  intro cls ws h hc; cases hc
  have := bare .y (o.word 0x09) ws (.launch o) rfl (by simp [decodeTarget, decodeY, legal, h])
  simpa [encode, targetLen, takesLiteral] using this

theorem succhint (o : YG) : Statement (.succhint o) := by
  intro cls ws h hc; cases hc
  have := bare .y (o.word 0x0a) ws (.succhint o) rfl (by simp [decodeTarget, decodeY, legal, h])
  simpa [encode, targetLen, takesLiteral] using this

theorem predwait (o : YG) : Statement (.predwait o) := by
  intro cls ws h hc; cases hc
  have := bare .y (o.word 0x0b) ws (.predwait o) rfl (by simp [decodeTarget, decodeY, legal, h])
  simpa [encode, targetLen, takesLiteral] using this

theorem time (o : YD) : Statement (.time o) := by
  intro cls ws h hc; cases hc
  have := bare .y (o.word 0x0c) ws (.time o) rfl (by simp [decodeTarget, decodeY, legal, h])
  simpa [encode, targetLen, takesLiteral] using this

theorem twait (o : YA) : Statement (.twait o) := by
  intro cls ws h hc; cases hc
  have := bare .y (o.word 0x0d) ws (.twait o) rfl (by simp [decodeTarget, decodeY, legal, h])
  simpa [encode, targetLen, takesLiteral] using this

theorem csrr (o : YCr) : Statement (.csrr o) := by
  intro cls ws h hc; cases hc
  have := bare .y (o.word 0x0e) ws (.csrr o) rfl (by simp [decodeTarget, decodeY, legal, h])
  simpa [encode, targetLen, takesLiteral] using this

theorem csrw (o : YCw) : Statement (.csrw o) := by
  intro cls ws h hc; cases hc
  have := bare .y (o.word 0x0f) ws (.csrw o) rfl (by simp [decodeTarget, decodeY, legal, h])
  simpa [encode, targetLen, takesLiteral] using this

theorem plvl (o : YA) : Statement (.plvl o) := by
  intro cls ws h hc; cases hc
  have := bare .y (o.wordR 0x10) ws (.plvl o) rfl (by simp [decodeTarget, decodeY, legal, h])
  simpa [encode, targetLen, takesLiteral] using this

theorem trap (o : YN) : Statement (.trap o) := by
  intro cls ws h hc; cases hc
  have := bare .y (o.word 0x11) ws (.trap o) rfl (by simp [decodeTarget, decodeY, legal, h])
  simpa [encode, targetLen, takesLiteral] using this

theorem rte (o : YG) : Statement (.rte o) := by
  intro cls ws h hc; cases hc
  have := bare .y (o.word 0x12) ws (.rte o) rfl (by simp [decodeTarget, decodeY, legal, h])
  simpa [encode, targetLen, takesLiteral] using this

theorem bkpt (o : YN) : Statement (.bkpt o) := by
  intro cls ws h hc; cases hc
  have := bare .y (o.word 0x13) ws (.bkpt o) rfl (by simp [decodeTarget, decodeY, legal, h])
  simpa [encode, targetLen, takesLiteral] using this

theorem evwait (o : YD) : Statement (.evwait o) := by
  intro cls ws h hc; cases hc
  have := bare .y (o.wordY 0x14) ws (.evwait o) rfl (by simp [decodeTarget, decodeY, legal, h])
  simpa [encode, targetLen, takesLiteral] using this

theorem evpop (o : YD) : Statement (.evpop o) := by
  intro cls ws h hc; cases hc
  have := bare .y (o.wordY 0x15) ws (.evpop o) rfl (by simp [decodeTarget, decodeY, legal, h])
  simpa [encode, targetLen, takesLiteral] using this

theorem selectRun (core slot : Nat) : Statement (.selectRun core slot) := by
  intro cls ws h hc; cases hc

theorem clauseFetch (wid : Nat) : Statement (.clauseFetch wid) := by
  intro cls ws h hc; cases hc

theorem registerCacheFill (core wid reg : Nat) : Statement (.registerCacheFill core wid reg) := by
  intro cls ws h hc; cases hc

theorem bbcPark (core slot : Nat) : Statement (.bbcPark core slot) := by
  intro cls ws h hc; cases hc

theorem setaFlagClear (wid flag : Nat) : Statement (.setaFlagClear wid flag) := by
  intro cls ws h hc; cases hc

theorem longLatencyResult (wid op : Nat) : Statement (.longLatencyResult wid op) := by
  intro cls ws h hc; cases hc

theorem loadResponse (wid op : Nat) : Statement (.loadResponse wid op) := by
  intro cls ws h hc; cases hc

theorem storePerformed (wid op : Nat) : Statement (.storePerformed wid op) := by
  intro cls ws h hc; cases hc

theorem atomicPerformed (wid op lane : Nat) : Statement (.atomicPerformed wid op lane) := by
  intro cls ws h hc; cases hc

theorem deferredDenial (wid op : Nat) : Statement (.deferredDenial wid op) := by
  intro cls ws h hc; cases hc

theorem fenceComplete (wid op : Nat) : Statement (.fenceComplete wid op) := by
  intro cls ws h hc; cases hc

theorem pageWalk (core cid : Nat) (va : DWord) : Statement (.pageWalk core cid va) := by
  intro cls ws h hc; cases hc

theorem l1Fill (core line : Nat) : Statement (.l1Fill core line) := by
  intro cls ws h hc; cases hc

theorem homeL2Write (core write : Nat) : Statement (.homeL2Write core write) := by
  intro cls ws h hc; cases hc

theorem remoteRead (die line : Nat) : Statement (.remoteRead die line) := by
  intro cls ws h hc; cases hc

theorem rdcFill (die line : Nat) : Statement (.rdcFill die line) := by
  intro cls ws h hc; cases hc

theorem rdcInvalidation (die line : Nat) : Statement (.rdcInvalidation die line) := by
  intro cls ws h hc; cases hc

theorem l2Eviction (die line : Nat) : Statement (.l2Eviction die line) := by
  intro cls ws h hc; cases hc

theorem graftFence (wid op : Nat) : Statement (.graftFence wid op) := by
  intro cls ws h hc; cases hc

theorem engineCommandStart (cmd : Nat) : Statement (.engineCommandStart cmd) := by
  intro cls ws h hc; cases hc

theorem engineCommandComplete (cmd : Nat) : Statement (.engineCommandComplete cmd) := by
  intro cls ws h hc; cases hc

theorem conversionLimitCrossing (wid : Nat) : Statement (.conversionLimitCrossing wid) := by
  intro cls ws h hc; cases hc

theorem engineFault (cmd : Nat) : Statement (.engineFault cmd) := by
  intro cls ws h hc; cases hc

theorem eventAppend (cid : Nat) : Statement (.eventAppend cid) := by
  intro cls ws h hc; cases hc

theorem multicastDelivery (cmd rank : Nat) : Statement (.multicastDelivery cmd rank) := by
  intro cls ws h hc; cases hc

theorem cpymGangSignal (cmd : Nat) : Statement (.cpymGangSignal cmd) := by
  intro cls ws h hc; cases hc

theorem mmaStart (cmd : Nat) : Statement (.mmaStart cmd) := by
  intro cls ws h hc; cases hc

theorem projectionReload (cmd : Nat) : Statement (.projectionReload cmd) := by
  intro cls ws h hc; cases hc

theorem mmaComplete (cmd : Nat) : Statement (.mmaComplete cmd) := by
  intro cls ws h hc; cases hc

theorem matrixFault (cmd : Nat) : Statement (.matrixFault cmd) := by
  intro cls ws h hc; cases hc

theorem mlatLoadComplete (cmd : Nat) : Statement (.mlatLoadComplete cmd) := by
  intro cls ws h hc; cases hc

theorem storageCompletion (cmd : Nat) (sf : BitVec 15) (data : List Byte) : Statement (.storageCompletion cmd sf data) := by
  intro cls ws h hc; cases hc

theorem appendGroup (cmd : Nat) : Statement (.appendGroup cmd) := by
  intro cls ws h hc; cases hc

theorem terminationDetectorSignal (cid : Nat) : Statement (.terminationDetectorSignal cid) := by
  intro cls ws h hc; cases hc

theorem slewAdmission (cid grid : Nat) : Statement (.slewAdmission cid grid) := by
  intro cls ws h hc; cases hc

theorem twaitDeadline (wid : Nat) : Statement (.twaitDeadline wid) := by
  intro cls ws h hc; cases hc

theorem gridStartTime (cid grid : Nat) : Statement (.gridStartTime cid grid) := by
  intro cls ws h hc; cases hc

theorem blockPlacement (cid grid gang core : Nat) : Statement (.blockPlacement cid grid gang core) := by
  intro cls ws h hc; cases hc

theorem blockMigration (blk core : Nat) : Statement (.blockMigration blk core) := by
  intro cls ws h hc; cases hc

theorem quantumSliceEnd (cid : Nat) : Statement (.quantumSliceEnd cid) := by
  intro cls ws h hc; cases hc

theorem quantumRotation (cid grid : Nat) : Statement (.quantumRotation cid grid) := by
  intro cls ws h hc; cases hc

theorem warpEnd (wid : Nat) : Statement (.warpEnd wid) := by
  intro cls ws h hc; cases hc

theorem blockEnd (blk : Nat) : Statement (.blockEnd blk) := by
  intro cls ws h hc; cases hc

theorem gridCompletion (cid grid : Nat) : Statement (.gridCompletion cid grid) := by
  intro cls ws h hc; cases hc

theorem jobEnd (cid : Nat) : Statement (.jobEnd cid) := by
  intro cls ws h hc; cases hc

theorem hangWatchdogExpiry (cid grid : Nat) : Statement (.hangWatchdogExpiry cid grid) := by
  intro cls ws h hc; cases hc

theorem saveLimitExpiry (cid : Nat) : Statement (.saveLimitExpiry cid) := by
  intro cls ws h hc; cases hc

theorem stopWalk (cid : Nat) : Statement (.stopWalk cid) := by
  intro cls ws h hc; cases hc

theorem save (blk : Nat) : Statement (.save blk) := by
  intro cls ws h hc; cases hc

theorem restore (blk core : Nat) : Statement (.restore blk core) := by
  intro cls ws h hc; cases hc

theorem uncorrectableError (source : ErrorSource) : Statement (.uncorrectableError source) := by
  intro cls ws h hc; cases hc

theorem correctableError (die : Nat) : Statement (.correctableError die) := by
  intro cls ws h hc; cases hc

theorem jobent (cid bytes : Nat) (value : DWord) : Statement (.jobent cid bytes value) := by
  intro cls ws h hc; cases hc

theorem stopctlStop (cid : Nat) (value : DWord) : Statement (.stopctlStop cid value) := by
  intro cls ws h hc; cases hc

theorem stopctlResume (cid : Nat) (value : DWord) : Statement (.stopctlResume cid value) := by
  intro cls ws h hc; cases hc

theorem captureClear (die target : Nat) (value : DWord) : Statement (.captureClear die target value) := by
  intro cls ws h hc; cases hc

theorem xinvctlGo (die : Nat) (value : DWord) : Statement (.xinvctlGo die value) := by
  intro cls ws h hc; cases hc

theorem invalidationComplete (die : Nat) : Statement (.invalidationComplete die) := by
  intro cls ws h hc; cases hc

theorem registerWrite (target : RegTarget) (off : Nat) (value : DWord) : Statement (.registerWrite target off value) := by
  intro cls ws h hc; cases hc

theorem bar2Access (off : Nat) (acc : HostAccess) : Statement (.bar2Access off acc) := by
  intro cls ws h hc; cases hc

theorem driveDma (drive pa : Nat) (write : Bool) : Statement (.driveDma drive pa write) := by
  intro cls ws h hc; cases hc

theorem scaleUpRequest (port pa : Nat) (acc : HostAccess) : Statement (.scaleUpRequest port pa acc) := by
  intro cls ws h hc; cases hc

theorem linkDown (port : Nat) (performed : List Nat) : Statement (.linkDown port performed) := by
  intro cls ws h hc; cases hc

theorem driveRemoval (drive : Nat) : Statement (.driveRemoval drive) := by
  intro cls ws h hc; cases hc

theorem flitReplay (die : Nat) : Statement (.flitReplay die) := by
  intro cls ws h hc; cases hc

theorem graftLoss : Statement (.graftLoss ) := by
  intro cls ws h hc; cases hc

theorem uevtClear (value : DWord) : Statement (.uevtClear value) := by
  intro cls ws h hc; cases hc

theorem moduleReset (value : DWord) : Statement (.moduleReset value) := by
  intro cls ws h hc; cases hc

theorem pcSampleTick (core : Nat) (power : BitVec 16) : Statement (.pcSampleTick core power) := by
  intro cls ws h hc; cases hc

theorem perfLevelChange (cluster : Nat) : Statement (.perfLevelChange cluster) := by
  intro cls ws h hc; cases hc

theorem powerLimitExceeded (milliwatts : Nat) : Statement (.powerLimitExceeded milliwatts) := by
  intro cls ws h hc; cases hc

theorem thermalLevelForce (die : Nat) : Statement (.thermalLevelForce die) := by
  intro cls ws h hc; cases hc

theorem thermalShutdown (die : Nat) : Statement (.thermalShutdown die) := by
  intro cls ws h hc; cases hc

theorem timebaseCorrection (delta : Int) : Statement (.timebaseCorrection delta) := by
  intro cls ws h hc; cases hc

theorem bringUp (hbmOk graftOk : Bool) (links : BitVec 36) (drives : BitVec 4) : Statement (.bringUp hbmOk graftOk links drives) := by
  intro cls ws h hc; cases hc

theorem conductorRun (die cid : Nat) : Statement (.conductorRun die cid) := by
  intro cls ws h hc; cases hc

theorem resizableBarWrite (log2GiB : Nat) : Statement (.resizableBarWrite log2GiB) := by
  intro cls ws h hc; cases hc

theorem effectiveLevelRestore (milliwatts : Nat) : Statement (.effectiveLevelRestore milliwatts) := by
  intro cls ws h hc; cases hc

theorem i3cDynamicAddress (addr : BitVec 7) : Statement (.i3cDynamicAddress addr) := by
  intro cls ws h hc; cases hc

theorem mboundResult (wid op : Nat) : Statement (.mboundResult wid op) := by
  intro cls ws h hc; cases hc

end Sys2Proof.Laws.Encoding
end

