-- ==== Sys2Proof/Laws/Sparse.lean ====
section
/-! SUPPORT. What a sparse table and a table of records answer after a change, and that every change of a sparse table
keeps its canonical form. -/

namespace Sys2Proof

set_option Elab.async false

variable {α : Type}

/-! ## Look-up after a change, of any list -/

theorem findKey?_eraseKey_self (k : Nat) (m : List (Nat × α)) : findKey? k (eraseKey k m) = none := by
  induction m with
  | nil => rfl
  | cons e t ih =>
    obtain ⟨j, u⟩ := e
    by_cases h : j = k <;> simp [eraseKey, findKey?, h, ih]

theorem findKey?_eraseKey_of_ne {j k : Nat} (h : j ≠ k) (m : List (Nat × α)) :
    findKey? j (eraseKey k m) = findKey? j m := by
  induction m with
  | nil => rfl
  | cons e t ih =>
    obtain ⟨i, u⟩ := e
    by_cases hi : i = k
    · simp [eraseKey, findKey?, hi, ih, Ne.symm h]
    · simp [eraseKey, findKey?, hi, ih]

theorem findKey?_insertKey_of_ne {j k : Nat} (h : j ≠ k) (v : α) (m : List (Nat × α)) :
    findKey? j (insertKey k v m) = findKey? j m := by
  induction m with
  | nil => simp [insertKey, findKey?, Ne.symm h]
  | cons e t ih =>
    obtain ⟨i, u⟩ := e
    by_cases hk : k < i
    · simp [insertKey, findKey?, hk, Ne.symm h]
    · simp [insertKey, findKey?, hk, ih]

theorem findKey?_insertKey_erased (k : Nat) (v : α) (m : List (Nat × α)) :
    findKey? k (insertKey k v (eraseKey k m)) = some v := by
  induction m with
  | nil => simp [eraseKey, insertKey, findKey?]
  | cons e t ih =>
    obtain ⟨i, u⟩ := e
    by_cases hi : i = k
    · simpa [eraseKey, hi] using ih
    · by_cases hk : k < i
      · simp [eraseKey, hi, insertKey, hk, findKey?]
      · simpa [eraseKey, hi, insertKey, hk, findKey?] using ih

/-! ## Sparse tables -/

section
variable [DecidableEq α]

@[simp] theorem Sparse.get_set_self (d : α) (m : Sparse α) (k : Nat) (v : α) :
    Sparse.get d (Sparse.set d m k v) k = v := by
  unfold Sparse.set Sparse.get
  split
  · simp_all [findKey?_eraseKey_self]
  · simp [findKey?_insertKey_erased]

theorem Sparse.get_set_of_ne {j k : Nat} (h : j ≠ k) (d : α) (m : Sparse α) (v : α) :
    Sparse.get d (Sparse.set d m k v) j = Sparse.get d m j := by
  unfold Sparse.set Sparse.get
  split
  · rw [findKey?_eraseKey_of_ne h]
  · rw [findKey?_insertKey_of_ne h, findKey?_eraseKey_of_ne h]

theorem Sparse.get_set (d : α) (m : Sparse α) (j k : Nat) (v : α) :
    Sparse.get d (Sparse.set d m k v) j = if j = k then v else Sparse.get d m j := by
  by_cases h : j = k
  · simp [h]
  · simp [h, Sparse.get_set_of_ne h]

/-- Writing consecutive keys: a key in the range has its value, any other is as before. -/
theorem Sparse.get_setList (d : α) (vs : List α) (m : Sparse α) (k j : Nat) :
    Sparse.get d (Sparse.setList d m k vs) j =
      if h : k ≤ j ∧ j < k + vs.length then vs[j - k]'(by omega) else Sparse.get d m j := by
  induction vs generalizing m k with
  | nil =>
    simp only [Sparse.setList, List.length_nil]
    split
    · omega
    · rfl
  | cons v vs ih =>
    simp only [Sparse.setList]
    rw [ih]
    by_cases h1 : k + 1 ≤ j ∧ j < k + 1 + vs.length
    · have h2 : k ≤ j ∧ j < k + (v :: vs).length := by simp; omega
      rw [dif_pos h1, dif_pos h2, List.getElem_cons, dif_neg (by omega)]
      congr 1
    · rw [dif_neg h1, Sparse.get_set]
      by_cases h3 : j = k
      · subst h3
        simp
      · rw [if_neg h3, dif_neg]
        simp only [List.length_cons]
        omega

omit [DecidableEq α] in
@[simp] theorem Sparse.get_nil (d : α) (k : Nat) : Sparse.get d ([] : Sparse α) k = d := rfl

/-! ## The canonical form -/

/-- Every key of the list is above `b`. -/
def keysAbove (b : Nat) (m : List (Nat × α)) : Prop := ∀ e ∈ m, b < e.1

omit [DecidableEq α] in
theorem sortedKeys_cons (e : Nat × α) (t : List (Nat × α)) :
    sortedKeys (e :: t) = true ↔ keysAbove e.1 t ∧ sortedKeys t = true := by
  induction t generalizing e with
  | nil => simp [sortedKeys, keysAbove]
  | cons f u ih =>
    obtain ⟨j, x⟩ := e
    obtain ⟨k, y⟩ := f
    simp only [sortedKeys, Bool.and_eq_true, decide_eq_true_eq, keysAbove, List.mem_cons, forall_eq_or_imp]
    constructor
    · rintro ⟨h, hs⟩
      refine ⟨⟨h, fun e he => ?_⟩, hs⟩
      exact Nat.lt_trans h ((ih (k, y)).1 hs |>.1 e he)
    · rintro ⟨⟨h, _⟩, hs⟩
      exact ⟨h, hs⟩

omit [DecidableEq α] in
theorem mem_eraseKey {k : Nat} {e : Nat × α} {m : List (Nat × α)} (h : e ∈ eraseKey k m) : e ∈ m ∧ e.1 ≠ k := by
  induction m with
  | nil => simp [eraseKey] at h
  | cons f t ih =>
    obtain ⟨j, u⟩ := f
    by_cases hj : j = k
    · rw [eraseKey, if_pos hj] at h
      exact ⟨List.mem_cons_of_mem _ (ih h).1, (ih h).2⟩
    · rw [eraseKey, if_neg hj] at h
      rcases List.mem_cons.1 h with rfl | h
      · exact ⟨List.mem_cons_self, hj⟩
      · exact ⟨List.mem_cons_of_mem _ (ih h).1, (ih h).2⟩

omit [DecidableEq α] in
theorem sortedKeys_eraseKey (k : Nat) (m : List (Nat × α)) (h : sortedKeys m = true) : sortedKeys (eraseKey k m) = true := by
  induction m with
  | nil => rfl
  | cons f t ih =>
    obtain ⟨j, u⟩ := f
    have hs := (sortedKeys_cons _ _).1 h
    by_cases hj : j = k
    · simpa [eraseKey, hj] using ih hs.2
    · rw [eraseKey, if_neg hj, sortedKeys_cons]
      exact ⟨fun e he => hs.1 e (mem_eraseKey he).1, ih hs.2⟩

omit [DecidableEq α] in
theorem mem_insertKey {k : Nat} {v : α} {e : Nat × α} {m : List (Nat × α)} (h : e ∈ insertKey k v m) :
    e = (k, v) ∨ e ∈ m := by
  induction m with
  | nil => simpa [insertKey] using h
  | cons f t ih =>
    obtain ⟨j, u⟩ := f
    by_cases hk : k < j
    · rw [insertKey, if_pos hk] at h
      exact List.mem_cons.1 h
    · rw [insertKey, if_neg hk] at h
      rcases List.mem_cons.1 h with rfl | h
      · exact Or.inr List.mem_cons_self
      · exact (ih h).imp id (List.mem_cons_of_mem _)

omit [DecidableEq α] in
theorem sortedKeys_insertKey (k : Nat) (v : α) (m : List (Nat × α)) (h : sortedKeys m = true)
    (hk : ∀ e ∈ m, e.1 ≠ k) : sortedKeys (insertKey k v m) = true := by
  induction m with
  | nil => rfl
  | cons f t ih =>
    obtain ⟨j, u⟩ := f
    have hs := (sortedKeys_cons _ _).1 h
    by_cases hj : k < j
    · rw [insertKey, if_pos hj, sortedKeys_cons]
      refine ⟨fun e he => ?_, h⟩
      rcases List.mem_cons.1 he with rfl | he
      · exact hj
      · exact Nat.lt_trans hj (hs.1 e he)
    · have hjk : j ≠ k := hk (j, u) List.mem_cons_self
      rw [insertKey, if_neg hj, sortedKeys_cons]
      refine ⟨fun e he => ?_, ih hs.2 fun e he => hk e (List.mem_cons_of_mem _ he)⟩
      rcases mem_insertKey he with rfl | he
      · show j < k
        omega
      · exact hs.1 e he

theorem Sparse.wf_nil (d : α) : Sparse.wf d ([] : Sparse α) = true := rfl

/-- A write keeps the canonical form. -/
theorem Sparse.wf_set (d : α) (m : Sparse α) (k : Nat) (v : α) (h : Sparse.wf d m = true) :
    Sparse.wf d (Sparse.set d m k v) = true := by
  simp only [Sparse.wf, Bool.and_eq_true, List.all_eq_true, decide_eq_true_eq] at h ⊢
  unfold Sparse.set
  split
  · exact ⟨sortedKeys_eraseKey _ _ h.1, fun e he => h.2 e (mem_eraseKey he).1⟩
  · rename_i hv
    refine ⟨sortedKeys_insertKey _ _ _ (sortedKeys_eraseKey _ _ h.1) fun e he => (mem_eraseKey he).2, fun e he => ?_⟩
    rcases mem_insertKey he with rfl | he
    · exact hv
    · exact h.2 e (mem_eraseKey he).1

theorem Sparse.wf_setList (d : α) (vs : List α) (m : Sparse α) (k : Nat) (h : Sparse.wf d m = true) :
    Sparse.wf d (Sparse.setList d m k vs) = true := by
  induction vs generalizing m k with
  | nil => exact h
  | cons v vs ih => exact ih _ _ (Sparse.wf_set _ _ _ _ h)

end

/-! ## Tables of records -/

@[simp] theorem Tbl.get?_put_self (t : Tbl α) (k : Nat) (v : α) : (t.put k v).get? k = some v :=
  findKey?_insertKey_erased k v t

theorem Tbl.get?_put_of_ne {j k : Nat} (h : j ≠ k) (t : Tbl α) (v : α) : (t.put k v).get? j = t.get? j := by
  simp [Tbl.get?, Tbl.put, findKey?_insertKey_of_ne h, findKey?_eraseKey_of_ne h]

theorem Tbl.get?_put (t : Tbl α) (j k : Nat) (v : α) : (t.put k v).get? j = if j = k then some v else t.get? j := by
  by_cases h : j = k
  · simp [h]
  · simp [h, Tbl.get?_put_of_ne h]

@[simp] theorem Tbl.get?_erase_self (t : Tbl α) (k : Nat) : (t.erase k).get? k = none := findKey?_eraseKey_self k t

theorem Tbl.get?_erase_of_ne {j k : Nat} (h : j ≠ k) (t : Tbl α) : (t.erase k).get? j = t.get? j :=
  findKey?_eraseKey_of_ne h t

theorem Tbl.get?_upd (t : Tbl α) (j k : Nat) (f : α → α) :
    (t.upd k f).get? j = if j = k then (t.get? j).map f else t.get? j := by
  induction t with
  | nil => simp [Tbl.upd, Tbl.get?, findKey?]
  | cons e t ih =>
    obtain ⟨i, u⟩ := e
    simp only [Tbl.upd, Tbl.get?, List.map_cons] at ih ⊢
    by_cases hi : i = k
    · by_cases hj : i = j
      · subst hi; subst hj; simp [findKey?]
      · simp only [hi, if_true, findKey?]
        rw [hi] at hj
        rw [if_neg hj, if_neg hj, ih]
    · by_cases hj : i = j
      · subst hj; simp [findKey?, hi]
      · simp only [hi, if_false, findKey?, if_neg hj, ih]

theorem Tbl.get?_mapVals (t : Tbl α) (f : Nat → α → α) (j : Nat) :
    (t.mapVals f).get? j = (t.get? j).map (f j) := by
  induction t with
  | nil => rfl
  | cons e t ih =>
    obtain ⟨i, u⟩ := e
    simp only [Tbl.mapVals, Tbl.get?, List.map_cons, findKey?] at ih ⊢
    by_cases hj : i = j
    · subst hj; simp
    · simp [hj, ih]

end Sys2Proof
end

