-- ==== Sys2Proof/Laws/State.lean ====
section
/-! SUPPORT. What each field of the state is after each update of a record: one lemma per field per update, so that no
proof unfolds a record update; and what looking a record up answers after an update. -/

namespace Sys2Proof.Machine

set_option Elab.async false

/-! `State.setWarp` -/

@[simp] theorem State.setWarp_mem (s : State) (wid : Nat) (w : Warp) : (s.setWarp wid w).mem = s.mem := rfl
@[simp] theorem State.setWarp_bad (s : State) (wid : Nat) (w : Warp) : (s.setWarp wid w).bad = s.bad := rfl
@[simp] theorem State.setWarp_vague (s : State) (wid : Nat) (w : Warp) : (s.setWarp wid w).vague = s.vague := rfl
@[simp] theorem State.setWarp_warps (s : State) (wid : Nat) (w : Warp) : (s.setWarp wid w).warps = s.warps.put wid w := rfl
@[simp] theorem State.setWarp_blocks (s : State) (wid : Nat) (w : Warp) : (s.setWarp wid w).blocks = s.blocks := rfl
@[simp] theorem State.setWarp_gangs (s : State) (wid : Nat) (w : Warp) : (s.setWarp wid w).gangs = s.gangs := rfl
@[simp] theorem State.setWarp_contexts (s : State) (wid : Nat) (w : Warp) : (s.setWarp wid w).contexts = s.contexts := rfl
@[simp] theorem State.setWarp_cores (s : State) (wid : Nat) (w : Warp) : (s.setWarp wid w).cores = s.cores := rfl
@[simp] theorem State.setWarp_dies (s : State) (wid : Nat) (w : Warp) : (s.setWarp wid w).dies = s.dies := rfl
@[simp] theorem State.setWarp_cmds (s : State) (wid : Nat) (w : Warp) : (s.setWarp wid w).cmds = s.cmds := rfl
@[simp] theorem State.setWarp_runs (s : State) (wid : Nat) (w : Warp) : (s.setWarp wid w).runs = s.runs := rfl
@[simp] theorem State.setWarp_time (s : State) (wid : Nat) (w : Warp) : (s.setWarp wid w).time = s.time := rfl
@[simp] theorem State.setWarp_ready (s : State) (wid : Nat) (w : Warp) : (s.setWarp wid w).ready = s.ready := rfl
@[simp] theorem State.setWarp_b2base (s : State) (wid : Nat) (w : Warp) : (s.setWarp wid w).b2base = s.b2base := rfl
@[simp] theorem State.setWarp_rben (s : State) (wid : Nat) (w : Warp) : (s.setWarp wid w).rben = s.rben := rfl
@[simp] theorem State.setWarp_bar2log (s : State) (wid : Nat) (w : Warp) : (s.setWarp wid w).bar2log = s.bar2log := rfl
@[simp] theorem State.setWarp_powerLimit (s : State) (wid : Nat) (w : Warp) : (s.setWarp wid w).powerLimit = s.powerLimit := rfl
@[simp] theorem State.setWarp_uevt (s : State) (wid : Nat) (w : Warp) : (s.setWarp wid w).uevt = s.uevt := rfl
@[simp] theorem State.setWarp_i3c (s : State) (wid : Nat) (w : Warp) : (s.setWarp wid w).i3c = s.i3c := rfl
@[simp] theorem State.setWarp_powerEst (s : State) (wid : Nat) (w : Warp) : (s.setWarp wid w).powerEst = s.powerEst := rfl
@[simp] theorem State.setWarp_temperature (s : State) (wid : Nat) (w : Warp) : (s.setWarp wid w).temperature = s.temperature := rfl
@[simp] theorem State.setWarp_held (s : State) (wid : Nat) (w : Warp) : (s.setWarp wid w).held = s.held := rfl
@[simp] theorem State.setWarp_clusterLevel (s : State) (wid : Nat) (w : Warp) : (s.setWarp wid w).clusterLevel = s.clusterLevel := rfl
@[simp] theorem State.setWarp_lowered (s : State) (wid : Nat) (w : Warp) : (s.setWarp wid w).lowered = s.lowered := rfl
@[simp] theorem State.setWarp_lowerLog (s : State) (wid : Nat) (w : Warp) : (s.setWarp wid w).lowerLog = s.lowerLog := rfl
@[simp] theorem State.setWarp_linkUp (s : State) (wid : Nat) (w : Warp) : (s.setWarp wid w).linkUp = s.linkUp := rfl
@[simp] theorem State.setWarp_drivesUp (s : State) (wid : Nat) (w : Warp) : (s.setWarp wid w).drivesUp = s.drivesUp := rfl
@[simp] theorem State.setWarp_bringup (s : State) (wid : Nat) (w : Warp) : (s.setWarp wid w).bringup = s.bringup := rfl
@[simp] theorem State.setWarp_outbox (s : State) (wid : Nat) (w : Warp) : (s.setWarp wid w).outbox = s.outbox := rfl
@[simp] theorem State.setWarp_fresh (s : State) (wid : Nat) (w : Warp) : (s.setWarp wid w).fresh = s.fresh := rfl
@[simp] theorem State.setWarp_agenda (s : State) (wid : Nat) (w : Warp) : (s.setWarp wid w).agenda = s.agenda := rfl
@[simp] theorem State.setWarp_ticks (s : State) (wid : Nat) (w : Warp) : (s.setWarp wid w).ticks = s.ticks := rfl
@[simp] theorem State.setWarp_focus (s : State) (wid : Nat) (w : Warp) : (s.setWarp wid w).focus = s.focus := rfl
@[simp] theorem State.setWarp_nextId (s : State) (wid : Nat) (w : Warp) : (s.setWarp wid w).nextId = s.nextId := rfl

/-! `State.updWarp` -/

@[simp] theorem State.updWarp_mem (s : State) (wid : Nat) (f : Warp → Warp) : (s.updWarp wid f).mem = s.mem := rfl
@[simp] theorem State.updWarp_bad (s : State) (wid : Nat) (f : Warp → Warp) : (s.updWarp wid f).bad = s.bad := rfl
@[simp] theorem State.updWarp_vague (s : State) (wid : Nat) (f : Warp → Warp) : (s.updWarp wid f).vague = s.vague := rfl
@[simp] theorem State.updWarp_warps (s : State) (wid : Nat) (f : Warp → Warp) : (s.updWarp wid f).warps = s.warps.upd wid f := rfl
@[simp] theorem State.updWarp_blocks (s : State) (wid : Nat) (f : Warp → Warp) : (s.updWarp wid f).blocks = s.blocks := rfl
@[simp] theorem State.updWarp_gangs (s : State) (wid : Nat) (f : Warp → Warp) : (s.updWarp wid f).gangs = s.gangs := rfl
@[simp] theorem State.updWarp_contexts (s : State) (wid : Nat) (f : Warp → Warp) : (s.updWarp wid f).contexts = s.contexts := rfl
@[simp] theorem State.updWarp_cores (s : State) (wid : Nat) (f : Warp → Warp) : (s.updWarp wid f).cores = s.cores := rfl
@[simp] theorem State.updWarp_dies (s : State) (wid : Nat) (f : Warp → Warp) : (s.updWarp wid f).dies = s.dies := rfl
@[simp] theorem State.updWarp_cmds (s : State) (wid : Nat) (f : Warp → Warp) : (s.updWarp wid f).cmds = s.cmds := rfl
@[simp] theorem State.updWarp_runs (s : State) (wid : Nat) (f : Warp → Warp) : (s.updWarp wid f).runs = s.runs := rfl
@[simp] theorem State.updWarp_time (s : State) (wid : Nat) (f : Warp → Warp) : (s.updWarp wid f).time = s.time := rfl
@[simp] theorem State.updWarp_ready (s : State) (wid : Nat) (f : Warp → Warp) : (s.updWarp wid f).ready = s.ready := rfl
@[simp] theorem State.updWarp_b2base (s : State) (wid : Nat) (f : Warp → Warp) : (s.updWarp wid f).b2base = s.b2base := rfl
@[simp] theorem State.updWarp_rben (s : State) (wid : Nat) (f : Warp → Warp) : (s.updWarp wid f).rben = s.rben := rfl
@[simp] theorem State.updWarp_bar2log (s : State) (wid : Nat) (f : Warp → Warp) : (s.updWarp wid f).bar2log = s.bar2log := rfl
@[simp] theorem State.updWarp_powerLimit (s : State) (wid : Nat) (f : Warp → Warp) : (s.updWarp wid f).powerLimit = s.powerLimit := rfl
@[simp] theorem State.updWarp_uevt (s : State) (wid : Nat) (f : Warp → Warp) : (s.updWarp wid f).uevt = s.uevt := rfl
@[simp] theorem State.updWarp_i3c (s : State) (wid : Nat) (f : Warp → Warp) : (s.updWarp wid f).i3c = s.i3c := rfl
@[simp] theorem State.updWarp_powerEst (s : State) (wid : Nat) (f : Warp → Warp) : (s.updWarp wid f).powerEst = s.powerEst := rfl
@[simp] theorem State.updWarp_temperature (s : State) (wid : Nat) (f : Warp → Warp) : (s.updWarp wid f).temperature = s.temperature := rfl
@[simp] theorem State.updWarp_held (s : State) (wid : Nat) (f : Warp → Warp) : (s.updWarp wid f).held = s.held := rfl
@[simp] theorem State.updWarp_clusterLevel (s : State) (wid : Nat) (f : Warp → Warp) : (s.updWarp wid f).clusterLevel = s.clusterLevel := rfl
@[simp] theorem State.updWarp_lowered (s : State) (wid : Nat) (f : Warp → Warp) : (s.updWarp wid f).lowered = s.lowered := rfl
@[simp] theorem State.updWarp_lowerLog (s : State) (wid : Nat) (f : Warp → Warp) : (s.updWarp wid f).lowerLog = s.lowerLog := rfl
@[simp] theorem State.updWarp_linkUp (s : State) (wid : Nat) (f : Warp → Warp) : (s.updWarp wid f).linkUp = s.linkUp := rfl
@[simp] theorem State.updWarp_drivesUp (s : State) (wid : Nat) (f : Warp → Warp) : (s.updWarp wid f).drivesUp = s.drivesUp := rfl
@[simp] theorem State.updWarp_bringup (s : State) (wid : Nat) (f : Warp → Warp) : (s.updWarp wid f).bringup = s.bringup := rfl
@[simp] theorem State.updWarp_outbox (s : State) (wid : Nat) (f : Warp → Warp) : (s.updWarp wid f).outbox = s.outbox := rfl
@[simp] theorem State.updWarp_fresh (s : State) (wid : Nat) (f : Warp → Warp) : (s.updWarp wid f).fresh = s.fresh := rfl
@[simp] theorem State.updWarp_agenda (s : State) (wid : Nat) (f : Warp → Warp) : (s.updWarp wid f).agenda = s.agenda := rfl
@[simp] theorem State.updWarp_ticks (s : State) (wid : Nat) (f : Warp → Warp) : (s.updWarp wid f).ticks = s.ticks := rfl
@[simp] theorem State.updWarp_focus (s : State) (wid : Nat) (f : Warp → Warp) : (s.updWarp wid f).focus = s.focus := rfl
@[simp] theorem State.updWarp_nextId (s : State) (wid : Nat) (f : Warp → Warp) : (s.updWarp wid f).nextId = s.nextId := rfl

/-! `State.setSelf` -/

@[simp] theorem State.setSelf_mem (s : State) (w : Warp) : (s.setSelf w).mem = s.mem := rfl
@[simp] theorem State.setSelf_bad (s : State) (w : Warp) : (s.setSelf w).bad = s.bad := rfl
@[simp] theorem State.setSelf_vague (s : State) (w : Warp) : (s.setSelf w).vague = s.vague := rfl
@[simp] theorem State.setSelf_warps (s : State) (w : Warp) : (s.setSelf w).warps = s.warps.put s.focus.wid w := rfl
@[simp] theorem State.setSelf_blocks (s : State) (w : Warp) : (s.setSelf w).blocks = s.blocks := rfl
@[simp] theorem State.setSelf_gangs (s : State) (w : Warp) : (s.setSelf w).gangs = s.gangs := rfl
@[simp] theorem State.setSelf_contexts (s : State) (w : Warp) : (s.setSelf w).contexts = s.contexts := rfl
@[simp] theorem State.setSelf_cores (s : State) (w : Warp) : (s.setSelf w).cores = s.cores := rfl
@[simp] theorem State.setSelf_dies (s : State) (w : Warp) : (s.setSelf w).dies = s.dies := rfl
@[simp] theorem State.setSelf_cmds (s : State) (w : Warp) : (s.setSelf w).cmds = s.cmds := rfl
@[simp] theorem State.setSelf_runs (s : State) (w : Warp) : (s.setSelf w).runs = s.runs := rfl
@[simp] theorem State.setSelf_time (s : State) (w : Warp) : (s.setSelf w).time = s.time := rfl
@[simp] theorem State.setSelf_ready (s : State) (w : Warp) : (s.setSelf w).ready = s.ready := rfl
@[simp] theorem State.setSelf_b2base (s : State) (w : Warp) : (s.setSelf w).b2base = s.b2base := rfl
@[simp] theorem State.setSelf_rben (s : State) (w : Warp) : (s.setSelf w).rben = s.rben := rfl
@[simp] theorem State.setSelf_bar2log (s : State) (w : Warp) : (s.setSelf w).bar2log = s.bar2log := rfl
@[simp] theorem State.setSelf_powerLimit (s : State) (w : Warp) : (s.setSelf w).powerLimit = s.powerLimit := rfl
@[simp] theorem State.setSelf_uevt (s : State) (w : Warp) : (s.setSelf w).uevt = s.uevt := rfl
@[simp] theorem State.setSelf_i3c (s : State) (w : Warp) : (s.setSelf w).i3c = s.i3c := rfl
@[simp] theorem State.setSelf_powerEst (s : State) (w : Warp) : (s.setSelf w).powerEst = s.powerEst := rfl
@[simp] theorem State.setSelf_temperature (s : State) (w : Warp) : (s.setSelf w).temperature = s.temperature := rfl
@[simp] theorem State.setSelf_held (s : State) (w : Warp) : (s.setSelf w).held = s.held := rfl
@[simp] theorem State.setSelf_clusterLevel (s : State) (w : Warp) : (s.setSelf w).clusterLevel = s.clusterLevel := rfl
@[simp] theorem State.setSelf_lowered (s : State) (w : Warp) : (s.setSelf w).lowered = s.lowered := rfl
@[simp] theorem State.setSelf_lowerLog (s : State) (w : Warp) : (s.setSelf w).lowerLog = s.lowerLog := rfl
@[simp] theorem State.setSelf_linkUp (s : State) (w : Warp) : (s.setSelf w).linkUp = s.linkUp := rfl
@[simp] theorem State.setSelf_drivesUp (s : State) (w : Warp) : (s.setSelf w).drivesUp = s.drivesUp := rfl
@[simp] theorem State.setSelf_bringup (s : State) (w : Warp) : (s.setSelf w).bringup = s.bringup := rfl
@[simp] theorem State.setSelf_outbox (s : State) (w : Warp) : (s.setSelf w).outbox = s.outbox := rfl
@[simp] theorem State.setSelf_fresh (s : State) (w : Warp) : (s.setSelf w).fresh = s.fresh := rfl
@[simp] theorem State.setSelf_agenda (s : State) (w : Warp) : (s.setSelf w).agenda = s.agenda := rfl
@[simp] theorem State.setSelf_ticks (s : State) (w : Warp) : (s.setSelf w).ticks = s.ticks := rfl
@[simp] theorem State.setSelf_focus (s : State) (w : Warp) : (s.setSelf w).focus = s.focus := rfl
@[simp] theorem State.setSelf_nextId (s : State) (w : Warp) : (s.setSelf w).nextId = s.nextId := rfl

/-! `State.setFocus` -/

@[simp] theorem State.setFocus_mem (s : State) (r : Run) : (s.setFocus r).mem = s.mem := rfl
@[simp] theorem State.setFocus_bad (s : State) (r : Run) : (s.setFocus r).bad = s.bad := rfl
@[simp] theorem State.setFocus_vague (s : State) (r : Run) : (s.setFocus r).vague = s.vague := rfl
@[simp] theorem State.setFocus_warps (s : State) (r : Run) : (s.setFocus r).warps = s.warps := rfl
@[simp] theorem State.setFocus_blocks (s : State) (r : Run) : (s.setFocus r).blocks = s.blocks := rfl
@[simp] theorem State.setFocus_gangs (s : State) (r : Run) : (s.setFocus r).gangs = s.gangs := rfl
@[simp] theorem State.setFocus_contexts (s : State) (r : Run) : (s.setFocus r).contexts = s.contexts := rfl
@[simp] theorem State.setFocus_cores (s : State) (r : Run) : (s.setFocus r).cores = s.cores := rfl
@[simp] theorem State.setFocus_dies (s : State) (r : Run) : (s.setFocus r).dies = s.dies := rfl
@[simp] theorem State.setFocus_cmds (s : State) (r : Run) : (s.setFocus r).cmds = s.cmds := rfl
@[simp] theorem State.setFocus_runs (s : State) (r : Run) : (s.setFocus r).runs = s.runs := rfl
@[simp] theorem State.setFocus_time (s : State) (r : Run) : (s.setFocus r).time = s.time := rfl
@[simp] theorem State.setFocus_ready (s : State) (r : Run) : (s.setFocus r).ready = s.ready := rfl
@[simp] theorem State.setFocus_b2base (s : State) (r : Run) : (s.setFocus r).b2base = s.b2base := rfl
@[simp] theorem State.setFocus_rben (s : State) (r : Run) : (s.setFocus r).rben = s.rben := rfl
@[simp] theorem State.setFocus_bar2log (s : State) (r : Run) : (s.setFocus r).bar2log = s.bar2log := rfl
@[simp] theorem State.setFocus_powerLimit (s : State) (r : Run) : (s.setFocus r).powerLimit = s.powerLimit := rfl
@[simp] theorem State.setFocus_uevt (s : State) (r : Run) : (s.setFocus r).uevt = s.uevt := rfl
@[simp] theorem State.setFocus_i3c (s : State) (r : Run) : (s.setFocus r).i3c = s.i3c := rfl
@[simp] theorem State.setFocus_powerEst (s : State) (r : Run) : (s.setFocus r).powerEst = s.powerEst := rfl
@[simp] theorem State.setFocus_temperature (s : State) (r : Run) : (s.setFocus r).temperature = s.temperature := rfl
@[simp] theorem State.setFocus_held (s : State) (r : Run) : (s.setFocus r).held = s.held := rfl
@[simp] theorem State.setFocus_clusterLevel (s : State) (r : Run) : (s.setFocus r).clusterLevel = s.clusterLevel := rfl
@[simp] theorem State.setFocus_lowered (s : State) (r : Run) : (s.setFocus r).lowered = s.lowered := rfl
@[simp] theorem State.setFocus_lowerLog (s : State) (r : Run) : (s.setFocus r).lowerLog = s.lowerLog := rfl
@[simp] theorem State.setFocus_linkUp (s : State) (r : Run) : (s.setFocus r).linkUp = s.linkUp := rfl
@[simp] theorem State.setFocus_drivesUp (s : State) (r : Run) : (s.setFocus r).drivesUp = s.drivesUp := rfl
@[simp] theorem State.setFocus_bringup (s : State) (r : Run) : (s.setFocus r).bringup = s.bringup := rfl
@[simp] theorem State.setFocus_outbox (s : State) (r : Run) : (s.setFocus r).outbox = s.outbox := rfl
@[simp] theorem State.setFocus_fresh (s : State) (r : Run) : (s.setFocus r).fresh = s.fresh := rfl
@[simp] theorem State.setFocus_agenda (s : State) (r : Run) : (s.setFocus r).agenda = s.agenda := rfl
@[simp] theorem State.setFocus_ticks (s : State) (r : Run) : (s.setFocus r).ticks = s.ticks := rfl
@[simp] theorem State.setFocus_focus (s : State) (r : Run) : (s.setFocus r).focus = r := rfl
@[simp] theorem State.setFocus_nextId (s : State) (r : Run) : (s.setFocus r).nextId = s.nextId := rfl

/-! `State.updCtx` -/

@[simp] theorem State.updCtx_mem (s : State) (cid : Nat) (f : Context → Context) : (s.updCtx cid f).mem = s.mem := rfl
@[simp] theorem State.updCtx_bad (s : State) (cid : Nat) (f : Context → Context) : (s.updCtx cid f).bad = s.bad := rfl
@[simp] theorem State.updCtx_vague (s : State) (cid : Nat) (f : Context → Context) : (s.updCtx cid f).vague = s.vague := rfl
@[simp] theorem State.updCtx_warps (s : State) (cid : Nat) (f : Context → Context) : (s.updCtx cid f).warps = s.warps := rfl
@[simp] theorem State.updCtx_blocks (s : State) (cid : Nat) (f : Context → Context) : (s.updCtx cid f).blocks = s.blocks := rfl
@[simp] theorem State.updCtx_gangs (s : State) (cid : Nat) (f : Context → Context) : (s.updCtx cid f).gangs = s.gangs := rfl
@[simp] theorem State.updCtx_contexts (s : State) (cid : Nat) (f : Context → Context) : (s.updCtx cid f).contexts = s.contexts.put cid (f (s.ctx cid)) := rfl
@[simp] theorem State.updCtx_cores (s : State) (cid : Nat) (f : Context → Context) : (s.updCtx cid f).cores = s.cores := rfl
@[simp] theorem State.updCtx_dies (s : State) (cid : Nat) (f : Context → Context) : (s.updCtx cid f).dies = s.dies := rfl
@[simp] theorem State.updCtx_cmds (s : State) (cid : Nat) (f : Context → Context) : (s.updCtx cid f).cmds = s.cmds := rfl
@[simp] theorem State.updCtx_runs (s : State) (cid : Nat) (f : Context → Context) : (s.updCtx cid f).runs = s.runs := rfl
@[simp] theorem State.updCtx_time (s : State) (cid : Nat) (f : Context → Context) : (s.updCtx cid f).time = s.time := rfl
@[simp] theorem State.updCtx_ready (s : State) (cid : Nat) (f : Context → Context) : (s.updCtx cid f).ready = s.ready := rfl
@[simp] theorem State.updCtx_b2base (s : State) (cid : Nat) (f : Context → Context) : (s.updCtx cid f).b2base = s.b2base := rfl
@[simp] theorem State.updCtx_rben (s : State) (cid : Nat) (f : Context → Context) : (s.updCtx cid f).rben = s.rben := rfl
@[simp] theorem State.updCtx_bar2log (s : State) (cid : Nat) (f : Context → Context) : (s.updCtx cid f).bar2log = s.bar2log := rfl
@[simp] theorem State.updCtx_powerLimit (s : State) (cid : Nat) (f : Context → Context) : (s.updCtx cid f).powerLimit = s.powerLimit := rfl
@[simp] theorem State.updCtx_uevt (s : State) (cid : Nat) (f : Context → Context) : (s.updCtx cid f).uevt = s.uevt := rfl
@[simp] theorem State.updCtx_i3c (s : State) (cid : Nat) (f : Context → Context) : (s.updCtx cid f).i3c = s.i3c := rfl
@[simp] theorem State.updCtx_powerEst (s : State) (cid : Nat) (f : Context → Context) : (s.updCtx cid f).powerEst = s.powerEst := rfl
@[simp] theorem State.updCtx_temperature (s : State) (cid : Nat) (f : Context → Context) : (s.updCtx cid f).temperature = s.temperature := rfl
@[simp] theorem State.updCtx_held (s : State) (cid : Nat) (f : Context → Context) : (s.updCtx cid f).held = s.held := rfl
@[simp] theorem State.updCtx_clusterLevel (s : State) (cid : Nat) (f : Context → Context) : (s.updCtx cid f).clusterLevel = s.clusterLevel := rfl
@[simp] theorem State.updCtx_lowered (s : State) (cid : Nat) (f : Context → Context) : (s.updCtx cid f).lowered = s.lowered := rfl
@[simp] theorem State.updCtx_lowerLog (s : State) (cid : Nat) (f : Context → Context) : (s.updCtx cid f).lowerLog = s.lowerLog := rfl
@[simp] theorem State.updCtx_linkUp (s : State) (cid : Nat) (f : Context → Context) : (s.updCtx cid f).linkUp = s.linkUp := rfl
@[simp] theorem State.updCtx_drivesUp (s : State) (cid : Nat) (f : Context → Context) : (s.updCtx cid f).drivesUp = s.drivesUp := rfl
@[simp] theorem State.updCtx_bringup (s : State) (cid : Nat) (f : Context → Context) : (s.updCtx cid f).bringup = s.bringup := rfl
@[simp] theorem State.updCtx_outbox (s : State) (cid : Nat) (f : Context → Context) : (s.updCtx cid f).outbox = s.outbox := rfl
@[simp] theorem State.updCtx_fresh (s : State) (cid : Nat) (f : Context → Context) : (s.updCtx cid f).fresh = s.fresh := rfl
@[simp] theorem State.updCtx_agenda (s : State) (cid : Nat) (f : Context → Context) : (s.updCtx cid f).agenda = s.agenda := rfl
@[simp] theorem State.updCtx_ticks (s : State) (cid : Nat) (f : Context → Context) : (s.updCtx cid f).ticks = s.ticks := rfl
@[simp] theorem State.updCtx_focus (s : State) (cid : Nat) (f : Context → Context) : (s.updCtx cid f).focus = s.focus := rfl
@[simp] theorem State.updCtx_nextId (s : State) (cid : Nat) (f : Context → Context) : (s.updCtx cid f).nextId = s.nextId := rfl

/-! `State.updCore` -/

@[simp] theorem State.updCore_mem (s : State) (c : Nat) (f : Core → Core) : (s.updCore c f).mem = s.mem := rfl
@[simp] theorem State.updCore_bad (s : State) (c : Nat) (f : Core → Core) : (s.updCore c f).bad = s.bad := rfl
@[simp] theorem State.updCore_vague (s : State) (c : Nat) (f : Core → Core) : (s.updCore c f).vague = s.vague := rfl
@[simp] theorem State.updCore_warps (s : State) (c : Nat) (f : Core → Core) : (s.updCore c f).warps = s.warps := rfl
@[simp] theorem State.updCore_blocks (s : State) (c : Nat) (f : Core → Core) : (s.updCore c f).blocks = s.blocks := rfl
@[simp] theorem State.updCore_gangs (s : State) (c : Nat) (f : Core → Core) : (s.updCore c f).gangs = s.gangs := rfl
@[simp] theorem State.updCore_contexts (s : State) (c : Nat) (f : Core → Core) : (s.updCore c f).contexts = s.contexts := rfl
@[simp] theorem State.updCore_cores (s : State) (c : Nat) (f : Core → Core) : (s.updCore c f).cores = s.cores.put c (f (s.core c)) := rfl
@[simp] theorem State.updCore_dies (s : State) (c : Nat) (f : Core → Core) : (s.updCore c f).dies = s.dies := rfl
@[simp] theorem State.updCore_cmds (s : State) (c : Nat) (f : Core → Core) : (s.updCore c f).cmds = s.cmds := rfl
@[simp] theorem State.updCore_runs (s : State) (c : Nat) (f : Core → Core) : (s.updCore c f).runs = s.runs := rfl
@[simp] theorem State.updCore_time (s : State) (c : Nat) (f : Core → Core) : (s.updCore c f).time = s.time := rfl
@[simp] theorem State.updCore_ready (s : State) (c : Nat) (f : Core → Core) : (s.updCore c f).ready = s.ready := rfl
@[simp] theorem State.updCore_b2base (s : State) (c : Nat) (f : Core → Core) : (s.updCore c f).b2base = s.b2base := rfl
@[simp] theorem State.updCore_rben (s : State) (c : Nat) (f : Core → Core) : (s.updCore c f).rben = s.rben := rfl
@[simp] theorem State.updCore_bar2log (s : State) (c : Nat) (f : Core → Core) : (s.updCore c f).bar2log = s.bar2log := rfl
@[simp] theorem State.updCore_powerLimit (s : State) (c : Nat) (f : Core → Core) : (s.updCore c f).powerLimit = s.powerLimit := rfl
@[simp] theorem State.updCore_uevt (s : State) (c : Nat) (f : Core → Core) : (s.updCore c f).uevt = s.uevt := rfl
@[simp] theorem State.updCore_i3c (s : State) (c : Nat) (f : Core → Core) : (s.updCore c f).i3c = s.i3c := rfl
@[simp] theorem State.updCore_powerEst (s : State) (c : Nat) (f : Core → Core) : (s.updCore c f).powerEst = s.powerEst := rfl
@[simp] theorem State.updCore_temperature (s : State) (c : Nat) (f : Core → Core) : (s.updCore c f).temperature = s.temperature := rfl
@[simp] theorem State.updCore_held (s : State) (c : Nat) (f : Core → Core) : (s.updCore c f).held = s.held := rfl
@[simp] theorem State.updCore_clusterLevel (s : State) (c : Nat) (f : Core → Core) : (s.updCore c f).clusterLevel = s.clusterLevel := rfl
@[simp] theorem State.updCore_lowered (s : State) (c : Nat) (f : Core → Core) : (s.updCore c f).lowered = s.lowered := rfl
@[simp] theorem State.updCore_lowerLog (s : State) (c : Nat) (f : Core → Core) : (s.updCore c f).lowerLog = s.lowerLog := rfl
@[simp] theorem State.updCore_linkUp (s : State) (c : Nat) (f : Core → Core) : (s.updCore c f).linkUp = s.linkUp := rfl
@[simp] theorem State.updCore_drivesUp (s : State) (c : Nat) (f : Core → Core) : (s.updCore c f).drivesUp = s.drivesUp := rfl
@[simp] theorem State.updCore_bringup (s : State) (c : Nat) (f : Core → Core) : (s.updCore c f).bringup = s.bringup := rfl
@[simp] theorem State.updCore_outbox (s : State) (c : Nat) (f : Core → Core) : (s.updCore c f).outbox = s.outbox := rfl
@[simp] theorem State.updCore_fresh (s : State) (c : Nat) (f : Core → Core) : (s.updCore c f).fresh = s.fresh := rfl
@[simp] theorem State.updCore_agenda (s : State) (c : Nat) (f : Core → Core) : (s.updCore c f).agenda = s.agenda := rfl
@[simp] theorem State.updCore_ticks (s : State) (c : Nat) (f : Core → Core) : (s.updCore c f).ticks = s.ticks := rfl
@[simp] theorem State.updCore_focus (s : State) (c : Nat) (f : Core → Core) : (s.updCore c f).focus = s.focus := rfl
@[simp] theorem State.updCore_nextId (s : State) (c : Nat) (f : Core → Core) : (s.updCore c f).nextId = s.nextId := rfl

/-! `State.updDie` -/

@[simp] theorem State.updDie_mem (s : State) (d : Nat) (f : Die → Die) : (s.updDie d f).mem = s.mem := rfl
@[simp] theorem State.updDie_bad (s : State) (d : Nat) (f : Die → Die) : (s.updDie d f).bad = s.bad := rfl
@[simp] theorem State.updDie_vague (s : State) (d : Nat) (f : Die → Die) : (s.updDie d f).vague = s.vague := rfl
@[simp] theorem State.updDie_warps (s : State) (d : Nat) (f : Die → Die) : (s.updDie d f).warps = s.warps := rfl
@[simp] theorem State.updDie_blocks (s : State) (d : Nat) (f : Die → Die) : (s.updDie d f).blocks = s.blocks := rfl
@[simp] theorem State.updDie_gangs (s : State) (d : Nat) (f : Die → Die) : (s.updDie d f).gangs = s.gangs := rfl
@[simp] theorem State.updDie_contexts (s : State) (d : Nat) (f : Die → Die) : (s.updDie d f).contexts = s.contexts := rfl
@[simp] theorem State.updDie_cores (s : State) (d : Nat) (f : Die → Die) : (s.updDie d f).cores = s.cores := rfl
@[simp] theorem State.updDie_dies (s : State) (d : Nat) (f : Die → Die) : (s.updDie d f).dies = s.dies.put d (f (s.die d)) := rfl
@[simp] theorem State.updDie_cmds (s : State) (d : Nat) (f : Die → Die) : (s.updDie d f).cmds = s.cmds := rfl
@[simp] theorem State.updDie_runs (s : State) (d : Nat) (f : Die → Die) : (s.updDie d f).runs = s.runs := rfl
@[simp] theorem State.updDie_time (s : State) (d : Nat) (f : Die → Die) : (s.updDie d f).time = s.time := rfl
@[simp] theorem State.updDie_ready (s : State) (d : Nat) (f : Die → Die) : (s.updDie d f).ready = s.ready := rfl
@[simp] theorem State.updDie_b2base (s : State) (d : Nat) (f : Die → Die) : (s.updDie d f).b2base = s.b2base := rfl
@[simp] theorem State.updDie_rben (s : State) (d : Nat) (f : Die → Die) : (s.updDie d f).rben = s.rben := rfl
@[simp] theorem State.updDie_bar2log (s : State) (d : Nat) (f : Die → Die) : (s.updDie d f).bar2log = s.bar2log := rfl
@[simp] theorem State.updDie_powerLimit (s : State) (d : Nat) (f : Die → Die) : (s.updDie d f).powerLimit = s.powerLimit := rfl
@[simp] theorem State.updDie_uevt (s : State) (d : Nat) (f : Die → Die) : (s.updDie d f).uevt = s.uevt := rfl
@[simp] theorem State.updDie_i3c (s : State) (d : Nat) (f : Die → Die) : (s.updDie d f).i3c = s.i3c := rfl
@[simp] theorem State.updDie_powerEst (s : State) (d : Nat) (f : Die → Die) : (s.updDie d f).powerEst = s.powerEst := rfl
@[simp] theorem State.updDie_temperature (s : State) (d : Nat) (f : Die → Die) : (s.updDie d f).temperature = s.temperature := rfl
@[simp] theorem State.updDie_held (s : State) (d : Nat) (f : Die → Die) : (s.updDie d f).held = s.held := rfl
@[simp] theorem State.updDie_clusterLevel (s : State) (d : Nat) (f : Die → Die) : (s.updDie d f).clusterLevel = s.clusterLevel := rfl
@[simp] theorem State.updDie_lowered (s : State) (d : Nat) (f : Die → Die) : (s.updDie d f).lowered = s.lowered := rfl
@[simp] theorem State.updDie_lowerLog (s : State) (d : Nat) (f : Die → Die) : (s.updDie d f).lowerLog = s.lowerLog := rfl
@[simp] theorem State.updDie_linkUp (s : State) (d : Nat) (f : Die → Die) : (s.updDie d f).linkUp = s.linkUp := rfl
@[simp] theorem State.updDie_drivesUp (s : State) (d : Nat) (f : Die → Die) : (s.updDie d f).drivesUp = s.drivesUp := rfl
@[simp] theorem State.updDie_bringup (s : State) (d : Nat) (f : Die → Die) : (s.updDie d f).bringup = s.bringup := rfl
@[simp] theorem State.updDie_outbox (s : State) (d : Nat) (f : Die → Die) : (s.updDie d f).outbox = s.outbox := rfl
@[simp] theorem State.updDie_fresh (s : State) (d : Nat) (f : Die → Die) : (s.updDie d f).fresh = s.fresh := rfl
@[simp] theorem State.updDie_agenda (s : State) (d : Nat) (f : Die → Die) : (s.updDie d f).agenda = s.agenda := rfl
@[simp] theorem State.updDie_ticks (s : State) (d : Nat) (f : Die → Die) : (s.updDie d f).ticks = s.ticks := rfl
@[simp] theorem State.updDie_focus (s : State) (d : Nat) (f : Die → Die) : (s.updDie d f).focus = s.focus := rfl
@[simp] theorem State.updDie_nextId (s : State) (d : Nat) (f : Die → Die) : (s.updDie d f).nextId = s.nextId := rfl

/-! `State.updBlock` -/

@[simp] theorem State.updBlock_mem (s : State) (b : Nat) (f : Block → Block) : (s.updBlock b f).mem = s.mem := rfl
@[simp] theorem State.updBlock_bad (s : State) (b : Nat) (f : Block → Block) : (s.updBlock b f).bad = s.bad := rfl
@[simp] theorem State.updBlock_vague (s : State) (b : Nat) (f : Block → Block) : (s.updBlock b f).vague = s.vague := rfl
@[simp] theorem State.updBlock_warps (s : State) (b : Nat) (f : Block → Block) : (s.updBlock b f).warps = s.warps := rfl
@[simp] theorem State.updBlock_blocks (s : State) (b : Nat) (f : Block → Block) : (s.updBlock b f).blocks = s.blocks.upd b f := rfl
@[simp] theorem State.updBlock_gangs (s : State) (b : Nat) (f : Block → Block) : (s.updBlock b f).gangs = s.gangs := rfl
@[simp] theorem State.updBlock_contexts (s : State) (b : Nat) (f : Block → Block) : (s.updBlock b f).contexts = s.contexts := rfl
@[simp] theorem State.updBlock_cores (s : State) (b : Nat) (f : Block → Block) : (s.updBlock b f).cores = s.cores := rfl
@[simp] theorem State.updBlock_dies (s : State) (b : Nat) (f : Block → Block) : (s.updBlock b f).dies = s.dies := rfl
@[simp] theorem State.updBlock_cmds (s : State) (b : Nat) (f : Block → Block) : (s.updBlock b f).cmds = s.cmds := rfl
@[simp] theorem State.updBlock_runs (s : State) (b : Nat) (f : Block → Block) : (s.updBlock b f).runs = s.runs := rfl
@[simp] theorem State.updBlock_time (s : State) (b : Nat) (f : Block → Block) : (s.updBlock b f).time = s.time := rfl
@[simp] theorem State.updBlock_ready (s : State) (b : Nat) (f : Block → Block) : (s.updBlock b f).ready = s.ready := rfl
@[simp] theorem State.updBlock_b2base (s : State) (b : Nat) (f : Block → Block) : (s.updBlock b f).b2base = s.b2base := rfl
@[simp] theorem State.updBlock_rben (s : State) (b : Nat) (f : Block → Block) : (s.updBlock b f).rben = s.rben := rfl
@[simp] theorem State.updBlock_bar2log (s : State) (b : Nat) (f : Block → Block) : (s.updBlock b f).bar2log = s.bar2log := rfl
@[simp] theorem State.updBlock_powerLimit (s : State) (b : Nat) (f : Block → Block) : (s.updBlock b f).powerLimit = s.powerLimit := rfl
@[simp] theorem State.updBlock_uevt (s : State) (b : Nat) (f : Block → Block) : (s.updBlock b f).uevt = s.uevt := rfl
@[simp] theorem State.updBlock_i3c (s : State) (b : Nat) (f : Block → Block) : (s.updBlock b f).i3c = s.i3c := rfl
@[simp] theorem State.updBlock_powerEst (s : State) (b : Nat) (f : Block → Block) : (s.updBlock b f).powerEst = s.powerEst := rfl
@[simp] theorem State.updBlock_temperature (s : State) (b : Nat) (f : Block → Block) : (s.updBlock b f).temperature = s.temperature := rfl
@[simp] theorem State.updBlock_held (s : State) (b : Nat) (f : Block → Block) : (s.updBlock b f).held = s.held := rfl
@[simp] theorem State.updBlock_clusterLevel (s : State) (b : Nat) (f : Block → Block) : (s.updBlock b f).clusterLevel = s.clusterLevel := rfl
@[simp] theorem State.updBlock_lowered (s : State) (b : Nat) (f : Block → Block) : (s.updBlock b f).lowered = s.lowered := rfl
@[simp] theorem State.updBlock_lowerLog (s : State) (b : Nat) (f : Block → Block) : (s.updBlock b f).lowerLog = s.lowerLog := rfl
@[simp] theorem State.updBlock_linkUp (s : State) (b : Nat) (f : Block → Block) : (s.updBlock b f).linkUp = s.linkUp := rfl
@[simp] theorem State.updBlock_drivesUp (s : State) (b : Nat) (f : Block → Block) : (s.updBlock b f).drivesUp = s.drivesUp := rfl
@[simp] theorem State.updBlock_bringup (s : State) (b : Nat) (f : Block → Block) : (s.updBlock b f).bringup = s.bringup := rfl
@[simp] theorem State.updBlock_outbox (s : State) (b : Nat) (f : Block → Block) : (s.updBlock b f).outbox = s.outbox := rfl
@[simp] theorem State.updBlock_fresh (s : State) (b : Nat) (f : Block → Block) : (s.updBlock b f).fresh = s.fresh := rfl
@[simp] theorem State.updBlock_agenda (s : State) (b : Nat) (f : Block → Block) : (s.updBlock b f).agenda = s.agenda := rfl
@[simp] theorem State.updBlock_ticks (s : State) (b : Nat) (f : Block → Block) : (s.updBlock b f).ticks = s.ticks := rfl
@[simp] theorem State.updBlock_focus (s : State) (b : Nat) (f : Block → Block) : (s.updBlock b f).focus = s.focus := rfl
@[simp] theorem State.updBlock_nextId (s : State) (b : Nat) (f : Block → Block) : (s.updBlock b f).nextId = s.nextId := rfl

/-! `State.updCmd` -/

@[simp] theorem State.updCmd_mem (s : State) (c : Nat) (f : Cmd → Cmd) : (s.updCmd c f).mem = s.mem := rfl
@[simp] theorem State.updCmd_bad (s : State) (c : Nat) (f : Cmd → Cmd) : (s.updCmd c f).bad = s.bad := rfl
@[simp] theorem State.updCmd_vague (s : State) (c : Nat) (f : Cmd → Cmd) : (s.updCmd c f).vague = s.vague := rfl
@[simp] theorem State.updCmd_warps (s : State) (c : Nat) (f : Cmd → Cmd) : (s.updCmd c f).warps = s.warps := rfl
@[simp] theorem State.updCmd_blocks (s : State) (c : Nat) (f : Cmd → Cmd) : (s.updCmd c f).blocks = s.blocks := rfl
@[simp] theorem State.updCmd_gangs (s : State) (c : Nat) (f : Cmd → Cmd) : (s.updCmd c f).gangs = s.gangs := rfl
@[simp] theorem State.updCmd_contexts (s : State) (c : Nat) (f : Cmd → Cmd) : (s.updCmd c f).contexts = s.contexts := rfl
@[simp] theorem State.updCmd_cores (s : State) (c : Nat) (f : Cmd → Cmd) : (s.updCmd c f).cores = s.cores := rfl
@[simp] theorem State.updCmd_dies (s : State) (c : Nat) (f : Cmd → Cmd) : (s.updCmd c f).dies = s.dies := rfl
@[simp] theorem State.updCmd_cmds (s : State) (c : Nat) (f : Cmd → Cmd) : (s.updCmd c f).cmds = s.cmds.upd c f := rfl
@[simp] theorem State.updCmd_runs (s : State) (c : Nat) (f : Cmd → Cmd) : (s.updCmd c f).runs = s.runs := rfl
@[simp] theorem State.updCmd_time (s : State) (c : Nat) (f : Cmd → Cmd) : (s.updCmd c f).time = s.time := rfl
@[simp] theorem State.updCmd_ready (s : State) (c : Nat) (f : Cmd → Cmd) : (s.updCmd c f).ready = s.ready := rfl
@[simp] theorem State.updCmd_b2base (s : State) (c : Nat) (f : Cmd → Cmd) : (s.updCmd c f).b2base = s.b2base := rfl
@[simp] theorem State.updCmd_rben (s : State) (c : Nat) (f : Cmd → Cmd) : (s.updCmd c f).rben = s.rben := rfl
@[simp] theorem State.updCmd_bar2log (s : State) (c : Nat) (f : Cmd → Cmd) : (s.updCmd c f).bar2log = s.bar2log := rfl
@[simp] theorem State.updCmd_powerLimit (s : State) (c : Nat) (f : Cmd → Cmd) : (s.updCmd c f).powerLimit = s.powerLimit := rfl
@[simp] theorem State.updCmd_uevt (s : State) (c : Nat) (f : Cmd → Cmd) : (s.updCmd c f).uevt = s.uevt := rfl
@[simp] theorem State.updCmd_i3c (s : State) (c : Nat) (f : Cmd → Cmd) : (s.updCmd c f).i3c = s.i3c := rfl
@[simp] theorem State.updCmd_powerEst (s : State) (c : Nat) (f : Cmd → Cmd) : (s.updCmd c f).powerEst = s.powerEst := rfl
@[simp] theorem State.updCmd_temperature (s : State) (c : Nat) (f : Cmd → Cmd) : (s.updCmd c f).temperature = s.temperature := rfl
@[simp] theorem State.updCmd_held (s : State) (c : Nat) (f : Cmd → Cmd) : (s.updCmd c f).held = s.held := rfl
@[simp] theorem State.updCmd_clusterLevel (s : State) (c : Nat) (f : Cmd → Cmd) : (s.updCmd c f).clusterLevel = s.clusterLevel := rfl
@[simp] theorem State.updCmd_lowered (s : State) (c : Nat) (f : Cmd → Cmd) : (s.updCmd c f).lowered = s.lowered := rfl
@[simp] theorem State.updCmd_lowerLog (s : State) (c : Nat) (f : Cmd → Cmd) : (s.updCmd c f).lowerLog = s.lowerLog := rfl
@[simp] theorem State.updCmd_linkUp (s : State) (c : Nat) (f : Cmd → Cmd) : (s.updCmd c f).linkUp = s.linkUp := rfl
@[simp] theorem State.updCmd_drivesUp (s : State) (c : Nat) (f : Cmd → Cmd) : (s.updCmd c f).drivesUp = s.drivesUp := rfl
@[simp] theorem State.updCmd_bringup (s : State) (c : Nat) (f : Cmd → Cmd) : (s.updCmd c f).bringup = s.bringup := rfl
@[simp] theorem State.updCmd_outbox (s : State) (c : Nat) (f : Cmd → Cmd) : (s.updCmd c f).outbox = s.outbox := rfl
@[simp] theorem State.updCmd_fresh (s : State) (c : Nat) (f : Cmd → Cmd) : (s.updCmd c f).fresh = s.fresh := rfl
@[simp] theorem State.updCmd_agenda (s : State) (c : Nat) (f : Cmd → Cmd) : (s.updCmd c f).agenda = s.agenda := rfl
@[simp] theorem State.updCmd_ticks (s : State) (c : Nat) (f : Cmd → Cmd) : (s.updCmd c f).ticks = s.ticks := rfl
@[simp] theorem State.updCmd_focus (s : State) (c : Nat) (f : Cmd → Cmd) : (s.updCmd c f).focus = s.focus := rfl
@[simp] theorem State.updCmd_nextId (s : State) (c : Nat) (f : Cmd → Cmd) : (s.updCmd c f).nextId = s.nextId := rfl

/-! Looking a record up -/

@[simp] theorem State.warp_setWarp_self (s : State) (wid : Nat) (w : Warp) : (s.setWarp wid w).warp wid = w := by
  simp [State.warp]

theorem State.warp_setWarp_of_ne {j wid : Nat} (h : j ≠ wid) (s : State) (w : Warp) :
    (s.setWarp wid w).warp j = s.warp j := by
  simp [State.warp, Tbl.get?_put_of_ne h]

theorem State.warp_updWarp (s : State) (j wid : Nat) (f : Warp → Warp) :
    (s.updWarp wid f).warp j =
      if j = wid ∧ (s.warps.get? wid).isSome = true then f (s.warp j) else s.warp j := by
  unfold State.warp
  simp only [State.updWarp_warps, Tbl.get?_upd]
  by_cases h : j = wid
  · subst h
    cases s.warps.get? j <;> simp
  · simp [h]

@[simp] theorem State.self_setSelf (s : State) (w : Warp) : (s.setSelf w).self = w := by
  simp [State.self, State.warp]

@[simp] theorem State.warp_setSelf_focus (s : State) (w : Warp) : (s.setSelf w).warp s.focus.wid = w := by
  simp [State.warp]

theorem State.warp_setSelf_of_ne {j : Nat} (s : State) (h : j ≠ s.focus.wid) (w : Warp) :
    (s.setSelf w).warp j = s.warp j := State.warp_setWarp_of_ne h s w

@[simp] theorem State.core_updCore_self (s : State) (c : Nat) (f : Core → Core) :
    (s.updCore c f).core c = f (s.core c) := by
  simp [State.core]

theorem State.core_updCore_of_ne {j c : Nat} (h : j ≠ c) (s : State) (f : Core → Core) :
    (s.updCore c f).core j = s.core j := by
  simp [State.core, Tbl.get?_put_of_ne h]

@[simp] theorem State.die_updDie_self (s : State) (d : Nat) (f : Die → Die) : (s.updDie d f).die d = f (s.die d) := by
  simp [State.die]

theorem State.die_updDie_of_ne {j d : Nat} (h : j ≠ d) (s : State) (f : Die → Die) :
    (s.updDie d f).die j = s.die j := by
  simp [State.die, Tbl.get?_put_of_ne h]

@[simp] theorem State.ctx_updCtx_self (s : State) (c : Nat) (f : Context → Context) :
    (s.updCtx c f).ctx c = f (s.ctx c) := by
  simp [State.ctx]

theorem State.ctx_updCtx_of_ne {j c : Nat} (h : j ≠ c) (s : State) (f : Context → Context) :
    (s.updCtx c f).ctx j = s.ctx j := by
  simp [State.ctx, Tbl.get?_put_of_ne h]

end Sys2Proof.Machine
end

