-- ==== Sys2Proof/Laws/Registers.lean ====
section
/-! SUPPORT. Registers: what reading one back gives after a write, and that the writes of an instruction touch nothing
else (`OnlyRegs`). -/

namespace Sys2Proof.Machine

set_option Elab.async false

/-! ## One write of a warp -/

theorem getLsbD_set {w : Nat} (x : BitVec w) (r j : Nat) (hr : r < w) (b : Bool) :
    (if b then x ||| (1#w <<< r) else x &&& ~~~(1#w <<< r)).getLsbD j = if j = r then b else x.getLsbD j := by
  by_cases hj : j < w
  · by_cases h : j = r
    · cases b <;> simp [h, hr]
    · by_cases h2 : j < r
      · cases b <;> simp [h, hj, h2]
      · have : j - r ≠ 0 := by omega
        cases b <;> simp [h, hj, h2, this]
  · have h : j ≠ r := by omega
    cases b <;> simp [h, BitVec.getLsbD_of_ge _ _ (Nat.le_of_not_lt hj)]

@[simp] theorem boolWord_ne_zero (b : Bool) : (boolWord b != 0) = b := by cases b <;> rfl

@[simp] theorem Warp.getV_setK (w : Warp) (r : Nat) (b : Bool) (q l : Nat) : (w.setK r b).getV q l = w.getV q l := by
  unfold Warp.setK
  split <;> rfl
@[simp] theorem Warp.getP_setK (w : Warp) (r : Nat) (b : Bool) (q l : Nat) : (w.setK r b).getP q l = w.getP q l := by
  unfold Warp.setK
  split <;> rfl
@[simp] theorem Warp.getW_setK (w : Warp) (r : Nat) (b : Bool) (q : Nat) : (w.setK r b).getW q = w.getW q := by
  unfold Warp.setK
  split <;> rfl
@[simp] theorem Warp.getHw_setK (w : Warp) (r : Nat) (b : Bool) (q : Nat) : (w.setK r b).getHw q = w.getHw q := by
  unfold Warp.setK
  split <;> rfl

/-- k7 reads true whatever is written to it (R134). -/
theorem Warp.getK_setK (w : Warp) (r : Nat) (hr : r < 8) (b : Bool) (q : Nat) :
    (w.setK r b).getK q = if q = r then decide (r = 7) || b else w.getK q := by
  unfold Warp.setK Warp.getK
  by_cases h7 : r = 7
  · by_cases hq : q = 7 <;> simp [h7, hq]
  · simp only [h7, if_false, getLsbD_set _ r q hr]
    by_cases h : q = r <;> simp [h, h7]

theorem Warp.raw_setRaw (w : Warp) (n m : RegName) (l j : Nat) (x : Word) (hn : n.valid = true)
    (hl : l < 32) (hj : j < 32) :
    (w.setRaw n l x).raw m j = if m = n ∧ (n.uniform = true ∨ j = l) then n.holds x else w.raw m j := by
  cases n <;> cases m <;> simp only [Warp.setRaw, Warp.raw, RegName.uniform, RegName.holds, RegName.v.injEq,
    RegName.p.injEq, RegName.w.injEq, RegName.k.injEq, RegName.hw.injEq, reduceCtorEq, false_and, if_false, false_or,
    true_or, and_true, Bool.false_eq_true, Warp.getV_setK, Warp.getP_setK, Warp.getW_setK, Warp.getHw_setK] <;>
    (try rfl)
  · rename_i r q
    simp only [Warp.getV, Warp.setV, Sparse.get_set]
    congr 1
    exact propext ⟨fun h => by omega, fun h => by omega⟩
  · rename_i r q
    have hr : r < 16 := by simpa [RegName.valid] using hn
    simp only [Warp.getP, Warp.setP, Sparse.get_set]
    by_cases h : j = l
    · subst h
      simp only [if_true, getLsbD_set _ r q hr]
      by_cases h : q = r <;> simp [h]
    · simp [h]
  · simp only [Warp.getW, Warp.setW, Sparse.get_set]
  · rename_i r q
    have hr : r < 8 := by simpa [RegName.valid] using hn
    rw [Warp.getK_setK w r hr]
    by_cases h : q = r
    · by_cases h7 : r = 7 <;> simp [h, h7, boolWord]
    · simp [h]
  · simp only [Warp.getHw, Warp.setHw, Sparse.get_set]

/-- What a register write changes of a warp: one of its register tables, the dirty bits, and marks on its operations (R73,
R113). -/
theorem Warp.write_eq (w : Warp) (n : RegName) (l : Nat) (x fr : Word) :
    w.write n l x fr = { w with
      v := (w.write n l x fr).v, p := (w.write n l x fr).p, w := (w.write n l x fr).w, k := (w.write n l x fr).k
      hw := (w.write n l x fr).hw, dirty := n.dirties w.dirty, unspec := w.unspecWith n l
      ops := w.overwriteOps n l fr, spent := w.overwriteSpent n l fr } := by
  cases n with
  | k r => by_cases h : r = 7 <;> simp [Warp.write, Warp.setRaw, Warp.setK, h]
  | _ => rfl

@[simp] theorem Warp.raw_write (w : Warp) (n m : RegName) (l j : Nat) (x fr : Word) :
    (w.write n l x fr).raw m j = (w.setRaw n l x).raw m j := by
  cases m <;> rfl

@[simp] theorem Op.fixed_overwritten (o : Op) (held : Bool) (n : RegName) (l : Nat) (x : Word) :
    (o.overwritten held n l x).fixed = o.fixed := by
  unfold Op.overwritten Op.fixed
  cases held
  · rfl
  · simp only [if_true, List.map_map, Op.mk.injEq, true_and, and_true]
    refine List.map_congr_left fun c _ => ?_
    by_cases hc : c.reg = n <;> simp [hc]

@[simp] theorem Warp.fixed_overwriteOps (w : Warp) (n : RegName) (l : Nat) (x : Word) :
    (w.overwriteOps n l x).map (fun e => (e.1, e.2.fixed)) = w.ops.map fun e => (e.1, e.2.fixed) := by
  simp [Warp.overwriteOps, Function.comp_def]

@[simp] theorem Warp.fixed_overwriteSpent (w : Warp) (n : RegName) (l : Nat) (x : Word) :
    (w.overwriteSpent n l x).map (fun e => (e.1, e.2.fixed)) = w.spent.map fun e => (e.1, e.2.fixed) := by
  simp [Warp.overwriteSpent, Function.comp_def]

/-- What the unspecified registers are after a write. -/
theorem Warp.contains_unspecWith (w : Warp) (n m : RegName) (l j : Nat) :
    (w.unspecWith n l).contains (m.place j) =
      if m.place j = n.place l then w.pendingAt n l else w.unspec.contains (m.place j) := by
  unfold Warp.unspecWith
  by_cases hp : w.pendingAt n l = true
  · by_cases hc : w.unspec.contains (n.place l) = true
    · by_cases h : m.place j = n.place l <;> simp_all
    · by_cases h : m.place j = n.place l <;> simp_all
  · by_cases h : m.place j = n.place l <;> simp_all

theorem RegName.place_eq (m n : RegName) (j l : Nat) :
    m.place j = n.place l ↔ m = n ∧ (n.uniform = true ∨ j = l) := by
  unfold RegName.place
  constructor
  · intro h
    obtain ⟨h1, h2⟩ := Prod.mk.inj h
    subst h1
    by_cases hu : m.uniform = true <;> simp_all
  · rintro ⟨rfl, h⟩
    by_cases hu : m.uniform = true <;> simp_all

@[simp] theorem Warp.write_inHandler (w : Warp) (n : RegName) (l : Nat) (x fr : Word) :
    (w.write n l x fr).inHandler = w.inHandler := by
  cases n with
  | k r => by_cases h : r = 7 <;> simp [Warp.write, Warp.setRaw, Warp.setK, h]
  | _ => rfl

theorem Warp.named_congr {w w' : Warp} (h : w'.inHandler = w.inHandler) (n : RegName) : w'.named n = w.named n := by
  cases n <;> simp [Warp.named, h]

theorem Warp.named_valid (w : Warp) (n : RegName) (h : n.valid = true) : (w.named n).valid = true := by
  cases n with
  | w r =>
    simp only [RegName.valid, decide_eq_true_eq] at h
    simp only [Warp.named]
    split
    · rename_i h'
      simp only [Bool.and_eq_true, decide_eq_true_eq] at h'
      simp only [RegName.valid, decide_eq_true_eq]
      omega
    · simpa [RegName.valid] using h
  | _ => exact h

/-! ## `OnlyRegs` -/

theorem OnlyRegs.refl (s : State) : OnlyRegs s s := ⟨rfl, fun _ _ => rfl, rfl, rfl, rfl⟩

theorem OnlyRegs.focus_eq {s t : State} (h : OnlyRegs s t) : t.focus = s.focus := by rw [h.rest]
theorem OnlyRegs.fresh_eq {s t : State} (h : OnlyRegs s t) : t.fresh = s.fresh := by rw [h.rest]
theorem OnlyRegs.mem_eq {s t : State} (h : OnlyRegs s t) : t.mem = s.mem := by rw [h.rest]
theorem OnlyRegs.inHandler_eq {s t : State} (h : OnlyRegs s t) : t.self.inHandler = s.self.inHandler := by rw [h.self]

theorem OnlyRegs.trans {s t u : State} (h : OnlyRegs s t) (h' : OnlyRegs t u) : OnlyRegs s u where
  rest := by
    have h1 := h'.rest
    rw [h.rest] at h1
    exact h1
  others wid hw := by
    rw [h'.others wid (by rw [h.focus_eq]; exact hw), h.others wid hw]
  self := by
    have h1 := h'.self
    rw [h.self] at h1
    exact h1
  ops := by rw [h'.ops, h.ops]
  spent := by rw [h'.spent, h.spent]

theorem OnlyRegs.foldl {α : Type} {f : State → α → State} (hf : ∀ s a, OnlyRegs s (f s a)) (l : List α) (s : State) :
    OnlyRegs s (l.foldl f s) := by
  induction l generalizing s with
  | nil => exact OnlyRegs.refl s
  | cons a l ih => exact (hf s a).trans (ih _)

/-- A register write of the executing warp. -/
theorem State.wr_onlyRegs (s : State) (n : RegName) (l : Nat) (x : Word) : OnlyRegs s (s.wr n l x) where
  rest := rfl
  others wid h := Tbl.get?_put_of_ne h _ _
  self := by
    simp only [State.wr, State.self_setSelf]
    generalize s.self.named n = m
    conv => lhs; rw [Warp.write_eq]
    cases m <;> rfl
  ops := by
    simp only [State.wr, State.self_setSelf]
    rw [Warp.write_eq]
    exact Warp.fixed_overwriteOps _ _ _ _
  spent := by
    simp only [State.wr, State.self_setSelf]
    rw [Warp.write_eq]
    exact Warp.fixed_overwriteSpent _ _ _ _

theorem State.wr_focus (s : State) (n : RegName) (l : Nat) (x : Word) : (s.wr n l x).focus = s.focus := rfl

/-- What a register of the executing warp reads as after a write of `n`. -/
theorem State.raw_wr (s : State) (n m : RegName) (l j : Nat) (x : Word) (hn : n.valid = true)
    (hl : l < 32) (hj : j < 32) :
    (s.wr n l x).self.raw m j =
      if m = s.self.named n ∧ ((s.self.named n).uniform = true ∨ j = l) then (s.self.named n).holds x
      else s.self.raw m j := by
  simp only [State.wr, State.self_setSelf, Warp.raw_write]
  exact Warp.raw_setRaw _ _ _ _ _ _ (Warp.named_valid _ _ hn) hl hj

/-- What the unspecified registers of the executing warp are after a write of `n`. -/
theorem State.unspec_wr (s : State) (n m : RegName) (l j : Nat) (x : Word) :
    (s.wr n l x).self.unspec.contains (m.place j) =
      if m = s.self.named n ∧ ((s.self.named n).uniform = true ∨ j = l) then s.self.pendingAt (s.self.named n) l
      else s.self.unspec.contains (m.place j) := by
  simp only [State.wr, State.self_setSelf]
  rw [Warp.write_eq]
  simp only [Warp.contains_unspecWith, RegName.place_eq]

theorem OnlyRegs.pendingAt_eq {s t : State} (h : OnlyRegs s t) (n : RegName) (l : Nat) :
    t.self.pendingAt n l = s.self.pendingAt n l := by
  unfold Warp.pendingAt
  rw [h.self]

theorem Warp.pendingAt_uniform (w : Warp) (n : RegName) (h : n.uniform = true) (l j : Nat) :
    w.pendingAt n l = w.pendingAt n j := by
  simp [Warp.pendingAt, Dest.hits, h]

/-! ## Lane lists -/

@[simp] theorem mem_lanesOf (m : Lanes) (l : Nat) : l ∈ lanesOf m ↔ l < 32 ∧ m.getLsbD l = true := by
  simp [lanesOf]

end Sys2Proof.Machine
end

