-- ==== Sys2Proof/Laws/Values.lean ====
section
/-! SUPPORT. The integer results of classes S and V in the words of the tables of spec/08: one equation per operation. -/

namespace Sys2Proof.Machine

set_option Elab.async false

/-- A register shift count is b[7:0] (R212). -/
theorem shiftCount_eq (b : Word) : shiftCount b = b.toNat % 256 := by simp [shiftCount]

theorem shlBy_eq (a : Word) (n : Nat) : shlBy a n = if 32 ≤ n then 0 else BitVec.ofNat 32 (a.toNat * 2 ^ n) := by
  unfold shlBy
  split
  · rename_i h
    exact BitVec.shiftLeft_eq_zero h
  · apply BitVec.eq_of_toNat_eq
    simp [Nat.shiftLeft_eq]

theorem shrBy_eq (a : Word) (n : Nat) : shrBy a n = if 32 ≤ n then 0 else BitVec.ofNat 32 (a.toNat / 2 ^ n) := by
  unfold shrBy
  split
  · rename_i h
    exact BitVec.ushiftRight_eq_zero h
  · apply BitVec.eq_of_toNat_eq
    simp only [BitVec.toNat_ushiftRight, Nat.shiftRight_eq_div_pow, BitVec.toNat_ofNat]
    exact (Nat.mod_eq_of_lt (Nat.lt_of_le_of_lt (Nat.div_le_self _ _) a.isLt)).symm

theorem getLsbD_31_eq_msb (a : Word) : a.getLsbD 31 = a.msb := by simp [BitVec.msb_eq_getLsbD_last]

theorem sarBy_eq (a : Word) (n : Nat) : sarBy a n =
    if 32 ≤ n then (if a.getLsbD 31 then 0xFFFFFFFF else 0) else BitVec.ofInt 32 (a.toInt / 2 ^ n) := by
  unfold sarBy
  split
  · rename_i h
    ext i hi
    rw [getLsbD_31_eq_msb]
    rw [BitVec.getElem_sshiftRight, dif_neg (by omega)]
    cases a.msb
    · simp
    · exact (BitVec.getElem_allOnes i hi).symm
  · rw [BitVec.sshiftRight]
    simp [Int.shiftRight_eq_div_pow]

theorem minI_eq (a b : Word) : minI a b = if a.toInt ≤ b.toInt then a else b := by
  unfold minI
  simp only [BitVec.slt, decide_eq_true_eq]
  split
  · rename_i h
    rw [if_pos (by omega)]
  · rename_i h
    split
    · exact BitVec.eq_of_toInt_eq (by omega)
    · rfl

theorem maxI_eq (a b : Word) : maxI a b = if a.toInt ≤ b.toInt then b else a := by
  unfold maxI
  simp only [BitVec.slt, decide_eq_true_eq]
  split
  · rename_i h
    rw [if_pos (by omega)]
  · rename_i h
    split
    · exact BitVec.eq_of_toInt_eq (by omega)
    · rfl

theorem minN_eq (a b : Word) : minN a b = if a.toNat ≤ b.toNat then a else b := by
  unfold minN
  simp only [BitVec.ult, decide_eq_true_eq]
  split
  · rename_i h
    rw [if_pos (by omega)]
  · rename_i h
    split
    · exact BitVec.eq_of_toNat_eq (by omega)
    · rfl

theorem maxN_eq (a b : Word) : maxN a b = if a.toNat ≤ b.toNat then b else a := by
  unfold maxN
  simp only [BitVec.ult, decide_eq_true_eq]
  split
  · rename_i h
    rw [if_pos (by omega)]
  · rename_i h
    split
    · exact BitVec.eq_of_toNat_eq (by omega)
    · rfl

theorem countBits_eq (a : Word) (n : Nat) : countBits a n = (List.range n).countP fun j => a.getLsbD j := by
  induction n with
  | zero => rfl
  | succ n ih =>
    rw [countBits, ih, List.range_succ, List.countP_append]
    cases h : a.getLsbD n <;> simp [h]

theorem popCount_eq (a : Word) : popCount a = BitVec.ofNat 32 ((List.range 32).countP fun j => a.getLsbD j) := by
  rw [popCount, countBits_eq]

theorem leadingZeros_eq (a : Word) :
    leadingZeros a = BitVec.ofNat 32 (if a = 0 then 32 else 31 - a.toNat.log2) := by
  unfold leadingZeros bitLen
  congr 1
  by_cases h : a = 0
  · simp [h]
  · have h' : a.toNat ≠ 0 := fun e => h (BitVec.eq_of_toNat_eq (by simpa using e))
    rw [if_neg h', if_neg h]
    omega

theorem complement_eq (a : Word) : ~~~a = 0xFFFFFFFF - a := by
  have h : (0xFFFFFFFF : Word) = BitVec.allOnes 32 := rfl
  apply BitVec.eq_of_toNat_eq
  rw [h, BitVec.toNat_not, BitVec.toNat_sub]
  simp only [BitVec.toNat_allOnes]
  have := a.isLt
  omega

/-- The six conditions of Table 5.5 on words read as integers by `f`. -/
theorem cmpInt_signed (c : Cond) (a b : Word) : cmpInt true c a b = match c with
    | .eq => decide (a.toInt = b.toInt)
    | .ne => decide (a.toInt ≠ b.toInt)
    | .lt => decide (a.toInt < b.toInt)
    | .le => decide (a.toInt ≤ b.toInt)
    | .gt => decide (b.toInt < a.toInt)
    | .ge => decide (b.toInt ≤ a.toInt) := by
  have he : (a == b) = decide (a.toInt = b.toInt) := by
    rw [Bool.eq_iff_iff]
    simp only [beq_iff_eq, decide_eq_true_eq]
    exact ⟨fun h => h ▸ rfl, BitVec.eq_of_toInt_eq⟩
  cases c <;> simp only [cmpInt, Cond.holds, he, BitVec.slt, if_true] <;> rw [Bool.eq_iff_iff] <;>
    simp only [Bool.or_eq_true, Bool.not_eq_true', Bool.or_eq_false_iff, decide_eq_true_eq, decide_eq_false_iff_not] <;>
    omega

theorem cmpInt_unsigned (c : Cond) (a b : Word) : cmpInt false c a b = match c with
    | .eq => decide (a.toNat = b.toNat)
    | .ne => decide (a.toNat ≠ b.toNat)
    | .lt => decide (a.toNat < b.toNat)
    | .le => decide (a.toNat ≤ b.toNat)
    | .gt => decide (b.toNat < a.toNat)
    | .ge => decide (b.toNat ≤ a.toNat) := by
  have he : (a == b) = decide (a.toNat = b.toNat) := by
    rw [Bool.eq_iff_iff]
    simp only [beq_iff_eq, decide_eq_true_eq]
    exact ⟨fun h => h ▸ rfl, BitVec.eq_of_toNat_eq⟩
  cases c <;> simp only [cmpInt, Cond.holds, he, BitVec.ult, if_false, Bool.false_eq_true] <;>
    rw [Bool.eq_iff_iff] <;>
    simp only [Bool.or_eq_true, Bool.not_eq_true', Bool.or_eq_false_iff, decide_eq_true_eq, decide_eq_false_iff_not] <;>
    omega

end Sys2Proof.Machine
end

