-- ==== Sys2Proof/Laws/Writes.lean ====
section
/-! SUPPORT. The shared writes of instructions: what each does to the registers, and that it does nothing else. -/

namespace Sys2Proof.Machine

set_option Elab.async false

theorem WritesRegs.onlyRegs {s t : State} {f : RegName → Nat → Option Word} (h : WritesRegs s t f) : OnlyRegs s t := h.1

theorem WritesRegs.congr {s t : State} {f g : RegName → Nat → Option Word} (h : WritesRegs s t f)
    (hfg : ∀ n l, l < 32 → f n l = g n l) : WritesRegs s t g :=
  ⟨h.1, fun n l hl => by rw [h.2.1 n l hl, hfg n l hl], fun n l hl => by rw [h.2.2 n l hl, hfg n l hl]⟩

/-- An instruction that writes no register. -/
theorem WritesRegs.refl (s : State) : WritesRegs s s fun _ _ => none := 
  ⟨OnlyRegs.refl s, fun _ _ _ => rfl, fun _ _ _ => rfl⟩

theorem WritesRegs.trans {s t u : State} {f g : RegName → Nat → Option Word} (h : WritesRegs s t f)
    (h' : WritesRegs t u g) : WritesRegs s u fun n l => (g n l).or (f n l) := by
  refine ⟨h.1.trans h'.1, fun n l hl => ?_, fun n l hl => ?_⟩
  · rw [h'.2.1 n l hl]
    show _ = match (g n l).or (f n l) with
      | some x => n.holds x
      | none => s.self.raw n l
    cases g n l with
    | none => rw [Option.none_or]; exact h.2.1 n l hl
    | some x => rfl
  · rw [h'.2.2 n l hl]
    show _ = match (g n l).or (f n l) with
      | some _ => s.self.pendingAt n l
      | none => s.self.unspec.contains (n.place l)
    cases g n l with
    | none => rw [Option.none_or]; exact h.2.2 n l hl
    | some x => exact h.1.pendingAt_eq n l

/-- One write. -/
theorem State.wr_writes (s : State) (n : RegName) (l : Nat) (x : Word) (hn : n.valid = true) (hl : l < 32) :
    WritesRegs s (s.wr n l x) fun m j =>
      if m = s.self.named n ∧ ((s.self.named n).uniform = true ∨ j = l) then some x else none := by
  refine ⟨s.wr_onlyRegs n l x, fun m j hj => ?_, fun m j _ => ?_⟩
  · rw [State.raw_wr s n m l j x hn hl hj]
    by_cases h : m = s.self.named n ∧ ((s.self.named n).uniform = true ∨ j = l)
    · simp only [h, and_self, if_true]
    · simp only [h, if_false]
  · rw [State.unspec_wr s n m l j x]
    by_cases h : m = s.self.named n ∧ ((s.self.named n).uniform = true ∨ j = l)
    · obtain ⟨rfl, hu | rfl⟩ := h
      · simp only [hu, true_or, and_self, if_true]
        exact s.self.pendingAt_uniform _ hu l j
      · simp only [or_true, and_self, if_true]
    · simp only [h, if_false]

theorem Warp.named_uniform (w : Warp) (n : RegName) (h : n.uniform = true) : (w.named n).uniform = true := by
  cases n with
  | w r =>
    simp only [Warp.named]
    split <;> rfl
  | _ => exact h

/-- A write of a uniform register. -/
theorem State.wr_uniform_writes (s : State) (n : RegName) (x : Word) (hn : n.valid = true) (hu : n.uniform = true) :
    WritesRegs s (s.wr n 0 x) (scalarWrites s n x) :=
  (s.wr_writes n 0 x hn (by decide)).congr fun m l _ => by simp [scalarWrites, Warp.named_uniform _ _ hu]

theorem w_valid (r : Reg) : (RegName.w r.toNat).valid = true := by simp [RegName.valid, r.isLt]
theorem v_valid (r : Reg) : (RegName.v r.toNat).valid = true := by simp [RegName.valid, r.isLt]
theorem k_valid (t : BitVec 3) : (RegName.k t.toNat).valid = true := by simp [RegName.valid, t.isLt]
theorem p_valid (t : BitVec 4) : (RegName.p t.toNat).valid = true := by simp [RegName.valid, t.isLt]

/-- A pair of uniform registers, low register first; `d` is even for every well-formed instruction (R134). -/
theorem State.wr64_writes (s : State) (d : Nat) (hd : d + 1 < 64) (x : DWord) :
    WritesRegs s (s.wr64 d x) fun m l =>
      (scalarWrites s (.w (d + 1)) ((x >>> 32).truncate 32) m l).or (scalarWrites s (.w d) (x.truncate 32) m l) := by
  have h1 := s.wr_uniform_writes (.w d) (x.truncate 32) (by simp [RegName.valid]; omega) rfl
  have h2 := (s.wr (.w d) 0 (x.truncate 32)).wr_uniform_writes (.w (d + 1)) ((x >>> 32).truncate 32)
    (by simp [RegName.valid]; omega) rfl
  refine (h1.trans h2).congr fun m l _ => ?_
  simp only [scalarWrites, Warp.named_congr h1.onlyRegs.inHandler_eq]

/-! ## Lanes -/

theorem Warp.named_v (w : Warp) (r : Nat) : w.named (.v r) = .v r := rfl
theorem Warp.named_p (w : Warp) (r : Nat) : w.named (.p r) = .p r := rfl

theorem putLane_writes (s0 s : State) (x : Option VPfx) (n : RegName) (l : Nat) (r : Word) (hp : n.perLane = true)
    (hn : n.valid = true) (hl : l < 32) :
    WritesRegs s (putLane s0 x n l r s) fun m j =>
      if m = n ∧ j = l then (if s0.maskOn x l then some r else if zeroes x then some 0 else none) else none := by
  have hname : s.self.named n = n := by cases n <;> first | rfl | cases hp
  have hu : n.uniform = false := by cases n <;> first | rfl | cases hp
  unfold putLane
  by_cases h1 : s0.maskOn x l = true
  · simpa [h1, hname, hu] using s.wr_writes n l r hn hl
  · by_cases h2 : zeroes x = true
    · simpa [h1, h2, hname, hu] using s.wr_writes n l 0 hn hl
    · simpa [h1, h2] using WritesRegs.refl s

/-- Writes made lane by lane, each in its own lane only, amount to the writes of all the lanes. -/
theorem foldl_writes {step : State → Nat → State} {g : RegName → Nat → Option Word}
    (L : List Nat) (h : ∀ a ∈ L, ∀ s, WritesRegs s (step s a) fun m j => if j = a then g m j else none) (s : State) :
    WritesRegs s (L.foldl step s) fun m j => if j ∈ L then g m j else none := by
  induction L generalizing s with
  | nil => simpa using WritesRegs.refl s
  | cons a L ih =>
    refine ((h a List.mem_cons_self s).trans
      (ih (fun a ha => h a (List.mem_cons_of_mem _ ha)) _)).congr fun m j _ => ?_
    by_cases hj : j = a
    · by_cases hjL : j ∈ L
      · simp only [hj, List.mem_cons, true_or, if_true]
        rw [← hj, if_pos hjL, Option.or_self]
      · simp only [hj, List.mem_cons, true_or, if_true]
        rw [← hj, if_neg hjL, Option.none_or]
    · by_cases hjL : j ∈ L
      · simp only [hj, hjL, List.mem_cons, false_or, if_true, if_false, Option.or_none]
      · simp only [hj, hjL, List.mem_cons, false_or, if_false, Option.or_none]

theorem lanesOf_lt (act : Lanes) : ∀ l ∈ lanesOf act, l < 32 := fun l h => ((mem_lanesOf act l).1 h).1

/-- One lane of a destination, as `laneWrites` says it. -/
theorem putLane_laneWrites (s0 s : State) (x : Option VPfx) (act : Lanes) (n : RegName) (f : Nat → Word) (l : Nat)
    (hp : n.perLane = true) (hn : n.valid = true) (hl : l < 32) (ha : act.getLsbD l = true) :
    WritesRegs s (putLane s0 x n l (f l) s) fun m j => if j = l then laneWrites s0 x act n f m j else none := by
  refine (putLane_writes s0 s x n l (f l) hp hn hl).congr fun m j _ => ?_
  by_cases hj : j = l
  · subst hj
    by_cases hm : m = n
    · cases x with
      | none => simp [laneWrites, hm, ha, State.maskOn]
      | some p => cases hw : p.wme <;> cases hq : s0.rdMask p.wmp.toNat j <;> cases hz : p.zp <;>
          simp [laneWrites, hm, ha, State.maskOn, zeroes, hw, hq, hz]
    · simp [laneWrites, hm]
  · simp [hj]

theorem laneWrites_off (s : State) (x : Option VPfx) (act : Lanes) (n : RegName) (f : Nat → Word) (m : RegName) (l : Nat)
    (hl : l < 32) : (if l ∈ lanesOf act then laneWrites s x act n f m l else none) = laneWrites s x act n f m l := by
  by_cases h : act.getLsbD l = true
  · rw [if_pos ((mem_lanesOf act l).2 ⟨hl, h⟩)]
  · rw [if_neg fun hm => h ((mem_lanesOf act l).1 hm).2]
    unfold laneWrites
    rw [if_neg fun hm => h hm.2]

theorem foldl_putLane_writes (s : State) (x : Option VPfx) (act : Lanes) (n : RegName) (f : Nat → Word)
    (hp : n.perLane = true) (hn : n.valid = true) :
    WritesRegs s ((lanesOf act).foldl (fun t l => putLane s x n l (f l) t) s) (laneWrites s x act n f) :=
  (foldl_writes _ (fun a ha u => putLane_laneWrites s u x act n f a hp hn ((mem_lanesOf act a).1 ha).1
    ((mem_lanesOf act a).1 ha).2) s).congr fun _ _ hj => laneWrites_off _ _ _ _ _ _ _ hj

/-- A vector destination. -/
theorem State.vecSet_writes (s : State) (x : Option VPfx) (act : Lanes) (d : Reg) (f : Nat → Word) :
    WritesRegs s (s.vecSet x act d f) (laneWrites s x act (.v d.toNat) f) :=
  foldl_putLane_writes s x act (.v d.toNat) f rfl (v_valid d)

/-- A predicate destination. -/
theorem State.predSet_writes (s : State) (x : Option VPfx) (act : Lanes) (t : BitVec 4) (f : Nat → Bool) :
    WritesRegs s (s.predSet x act t f) (laneWrites s x act (.p t.toNat) fun l => boolWord (f l)) :=
  foldl_putLane_writes s x act (.p t.toNat) (fun l => boolWord (f l)) rfl (p_valid t)

/-- A pair of vector registers, low register first. -/
theorem State.vecSet2_writes (s : State) (x : Option VPfx) (act : Lanes) (d : Reg) (hd : d.toNat + 1 < 64)
    (f : Nat → DWord) :
    WritesRegs s (s.vecSet2 x act d f) fun m l =>
      (laneWrites s x act (.v (d.toNat + 1)) (fun l => (f l >>> 32).truncate 32) m l).or
        (laneWrites s x act (.v d.toNat) (fun l => (f l).truncate 32) m l) := by
  refine (foldl_writes _ (g := fun m l =>
      (laneWrites s x act (.v (d.toNat + 1)) (fun l => (f l >>> 32).truncate 32) m l).or
        (laneWrites s x act (.v d.toNat) (fun l => (f l).truncate 32) m l)) (fun a ha u => ?_) s).congr fun m j hj => ?_
  · obtain ⟨hl, hact⟩ := (mem_lanesOf act a).1 ha
    refine ((putLane_laneWrites s u x act (.v d.toNat) (fun l => (f l).truncate 32) a rfl (v_valid d) hl hact).trans
      (putLane_laneWrites s _ x act (.v (d.toNat + 1)) (fun l => (f l >>> 32).truncate 32) a rfl
        (by simp [RegName.valid]; omega) hl hact)).congr fun m j _ => ?_
    by_cases hj : j = a <;> simp [hj]
  · rw [← laneWrites_off s x act (.v (d.toNat + 1)) _ m j hj, ← laneWrites_off s x act (.v d.toNat) _ m j hj]
    by_cases h : j ∈ lanesOf act <;> simp only [h, if_true, if_false, Option.or_self]

/-- A uniform destination: written if the guard holds (R121), else nothing happens. -/
theorem State.sSet_spec (s : State) (g : UGuard) (d : Reg) (x : Word) :
    if s.uholds g then WritesRegs s (s.sSet g d x) (scalarWrites s (.w d.toNat) x) else s.sSet g d x = s := by
  unfold State.sSet
  split
  · exact s.wr_uniform_writes _ x (w_valid d) rfl
  · rfl

theorem State.kSet_spec (s : State) (g : UGuard) (t : BitVec 3) (b : Bool) :
    if s.uholds g then WritesRegs s (s.kSet g t b) (scalarWrites s (.k t.toNat) (boolWord b)) else s.kSet g t b = s := by
  unfold State.kSet
  split
  · exact s.wr_uniform_writes _ _ (k_valid t) rfl
  · rfl

theorem extractLsb'_low (x : DWord) : x.extractLsb' 0 32 = x.truncate 32 := by
  ext i hi
  simp

theorem extractLsb'_high (x : DWord) : x.extractLsb' 32 32 = (x >>> 32).truncate 32 := by
  ext i hi
  simp

/-- A uniform pair: written if the guard holds, else nothing happens. -/
theorem State.sBin64_spec (s : State) (o : SRR) (f : DWord → DWord → DWord) (hd : o.d.toNat % 2 = 0) :
    if s.uholds o.g then WritesRegs s (s.sBin64 o f) fun n l =>
        (scalarWrites s (.w (o.d.toNat + 1)) ((f (s.rdW64 o.a) (s.rdW641 o.b)).extractLsb' 32 32) n l).or
          (scalarWrites s (.w o.d.toNat) ((f (s.rdW64 o.a) (s.rdW641 o.b)).extractLsb' 0 32) n l)
      else s.sBin64 o f = s := by
  unfold State.sBin64
  split
  · rw [extractLsb'_low, extractLsb'_high]
    exact s.wr64_writes _ (by omega) _
  · rfl

end Sys2Proof.Machine
end

