-- ==== Sys2Proof/Tests/Slice0.lean ====
section
/-! SUPPORT. Tests of the model: an ill-formed term for each check of `WellFormed`, instruction words written out from the
encoding tables, worked examples of the spec, and for each statement a state and operands that meet its premises. -/

namespace Sys2Proof.Tests

set_option Elab.async false

open Sys2Proof Sys2Proof.Machine

/-! ## Ill-formed terms, one for each check -/

/-- No guard: E = 0, S = 0, P = 0. -/
def g0 : LGuard := ⟨false, false, 0⟩
def u0 : UGuard := ⟨false, false, 0⟩

/-- R120: E = 0 with another guard bit. -/
theorem test_illFormed_guard : WellFormed (.iadd ⟨none, 1, 2, 3, ⟨false, true, 0⟩⟩) = false ∧
    WellFormed (.nop ⟨⟨false, false, 1⟩⟩) = false ∧ WellFormed (.iadd ⟨none, 1, 2, 3, ⟨true, true, 9⟩⟩) = true := by decide

/-- R30, R129: RND 101, ZP without WME. -/
theorem test_illFormed_prefix : WellFormed (.fadd ⟨some ⟨0, 5, false, false, 0⟩, 1, 2, 3, g0⟩) = false ∧
    WellFormed (.fadd ⟨some ⟨0, 4, true, false, 0⟩, 1, 2, 3, g0⟩) = false ∧
    WellFormed (.fadd ⟨some ⟨0, 4, true, true, 0⟩, 1, 2, 3, g0⟩) = true ∧
    WellFormed (.sel ⟨some ⟨0, 0, true, false, 0⟩, 1, 2, 3, false, 0⟩) = false ∧
    WellFormed (.li ⟨some ⟨0, 5, false, false, 0⟩, 1, g0, 7⟩) = false ∧
    WellFormed (.w2v ⟨some ⟨0, 6, false, false, 0⟩, 1, 2, g0⟩) = false ∧
    WellFormed (.pmov ⟨some ⟨0, 7, false, false, 0⟩, 1, g0⟩) = false ∧
    WellFormed (.vmovp ⟨some ⟨0, 7, false, false, 0⟩, 1, g0⟩) = false ∧
    WellFormed (.cvts ⟨some ⟨0, 7, false, false, 0⟩, 1, 2, 3, g0⟩) = false := by decide

/-- R132: GD outside scope .gang; Table 5.11: order and policy of loads, stores, atomics, block-local forms, fences. -/
theorem test_illFormed_lprefix : WellFormed (.ld32 ⟨some ⟨2, true, 0, 0, 0⟩, 1, 2, 4, g0⟩) = false ∧
    WellFormed (.ld32 ⟨some ⟨2, false, 2, 0, 0⟩, 1, 2, 4, g0⟩) = false ∧
    WellFormed (.st32 ⟨some ⟨2, false, 1, 0, 0⟩, 1, 2, 4, g0⟩) = false ∧
    WellFormed (.redOr ⟨some ⟨2, false, 0, 1, 0⟩, 1, 2, 4, g0⟩) = false ∧
    WellFormed (.ldt32 ⟨some ⟨1, false, 0, 0, 0⟩, 1, 2, g0⟩) = false ∧
    WellFormed (.lda ⟨some ⟨0, false, 0, 1, 0⟩, 1, 2, 0, g0⟩) = false ∧
    WellFormed (.fence ⟨some ⟨2, false, 0, 0, 0⟩, 0⟩) = false ∧
    WellFormed (.fence ⟨some ⟨2, false, 3, 0, 1⟩, 0⟩) = false ∧
    WellFormed (.cinv ⟨some ⟨2, false, 0, 0, 64⟩, 1, 2, g0⟩) = false ∧
    WellFormed (.pref ⟨some ⟨2, false, 1, 0, 0⟩, 1, 2, g0⟩) = false ∧
    WellFormed (.ld32 ⟨some ⟨1, true, 1, 0, 0⟩, 1, 2, 4, g0⟩) = true := by decide

/-- R125, R134, R145: base pairs, register pairs and groups, accumulator banks. -/
theorem test_illFormed_registers : WellFormed (.ld32 ⟨none, 1, 2, 5, g0⟩) = false ∧
    WellFormed (.ld64 ⟨none, 1, 2, 4, g0⟩) = false ∧ WellFormed (.ld128 ⟨none, 2, 2, 4, g0⟩) = false ∧
    WellFormed (.st128 ⟨none, 6, 2, 4, g0⟩) = false ∧ WellFormed (.atomCas ⟨none, 3, 2, 4, g0⟩) = false ∧
    WellFormed (.stt64 ⟨none, 3, 2, g0⟩) = false ∧ WellFormed (.atomtCas ⟨none, 3, 2, g0⟩) = false ∧
    WellFormed (.cinv ⟨none, 1, 3, g0⟩) = false ∧ WellFormed (.pref ⟨none, 1, 3, g0⟩) = false ∧
    WellFormed (.sta ⟨none, 1, 2, 6, g0⟩) = false ∧
    WellFormed (.mzeroX4 ⟨3, u0⟩) = false ∧ WellFormed (.mstat ⟨5, 3, u0⟩) = false ∧
    WellFormed (.add64w ⟨2, 4, 7, u0⟩) = false ∧ WellFormed (.iadd64 ⟨none, 2, 5, 6, g0⟩) = false ∧
    WellFormed (.imulwI ⟨none, 3, 5, 6, g0⟩) = false ∧ WellFormed (.brx ⟨3, g0⟩) = false ∧
    WellFormed (.cpy ⟨0, u0, 1, false, false, 0⟩) = false ∧ WellFormed (.enc ⟨0, 0, u0, 2, false, false, 0, 0, 0⟩) = false ∧
    WellFormed (.sread ⟨1, u0⟩) = false ∧ WellFormed (.tfget ⟨0, 1, u0⟩) = false ∧ WellFormed (.launch ⟨1, 2, u0⟩) = false ∧
    WellFormed (.launch ⟨2, 1, u0⟩) = false ∧ WellFormed (.time ⟨1, u0⟩) = false ∧ WellFormed (.twait ⟨1, u0⟩) = false ∧
    WellFormed (.evpop ⟨2, u0⟩) = false := by decide

/-- R212, R245, R244 and Tables 5.5, 9.3: immediates, conditions, combine codes, types, partition sizes, operations. -/
theorem test_illFormed_fields : WellFormed (.shlwi ⟨1, 2, 32, u0⟩) = false ∧ WellFormed (.sari ⟨none, 1, 2, 63, g0⟩) = false ∧
    WellFormed (.cmpwI ⟨6, 0, 1, 2, u0⟩) = false ∧ WellFormed (.isetpEq ⟨none, 0, 3, 1, 2, g0⟩) = false ∧
    WellFormed (.cvtw ⟨1, 2, 0x14, u0⟩) = false ∧ WellFormed (.cvt ⟨none, 1, 2, 0x14, g0⟩) = false ∧
    WellFormed (.sreg ⟨none, 1, 0x13, g0⟩) = false ∧ WellFormed (.xch ⟨1, 2, 32, g0⟩) = false ∧
    WellFormed (.qbc ⟨1, 2, 4, g0⟩) = false ∧ WellFormed (.qsum ⟨1, 2, 3, g0⟩) = false ∧
    WellFormed (.qdiff ⟨1, 2, false, 3, g0⟩) = false ∧ WellFormed (.scantAdd ⟨1, 2, false, 3, g0⟩) = false ∧
    WellFormed (.voteAny ⟨0, 3, 1, g0⟩) = false ∧ WellFormed (.part ⟨1⟩) = false ∧ WellFormed (.part ⟨24⟩) = false ∧
    WellFormed (.part ⟨32⟩) = true ∧ WellFormed (.plop ⟨3, 0, false, 1, false, 2, g0⟩) = false := by decide

/-- R283, R191, R344, R346, Table 5.12: literals of class M, gang phasers, phaser numbers, CSRs. -/
theorem test_illFormed_engines : WellFormed (.mma ⟨0, 0, 0, u0, 6, false, 0, 0, 0, false, 0, 0⟩) = false ∧
    WellFormed (.mma ⟨0, 0, 1, u0, 3, false, 0, 0, 0, false, 0, 0⟩) = false ∧
    WellFormed (.mma ⟨0, 0, 0, u0, 0, false, 0, 5, 0, false, 0, 0⟩) = false ∧
    WellFormed (.mma ⟨0, 0, 0, u0, 0, false, 0, 0, 3, false, 0, 0⟩) = false ∧
    WellFormed (.mma ⟨0, 0, 0, u0, 0, false, 0, 0, 0, false, 0, 62⟩) = false ∧
    WellFormed (.mbound ⟨0, 0, 0, u0, 0, false, 0, 5, 0, false, 0, 0, 4⟩) = false ∧
    WellFormed (.cpym ⟨0, 64, u0, 2, false, false, 0⟩) = false ∧ WellFormed (.cpym ⟨0, 255, u0, 2, false, false, 0⟩) = true ∧
    WellFormed (.quiesce ⟨64, u0⟩) = false ∧ WellFormed (.phregSo ⟨64, u0⟩) = false ∧ WellFormed (.phsig ⟨67, u0⟩) = true ∧
    WellFormed (.phsig ⟨68, u0⟩) = false ∧ WellFormed (.phget ⟨68, 1, u0⟩) = false ∧ WellFormed (.csrr ⟨1, 11, u0⟩) = false ∧
    WellFormed (.csrw ⟨1, 3, u0⟩) = false := by decide

/-! ## Words written out from the encoding tables -/

/-- Class S (Table 5.4): ADDW w4, w2, w3 is opcode 04, d 4, a 2, b 3. -/
theorem test_decode_s : decodeWords .s [0x031020C0] = .ok (.addw ⟨4, 2, 3, u0⟩, 1) := rfl

/-- Class V (Table 5.4): IADD v9, v8, v3; SHLI v10, v9, 3 under @!p2. -/
theorem test_decode_v : decodeWords .v [0x042480C0] = .ok (.iadd ⟨none, 9, 8, 3, g0⟩, 1) ∧
    decodeWords .v [0x142890F2] = .ok (.shli ⟨none, 10, 9, 3, ⟨true, true, 2⟩⟩, 1) := ⟨rfl, rfl⟩

/-- Class F with the prefix of Table 5.9: FFMA v4, v1, v2, v3 masked by p1. -/
theorem test_decode_f : decodeWords .f [0xFF0C2200, 0x04101080] =
    .ok (.ffma ⟨some ⟨3, 0, false, true, 1⟩, 4, 1, 2, g0⟩, 2) := rfl

/-- The Q instructions: QFROM v11, v11, v7; QADD v16, v12, v13 under @p0. -/
theorem test_decode_q : decodeWords .f [0x2B2C91C0] = .ok (.qfrom ⟨none, 11, 9, 7, g0⟩, 1) ∧
    decodeWords .f [0x2640C360] = .ok (.qadd ⟨none, 16, 12, 13, ⟨true, false, 0⟩⟩, 1) := ⟨rfl, rfl⟩

/-- Class L (Tables 5.7, 5.10): LD.32 with displacement 64 and acquire; an atomic with scope .gang. -/
theorem test_decode_l : decodeWords .l [0xFF880040, 0x05202100] =
      .ok (.ld32 ⟨some ⟨2, false, 1, 0, 64⟩, 8, 2, 4, g0⟩, 2) ∧
    decodeWords .l [0xFF580000, 0x162021A0] =
      .ok (.atomAddN32 ⟨some ⟨1, false, 3, 0, 0⟩, 8, 2, 6, ⟨true, false, 0⟩⟩, 2) := ⟨rfl, rfl⟩

/-- Class X (Table 9.3): MATCH, SCANT.add.u32, XCH v10, v0, 1, BRA +6 under @p1. -/
theorem test_decode_x : decodeWords .x [0x0B287000] = .ok (.matchLanes ⟨10, 7, g0⟩, 1) ∧
    decodeWords .x [0x02280040] = .ok (.xch ⟨10, 0, 1, g0⟩, 1) ∧
    decodeWords .x [0x120001A1] = .ok (.bra ⟨6, ⟨true, false, 1⟩⟩, 1) := ⟨rfl, rfl, rfl⟩

/-- Class M (Tables 10.5, 10.6): MMA with its literal, MSTAT, MLAT.k. -/
theorem test_decode_m : decodeWords .m [0x01040500, 0x58924000] =
      .ok (.mma ⟨4, 5, 0, u0, 2, true, 2, 1, 0, true, 1, 8⟩, 2) ∧
    decodeWords .m [0x04161500] = .ok (.mlatK ⟨0x16, 0x15, u0⟩, 1) := ⟨rfl, rfl⟩

/-- Class C (Tables 7.1 to 7.3): CPY with its literal, ENC. -/
theorem test_decode_c : decodeWords .c [0x01030000, 0x21200000] = .ok (.cpy ⟨3, u0, 8, false, true, 1⟩, 2) ∧
    decodeWords .c [0x03030600, 0x60018000] =
      .ok (.enc ⟨3, 6, u0, 24, false, false, 0, 3, 0⟩, 2) := ⟨rfl, rfl⟩

/-- Class Y (Tables 13.8, 14.5): RACQ.c on ring 0, RACQ.p under @!k1, LAUNCH, CSRR, TRAP 5, RTE. -/
theorem test_decode_y : decodeWords .y [0x07000040] = .ok (.racqC ⟨0, u0⟩, 1) ∧
    decodeWords .y [0x07000031] = .ok (.racqP ⟨0, ⟨true, true, 1⟩⟩, 1) ∧
    decodeWords .y [0x09081000] = .ok (.launch ⟨8, 16, u0⟩, 1) ∧
    decodeWords .y [0x0E2800C0] = .ok (.csrr ⟨10, 3, u0⟩, 1) ∧
    decodeWords .y [0x11000140] = .ok (.trap ⟨5, u0⟩, 1) ∧ decodeWords .y [0x12000000] = .ok (.rte ⟨u0⟩, 1) := ⟨rfl, rfl, rfl, rfl, rfl, rfl⟩

/-! ## The spec's worked examples -/

/-- R215: BFE of 0xDEADBEEF. -/
theorem test_bfe : bfeOf 0xDEADBEEF 0x00010C08 = 0xFFFFFDBE ∧ bfeOf 0xDEADBEEF 0x00000C08 = 0x00000DBE := by decide +kernel

/-- R221: FFMA rounds once; FMUL and FADD round twice (the worked case after R221). -/
theorem test_fma_rounds_once : f32Word .rne (Val.add .rne (Val.mul (f32Val 0x3F800800) (f32Val 0x3F800800)) (f32Val 0xBF801000)) =
      0x33800000 ∧
    f32Word .rne (Val.mul (f32Val 0x3F800800) (f32Val 0x3F800800)) = 0x3F801000 ∧
    f32Word .ru (Val.mul (f32Val 0x3F800800) (f32Val 0x3F800800)) = 0x3F801001 ∧
    f32Word .rne (Val.add .rne (f32Val 0x3F801000) (f32Val 0xBF801000)) = 0 ∧
    f32Word .ru (Val.add .ru (f32Val 0x3F801001) (f32Val 0xBF801000)) = 0x34000000 := by decide +kernel

/-- R38, Table 2.7: into e2m1 under scale 0x81; the e4m3 case after it. -/
theorem test_scaled_narrow : (scaledNarrow false 0x0C 0x81 (f32Val 0x41A00000) false).res = 6 ∧
    (scaledNarrow false 0x0C 0x81 (f32Val 0x41200000) false).res = 4 ∧
    (scaledNarrow false 0x0C 0x81 (f32Val 0xBF400000) false).res = 8 ∧
    (scaledNarrow false 0x0C 0x81 (f32Val 0x40400000) false).res = 2 ∧
    (scaledNarrow false 0x08 0x85 (f32Val 0x3F300000) false).res = 6 ∧
    (scaledNarrow true 0x08 0x85 (f32Val 0x3F300000) false).res = 0 ∧
    (scaledNarrow true 0x08 0x85 (f32Val 0x3F300000) false).ftz = true := by decide +kernel

/-- R232, Table 8.10. -/
theorem test_cvtx : (cvtxLane 0 0xD81 0 0x02080406).res = 0x41800000 ∧ (cvtxLane 0 0xD81 1 0x02080406).res = 0x41000000 ∧
    (cvtxLane 0 0xD81 2 0x02080406).res = 0x80000000 ∧ (cvtxLane 0 0xD81 3 0x02080406).res = 0x40800000 := by decide +kernel

/-- R49, Table 2.13. -/
theorem test_q32_words : qEncode (.fin false 1 1) = 0x04000003 ∧ qEncode (.fin true 205 72) = 0xA00048CD ∧
    qEncode (.fin false 8 5) = 0x10000058 ∧ qEncode (.fin true 1 5) = 0x8400000B ∧ qEncode (.fin false 8 315) = 0x100013B8 ∧
    qVal 0xA00048CD = .fin true 205 72 := by decide +kernel

/-- R307: the examples after Table 11.4. -/
theorem test_qclass : qClass 0x84000001 = 1 ∧ qClass 0 = 0x80 ∧ qClass 0x08000001 = 0x140 ∧ qClass 0x08000002 = 0x180 := by
  decide +kernel

/-- R45: 11 recodes to 16 − 4 − 1, 15 to 16 − 1 (true: the term is negative). -/
theorem test_terms : termsOf (.fin false 11 1) = some [(false, 4), (true, 2), (true, 0)] ∧
    termsOf (.fin false 15 1) = some [(false, 4), (true, 0)] := by decide +kernel

/-- R50, Table 2.14: the term 2^−9 falls below the grain, whole. -/
theorem test_chunk_window : contribute false 0 [termsOf (.fin false 14 1), termsOf (.fin false 9 512)]
    [.fin false 256 1, .fin false 1 1] = 0x45600040 := by decide +kernel

/-- R270, Table 10.7: 34 cycles of the worked operation, and 36 with G = 64; t(m, k) of its rows 0 and 40. -/
theorem test_cycles :
    let row := fun (l : List (Nat × Nat)) => (List.range 32).map fun k => ((l.find? fun e => e.1 == k).map (·.2)).getD 0
    let rows := (List.range 64).map fun m => if m = 0 then row [(0, 1), (1, 3), (16, 2), (20, 3)]
      else if m = 40 then row [(2, 2), (3, 1), (17, 1)] else []
    cyclesOf 32 2 2 0 rows = 34 ∧ cyclesOf 64 2 2 0 rows = 36 := by decide +kernel

/-! ## A small machine for the premises of the statements

Context 3 runs a job whose conductor is warp 9; grid 1 has one block, number 1, on core 5 with two vector warps, 1 and 2.
Every translation goes through one cached 1 GiB page that maps addresses to themselves, and window 0 of every target used
permits masters 0 to 127. -/

def grid1 : Grid where
  kernel := ⟨0x8000, 0x1000, 0, 0, 2, 64, 1, 2, 2, 1, 1, 1, false, true, false, [2], [1]⟩
  gr := ⟨1, 1, 1, 32, 1, false, true, false, false, 1, 0x9000, 64, 0, 0, [2]⟩
  st := .running; status := 0; waiting := []; endedBlocks := 0; hinted := []; gph := [⟨0, 0⟩]; hangSince := 0
  paramSegs := []; paramWritten := []; rotatedAt := 0; sent := []

def ring1 : Ring := ⟨2, [], [], ⟨0, false⟩, ⟨0, false⟩, ⟨0, false⟩, ⟨0, false⟩⟩
def bank1 : Bank := ⟨some 0, [], some 0, some 0⟩

def block1 : Block where
  cid := 3; grid := 1; lin := 0; gang := 0; rank := 0; lcore := 5; core := 5; residency := 1; life := .resident
  warps := [1, 2]; tile := []; acc := [bank1, bank1]; phasers := [⟨0, [⟨1, some .sw, none, 0, 0⟩]⟩, ⟨0, []⟩]; rings := [ring1]
  inbound := 0; saveImage := none; since := 0; lastActive := 0

def warp1 : Warp := { Warp.empty with
  cid := 3, grid := 1, blk := 1, core := 5, life := .resident, live := BitVec.allOnes 32, entry := 0x1000 }

def conductor9 : Warp := { Warp.empty with
  cid := 3, role := .control, regs := 0, core := 128, life := .resident, live := 1, entry := 0x1000 }

/-- Valid, leaf, writable, executable; physical address 0. -/
def page : Tlb := ⟨3, 0, 30, 0xF⟩

/-- Window 0 of a target: units 0 to 0x3FFF for masters 0 to 127. -/
def window (t : Nat) : List (Nat × DWord) :=
  let b := 0x100000 + t * 0x2000
  [(b, 0x8000000000000000), (b + 8, 0x3FFF0000), (b + 32, BitVec.allOnes 64), (b + 40, BitVec.allOnes 64),
    (b + 64, BitVec.allOnes 64), (b + 72, BitVec.allOnes 64)]

def die0 : Die := { Die.empty with stc := [page], ctl := window 0 ++ (window 2 ++ window 4) }
def core5 : Core := { Core.empty with tlb := [page], age := [[1], [], [2], []] }

def ctx3 : Context := { Context.empty with
  desc := [0, 0, 0, 0, 0x2000, 0, 0, 0], seq := 1, job := some ⟨0x1000, 0, 0, 0, 9, none⟩, nextGrid := 2, grids := [(1, grid1)] }

def run1 : Run := { Run.idle with wid := 1, core := 5, threads := BitVec.allOnes 32, hdr := 0x1000, words := [0, 0], cls := .v
                                  atClause := false }

def m0 : State := { State.reset with
  warps := [(1, warp1), (2, { warp1 with index := 1, slot := 2 }), (9, conductor9)], blocks := [(1, block1)]
  contexts := [(3, ctx3)], cores := [(5, core5), (128, { Core.empty with age := [[9], [], [], []] })], dies := [(0, die0)]
  focus := run1, ready := true, nextId := 20 }

/-- `m0` with warp 1 changed. -/
def m1 (f : Warp → Warp) : State := { m0 with
  warps := [(1, f warp1), (2, { warp1 with index := 1, slot := 2 }), (9, conductor9)] }

/-- A guard on p0 that holds where p0 is 1; p0 is 1 in lane 3 alone. -/
def gp0 : LGuard := ⟨true, false, 0⟩
def m3 : State := m1 fun w => { w with p := [(3, 1)], v := [(35, 1), (67, 7), (99, 8)] }

/-- An `Except` whose value is known is `.ok` of it. -/
theorem ok_of {ε α : Type} {x : Except ε α} {a : α} (h : x.toOption = some a) : x = .ok a := by
  cases x with
  | error e => simp [Except.toOption] at h
  | ok b => simpa [Except.toOption] using h

/-- An `Except` whose value is no value is an error. -/
theorem error_of {ε α : Type} {x : Except ε α} (h : x.toOption = none) : ∃ e, x = .error e := by
  cases x with
  | error e => exact ⟨e, rfl⟩
  | ok b => simp [Except.toOption] at h

/-! ## Premises of the statements: states and operands that meet them -/

/-- ScalarOneSource, VectorOneSource: the largest immediate; ScalarPairs, VectorPairs: an even destination;
ScalarCompareSelect, VectorCompare, FloatCompare: the last condition and combine codes, and the reserved one. -/
theorem test_premises_operands : (⟨1, 2, 31, u0⟩ : SRI).imm.toNat < 32 ∧ (⟨none, 1, 2, 31, g0⟩ : VRI).imm.toNat < 32 ∧
    (⟨62, 4, 6, u0⟩ : SRR).d.toNat % 2 = 0 ∧ (⟨none, 62, 4, 6, g0⟩ : VRR).d.toNat % 2 = 0 ∧
    (⟨5, 7, 1, 2, u0⟩ : SCS).cond.toNat ≤ 5 ∧ (⟨none, 15, 3, 1, 2, g0⟩ : VCP).m = 3 ∧
    (⟨none, 15, 2, 1, 2, g0⟩ : VCP).m.toNat ≤ 2 := by decide

/-- RegisterReads: no breach; a register that nothing awaits; handler mode. -/
theorem test_premises_RegisterReads : m0.lost m0.self.cid = false ∧ m0.self.unspecAt (m0.self.named (.v 63)) 31 = false ∧
    (RegName.v 63).valid = true ∧ m0.self.pendingAt (m0.self.named (.v 63)) 31 = false ∧
    (m1 fun w => { w with inHandler := true }).self.inHandler = true := by decide +kernel

/-- ScalarFloat: MODE.QM clear and set, under a true and a false guard; with TRAPEN bit 9, 1 ÷ 0 and 1 ÷ 1. -/
theorem test_premises_ScalarFloat :
    let s := m1 fun w => { w with mode := 8, trapen := 0x200, w := [(1, 0x04000003), (2, 0x04000002)] }
    m0.self.mode.getLsbD 3 = false ∧ s.self.mode.getLsbD 3 = true ∧ m0.uholds u0 = true ∧ m0.uholds ⟨true, false, 0⟩ = false ∧
    s.self.trapen.getLsbD 9 = true ∧ (qVal (s.rdW1 2)).isZero = true ∧ (qVal (s.rdW 1)).isNan = false ∧
    (qVal (s.rdW1 1)).isZero = false ∧ WellFormed (.cvtw ⟨1, 2, 0x13, u0⟩) = true := by decide +kernel

/-- LaneGuard: a lane that executes and one that does not. -/
theorem test_premises_LaneGuard : (m3.active gp0).getLsbD 3 = true ∧ (m3.active gp0).getLsbD 31 = false := by decide +kernel

/-- VectorSelectMoves: SREG codes 0 and 0x12 are both codes of Table 5.13. -/
theorem test_premises_VectorSelectMoves : WellFormed (.sreg ⟨none, 1, 0, g0⟩) = true ∧ (⟨none, 1, 0, g0⟩ : VSr).code = 0 ∧
    WellFormed (.sreg ⟨none, 1, 0x12, g0⟩) = true ∧ (⟨none, 1, 0x12, g0⟩ : VSr).code = 0x12 := by decide

/-- Rounding: −∞, the largest f32 code that is no NaN; 2.5 between the e2m1 neighbours 2 and 3; 6.5 and 7, of which only
the second is beyond the largest value 6; 5 ÷ 2 and 4 ÷ 2 for integers. -/
theorem test_premises_Rounding : Fmt.f32 ∈ [Fmt.f32, Fmt.f16, Fmt.bf16, Fmt.e4m3, Fmt.e5m2, Fmt.e2m1] ∧
    0xFF800000 < 2 ^ Fmt.f32.bits ∧ (Fmt.f32.value 0xFF800000).isNan = false ∧ 4 < Fmt.e2m1.top ∧
    (Fmt.e2m1.mag 4).lt (.fin false 5 2) = true ∧ (Val.fin false 5 2).lt (Fmt.e2m1.mag (4 + 1)) = true ∧
    (Fmt.e2m1.mag Fmt.e2m1.top).lt (.fin false 13 2) = true ∧ 5 % 2 ≠ 0 ∧ 4 % 2 = 0 ∧
    (⟨0, 4, false, false, 0⟩ : VPfx).rnd.toNat ≤ 4 := by decide +kernel

theorem test_premises_Rounding_beyond : ¬ Fmt.e2m1.Beyond .rne false (.fin false 13 2) ∧ Fmt.e2m1.Beyond .rne false (.fin false 7 1) := by
  unfold Fmt.Beyond
  decide +kernel

/-- LongLatencyIssue: an active lane and none; TRAPEN bit 9 clear, and set with a zero denominator in lane 3 alone (0 and
the rational zero) and with none. -/
theorem test_premises_LongLatencyIssue :
    let s := m1 fun w => { w with p := [(3, 1)], trapen := 0x200, v := [(35, 0x04000003), (67, 0x04000002)] }
    m3.active gp0 ≠ 0 ∧ m0.active gp0 = 0 ∧ m3.self.trapen.getLsbD 9 = false ∧ s.self.trapen.getLsbD 9 = true ∧
    (s.active gp0).getLsbD 3 = true ∧ s.self.helper.getLsbD 3 = false ∧ (∀ j, j < 3 → (s.active gp0).getLsbD j = false) ∧
    (qVal (s.rdV1 2 3)).isZero = true ∧ (qVal (s.rdV 1 3)).isNan = false ∧ (s.rdV1 3 3 == 0) = true ∧ (qVal (s.rdV 2 3)).isZero = true ∧
    ∀ l, l < 32 → (s.active gp0).getLsbD l = true → (qVal (s.rdV1 1 l)).isZero = false ∧ (s.rdV1 1 l == 0) = false := by
  decide +kernel

/-- Conversions: a code of Table 2.6; legal scale words of CVTS and CVTX, one with a bad code and one with a bit above
bit 13. -/
theorem test_premises_Conversions : (⟨none, 1, 2, 0x13, g0⟩ : VCV).code.toNat < 0x14 ∧
    ((0x0C81#32).toNat / 256) ∈ [0x08, 0x0A, 0x0C, 0x11, 0x12] ∧ ((0x0D81#32).toNat / 256) ∈ [0x09, 0x0B, 0x0D, 0x13] ∧
    ((0x0E81#32).toNat / 256) ∉ [0x08, 0x0A, 0x0C, 0x11, 0x12] ∧ ((0x0E81#32).toNat / 256) ∉ [0x09, 0x0B, 0x0D, 0x13] ∧
    ((0x4C81#32).toNat / 256) ∉ [0x08, 0x0A, 0x0C, 0x11, 0x12] ∧ ((0x4D81#32).toNat / 256) ∉ [0x09, 0x0B, 0x0D, 0x13] := by
  decide +kernel

/-- CountsConversion: an event of one counter; a job, its counter at 2^64 − 1 and its limit below that, at memory that may
be read and written. -/
theorem test_premises_Conversions_count :
    let s := { m0 with mem := Memory.setList (Memory.setList [] 0x1030 (bytes64 (BitVec.allOnes 64))) 0x1050 (bytes64 7) }
    let at_ : DWord := 0x1000 + BitVec.ofNat 64 (0x30 + 8 * 0)
    (s.ctx s.self.cid).job = some ⟨0x1000, 0, 0, 0, 9, none⟩ ∧ (s.warps.get? s.focus.wid).isSome = true ∧
    s.ctxRead64 s.self.core s.self.cid at_ = .ok (BitVec.allOnes 64) ∧
    s.ctxRead64 s.self.core s.self.cid (0x1000 + BitVec.ofNat 64 (0x50 + 8 * 0)) = .ok 7 ∧
    (s.noteCtxHome s.self.core s.self.cid (0x1000 + BitVec.ofNat 64 (0x50 + 8 * 0)) 8).ctxSegments s.self.core s.self.cid .write at_ 8 =
      .ok [(0x1030, 8)] :=
  ⟨by decide +kernel, by decide +kernel, ok_of (by decide +kernel), ok_of (by decide +kernel), ok_of (by decide +kernel)⟩

/-- RationalResults: a finite value that is no zero, NaR, opposite infinities, a zero, and a sum beyond 33,554,431. -/
theorem test_premises_RationalResults : qVal 0xA00048CD = .fin true 205 72 ∧ (205 : Nat) ≠ 0 ∧ qVal 0 = .nan ∧
    qVal 0x04000001 = .inf false ∧ qVal 0x84000001 = .inf (!false) ∧ (qVal 0x04000002).isZero = true ∧
    qVal (qEncode (.fin false 33554431 1)) = .fin false 33554431 1 ∧ qVal 0x04000003 = .fin false 1 1 ∧
    33554431 * (1 * 1) < 33554431 * 1 + 1 * 1 := by decide +kernel

/-- LaneExchange, TileReductions, LaneOpResults: the last legal operation, type and combine code, and the reserved one. -/
theorem test_premises_lanes : (⟨3, 0, false, 1, false, 2, g0⟩ : XPlop).op = 3 ∧ (⟨2, 0, false, 1, false, 2, g0⟩ : XPlop).op.toNat ≤ 2 ∧
    (⟨1, 2, 2, g0⟩ : XTy).ty.toNat ≤ 2 ∧ (⟨1, 2, true, 2, g0⟩ : XScan).ty.toNat ≤ 2 ∧ (⟨0, 2, 1, g0⟩ : XVote).m.toNat ≤ 2 ∧
    (1 : BitVec 2).toNat < 2 := by decide

/-- BranchTraps: in lane 3 a misaligned target (v1 = 1), one that is not canonical (v2, v3), one that is good (v4, v5). -/
theorem test_premises_BranchTraps : (m3.active gp0).getLsbD 3 = true ∧ m3.self.helper.getLsbD 3 = false ∧
    (m3.rdV64 1 3).toNat % 4 ≠ 0 ∧ (∀ j, j < 3 → (m3.active gp0).getLsbD j = true → (m3.rdV64 1 j).toNat % 4 = 0) ∧
    (∀ j, j < 32 → (m3.active gp0).getLsbD j = true → (m3.rdV64 4 j).toNat % 4 = 0 ∧ (m3.rdV64 4 j).toNat < 2 ^ 48) ∧
    let u := m1 fun w => { w with p := [(3, 1)], v := [(99, 0x10000)] }
    (∀ j, j < 32 → (u.active gp0).getLsbD j = true → (u.rdV64 2 j).toNat % 4 = 0) ∧ 2 ^ 48 ≤ (u.rdV64 2 3).toNat ∧
      ∀ j, j < 3 → (u.active gp0).getLsbD j = true → (u.rdV64 2 j).toNat < 2 ^ 48 := by decide +kernel

/-- ExitYieldPart: outside handler mode; a legal tile size. -/
theorem test_premises_ExitYieldPart : m0.self.inHandler = false ∧ WellFormed (.part ⟨2⟩) = true ∧ WellFormed (.part ⟨32⟩) = true := by
  decide +kernel

/-- An operation of warp 1 that has issued from the clause of `run1` in lane 3. -/
def op3 (i : Instr) : Op := { m0.newOp i 8 with srcPending := false }
/-- Warp 1 with one operation in flight, number 15. -/
def mOp (o : Op) : State := m1 fun w => { w with ops := [(15, o)] }

/-- LongLatencyResult: an FDIV, the four rational operations, and the scalar divide and add in flight. -/
theorem test_premises_LongLatencyResult : ∀ i ∈ [Instr.fdiv ⟨none, 4, 1, 2, g0⟩, .qadd ⟨none, 4, 1, 2, g0⟩, .qsub ⟨none, 4, 1, 2, g0⟩,
      .qmul ⟨none, 4, 1, 2, g0⟩, .qdiv ⟨none, 4, 1, 2, g0⟩],
    let q := { op3 i with caps := [⟨.v 1, List.replicate 32 1⟩, ⟨.v 2, List.replicate 32 2⟩], dests := [⟨.v 4, 8⟩] }
    ((mOp q).warp 1).op? 15 = some q ∧ q.isAlu = true ∧ (q.setA = none ∨ q.srcPending = false) ∧ q.dests = [⟨.v 4, 8⟩] ∧
      (RegName.v 4).valid = true ∧ (RegName.v 4).uniform = false := by decide +kernel

theorem test_premises_LongLatencyResult_scalar : ∀ i ∈ [Instr.fdivw ⟨4, 1, 2, u0⟩, .faddw ⟨4, 1, 2, u0⟩],
    let q := { op3 i with caps := [⟨.w 1, [1]⟩, ⟨.w 2, [2]⟩], dests := [⟨.w 4, 1⟩] }
    ((mOp q).warp 1).op? 15 = some q ∧ q.isAlu = true ∧ (q.setA = none ∨ q.srcPending = false) ∧ q.dests = [⟨.w 4, 1⟩] ∧
      (RegName.w 4).valid = true ∧ q.mode.getLsbD 3 = false := by decide +kernel

/-- SpecialInputs: a NaN; a subnormal with MODE.FSI (bit 12) set. -/
theorem test_premises_SpecialInputs : (f32Val 0x7FC00000).isNan = true ∧ (0x1000 : Word).getLsbD 12 = true ∧
    Fmt.f32.subnormal (0x80000001 : Word).toNat = true := by decide +kernel

/-- Lane 3 is active under `gp0`; w4, w5 hold 0x2000; v2 of lane 3 holds 4092, v3 48. -/
def mL : State := m1 fun w => { w with p := [(3, 1)], w := [(4, 0x2000)], v := [(67, 4092), (99, 48)] }
def aLoad : LMem := ⟨none, 8, 1, 4, gp0⟩

/-- GlobalIssue: one lane, aligned, translated, not locked, not denied, for a load, a store and an atomic of 16 and 4
bytes (the f32 add outside deterministic mode). -/
theorem test_premises_GlobalIssue :
    (List.range 32).filter (fun l => (mL.active gp0).getLsbD l && !mL.self.helper.getLsbD l) = [3] ∧
    mL.det mL.self.cid = false ∧ aLoad.px = LPfx.default ∧
    mL.rdW64 4 + (mL.rd (mL.self.dataReg 1) 3).zeroExtend 64 + BitVec.ofInt 64 aLoad.px.disp.toInt = 0x2000 ∧
    (0x2000 : DWord).toNat % 16 = 0 ∧ (0x2000 : DWord).toNat < 2 ^ 48 ∧
    mL.lockHit mL.self .global 0x2000 0x200F true = none ∧ mL.lockHit mL.self .global 0x2000 0x200F false = none ∧
    atomUnsupported .fadd (decide (pxScope aLoad.px = 0) && !(pxBypass aLoad.px || false)) 0x2000 = false ∧
    aLoad.px.order = 0 := by decide +kernel

theorem test_premises_GlobalIssue_page : mL.translate mL.self.core mL.self.cid 0x2000 .read = .ok (0x2000, false) ∧
    mL.translate mL.self.core mL.self.cid 0x2000 .write = .ok (0x2000, false) :=
  ⟨ok_of (by decide +kernel), ok_of (by decide +kernel)⟩

/-- AddressTraps: lane 3 at 0x2001, misaligned for two bytes and more; at 2^48, the lowest address that is not canonical. -/
theorem test_premises_AddressTraps : (mL.active gp0).getLsbD 3 = true ∧ mL.self.helper.getLsbD 3 = false ∧
    (∀ l ∈ [(2, 0), (4, 0), (8, 0), (16, 0)], (mL.rdW64 4 + (mL.rd (.v 1) 3).zeroExtend 64 + BitVec.ofInt 64 1).toNat % l.1 ≠ l.2) ∧
    (∀ j, j < 3 → (mL.active gp0).getLsbD j = false) ∧
    let u := m1 fun w => { w with p := [(3, 1)], w := [(5, 0x10000)] }
    (∀ j, j < 32 → (u.active gp0).getLsbD j = true → (u.rdW64 4 + (u.rd (.v 1) j).zeroExtend 64).toNat % 16 = 0) ∧
      2 ^ 48 = (u.rdW64 4 + (u.rd (.v 1) 3).zeroExtend 64).toNat ∧ ∀ j, j < 3 → (u.active gp0).getLsbD j = false := by
  decide +kernel

/-- OwnMemoryIssue: 16 bytes at 4,080 of 4,096, element 32,767 of bank 1 of 2, the last word of the parameter block. -/
theorem test_premises_OwnMemoryIssue : mL.tileSize mL.self = 4096 ∧ mL.accBanks mL.self = 2 ∧
    (List.range 32).filter (fun l => (mL.active gp0).getLsbD l && !mL.self.helper.getLsbD l) = [3] ∧
    (let x := ((mL.rdV 2 3).toNat : Int) + (-12);
      x % 16 = 0 ∧ 0 ≤ x ∧ x + 16 ≤ mL.tileSize mL.self ∧ mL.lockHit mL.self .tile x.toNat (x.toNat + 15) false = none) ∧
    (let y := ((mL.rdV 2 3).toNat : Int) + 28675;
      0 ≤ y ∧ y = 32767 ∧ mL.lockHit mL.self .acc 1 1 true = none) ∧
    mL.gridOf? mL.self = some grid1 ∧ (((mL.rdV 3 3).toNat : Int) + 12) % 4 = 0 ∧
    ((mL.rdV 3 3).toNat : Int) + 12 + 4 ≤ (grid1.gr.psize : Int) := by
  decide +kernel

theorem test_premises_OwnMemoryIssue_page :
    mL.translate mL.self.core mL.self.cid (grid1.gr.param + BitVec.ofInt 64 60) .read = .ok (0x903C, false) :=
  ok_of (by decide +kernel)

/-- OwnMemoryTraps: an address that is misaligned, one below 0, one whose last byte is just outside. -/
theorem test_premises_OwnMemoryTraps : (mL.active gp0).getLsbD 3 = true ∧ mL.self.helper.getLsbD 3 = false ∧
    (∀ j, j < 3 → (mL.active gp0).getLsbD j = false) ∧ (((mL.rdV 2 3).toNat : Int) + 1) % 4 ≠ 0 ∧
    ((mL.rdV 1 3).toNat : Int) + (-4) < 0 ∧ (mL.tileSize mL.self : Int) < ((mL.rdV 2 3).toNat : Int) + 4 + 4 ∧
    (((mL.gridOf? mL.self).map (·.gr.psize)).getD 0 : Nat) = 64 ∧ (64 : Int) < ((mL.rdV 3 3).toNat : Int) + 16 + 4 ∧
    (∀ j, j < 32 → (mL.active gp0).getLsbD j = true → (((mL.rdV 2 j).toNat : Int) + 4) % 4 = 0) := by decide +kernel

/-- HelperLoads: every active lane is a helper. -/
theorem test_premises_HelperLoads :
    let u := m1 fun w => { w with helper := BitVec.allOnes 32 }
    aLoad.px.order = 0 ∧ (⟨some ⟨2, false, 2, 0, 0⟩, 8, 1, 4, gp0⟩ : LMem).px.order = 2 ∧ u.active g0 &&& ~~~u.self.helper = 0 ∧
    u.active g0 ≠ 0 ∧ (∀ e ∈ u.self.ops, e.1 < u.nextId) := by decide +kernel

/-- FenceAndLines: a release fence; an acquire fence at .blk and at .gang with nothing in flight; a line that CINV may drop.
-/
theorem test_premises_FenceAndLines : (⟨some ⟨2, false, 2, 0, 0⟩, 0⟩ : LFence).px.order.getLsbD 1 = true ∧
    (⟨some ⟨0, false, 1, 0, 0⟩, 0⟩ : LFence).px.order = 1 ∧ pxScope (⟨some ⟨0, false, 1, 0, 0⟩, 0⟩ : LFence).px = 0 ∧
    pxScope (⟨some ⟨1, false, 1, 0, 0⟩, 0⟩ : LFence).px ≠ 0 ∧ mL.self.ops = [] ∧ (mL.active gp0).getLsbD 3 = true ∧
    mL.self.helper.getLsbD 3 = false ∧ mL.globalEA 0 1 4 3 = 0x2000 ∧ mL.denial mL.self.cid .read 0x2000 1 = none := by
  decide +kernel

/-- A one-lane access to 0x2000, its operation, and warp 1 with it. -/
def acc3 : Access where
  lane := 3; addr := 0x2000; key := 0x2000; bypass := true; granted := false; done := false; first := false; data := []; part := none; denied := false

def load3 : Op := { op3 (.ld64 ⟨some ⟨4, false, 0, 3, 0⟩, 8, 1, 4, gp0⟩) with
  size := 8, isLoad := true, accesses := [acc3], dests := [⟨.v 8, 8⟩, ⟨.v 9, 8⟩] }
def store3 : Op := { op3 (.st32 ⟨none, 8, 1, 4, gp0⟩) with
  size := 4, isStore := true, accesses := [{ acc3 with bypass := false }], caps := [⟨.v 8, List.replicate 32 5⟩] }

/-- LoadReturnsMemory: a 64-bit load of one lane, with what its form asks of the access left to `reads`. -/
def loadsAlone (s : State) (q : Op) : Bool :=
  let w := s.warp 1
  (s.warps.get? 1).isSome && w.ops == [(15, q)] && q.isLoad && q.stray == 0
    && q.accesses.all (fun a => !a.done && !a.denied && a.part.isNone && !s.atomicsAhead w.core q.space w.blk s.nextId a.key q.size)
    && decide (q.accesses.map (·.lane)).Nodup && decide (q.dests.map (·.reg)).Nodup
    && q.dests.all (fun d => d.reg.perLane && d.reg.valid && (w.unspec.isEmpty)) && decide (acc3.lane < 32)
    && q.dests.all (·.lanes.getLsbD 3)

/-- LoadReturnsMemory: past the L1, out of the L1, out of tile memory and an accumulator element; a parameter never
stored to. -/
theorem test_premises_LoadReturnsMemory : let s := mOp load3
    loadsAlone s load3 = true ∧ load3.space = .global ∧ load3.isLdc = false ∧ (s.core (s.warp 1).core).outbound = [] ∧
    acc3.bypass = true ∧ s.graftHolds (dieOfCore (s.warp 1).core) acc3.key load3.size = false ∧ splitLink load3.size acc3.key = false ∧
    s.refused (s.warp 1).cid .read acc3.key load3.size = false ∧ s.isBad acc3.key load3.size = false := by decide +kernel

theorem test_premises_LoadReturnsMemory_l1 :
    let q := { load3 with accesses := [{ acc3 with bypass := false }] }
    let s := { mOp q with cores := [(5, { core5 with l1 := (List.range 8).map fun i => (0x2000 + i, some 7) })] }
    loadsAlone s q = true ∧ s.passesL1 (s.warp 1) q { acc3 with bypass := false } = false ∧
    (∀ i, i < q.size → s.l1Byte (s.warp 1).core (acc3.key + i) = (List.replicate 8 (7 : Byte))[i]?) := by decide +kernel

theorem test_premises_LoadReturnsMemory_own :
    let c := { load3 with ins := .ldc ⟨none, 8, 3, gp0⟩, size := 4, dests := [⟨.v 8, 8⟩] }
    (∀ sp ∈ [Space.tile, .acc], loadsAlone (mOp { load3 with space := sp }) { load3 with space := sp } = true) ∧
    c.isLdc = true ∧ loadsAlone (mOp c) c = true ∧ (mOp c).gridOf? ((mOp c).warp 1) = some grid1 ∧
    ∀ i, i < 4 → Sparse.get false grid1.paramWritten (acc3.key + i) = false := by decide +kernel

/-- StoreOrderPoint: a global store, and the same at tile offset 0x2000 and in bank 0. -/
theorem test_premises_StoreOrderPoint : let s := mOp store3
    (s.warps.get? 1).isSome = true ∧ (s.warp 1).ops = [(15, store3)] ∧ store3.isStore = true ∧ store3.atOrder = false ∧
    store3.release = false ∧ (store3.setA = none ∨ store3.srcPending = false) ∧ store3.stray = 0 ∧ store3.space = .global ∧
    s.blocks.get? (s.warp 1).blk = some block1 ∧ store3.accesses = [{ acc3 with bypass := false }] ∧
    acc3.key / 4 / 32768 < block1.acc.length ∧
    (∀ sp ∈ [Space.global, .tile, .acc], s.localAhead (s.warp 1).core sp (s.warp 1).blk acc3.key store3.size = false) := by
  decide +kernel

theorem test_premises_StoreOrderPoint_fence : ∀ f, store3.ins ≠ .fence f := by
  intro f h
  simp [store3, op3, State.newOp] at h

/-- A write of core 5 on its way, and the machine with it. -/
def out3 : Outbound := ⟨1, 15, 3, 3, 0x2000, 0x2000, [5, 0, 0, 0], false⟩
def mOut (e : Outbound) : State := { mOp { store3 with atOrder := true } with
  cores := [(5, { core5 with outbound := [(16, e)] }), (128, { Core.empty with age := [[9], [], [], []] })] }

/-- The conditions of StoreAtHome that are not about the target. -/
def mayReach (s : State) (e : Outbound) : Prop :=
  findKey? 16 (s.core 5).outbound = some e ∧
  (∀ x ∈ (s.core 5).outbound.takeWhile (fun x => x.1 != 16),
    x.2.key + x.2.data.length ≤ e.key ∨ e.key + e.data.length ≤ x.2.key) ∧
  s.atomicsAhead 5 .global 0 16 e.key e.data.length = false ∧
  (remoteTo (dieOfCore 5) e.key = true → s.graftAccepts 5 16 = true) ∧
  ∃ q, (s.warp e.wid).op? e.op = some q ∧ q.isAtomic = false ∧ ∀ a ∈ q.accesses, a.granted = false

theorem mayReach_out3 (e : Outbound) (he : e = out3 ∨ e = { out3 with key := 2 ^ 30 }) : mayReach (mOut e) e := by
  rcases he with rfl | rfl
  all_goals exact ⟨by decide +kernel, by decide +kernel, by decide +kernel, by decide +kernel, { store3 with atOrder := true },
    by decide +kernel, by decide +kernel, by decide +kernel⟩

/-- StoreAtHome: permitted, no copy in the other die's RDC, the home is die 0. -/
theorem test_premises_StoreAtHome : mayReach (mOut out3) out3 ∧ let s := mOut out3
    s.refused out3.cid .write out3.key out3.data.length = false ∧ s.copyOf out3.key out3.data.length = none ∧
    placeOf out3.key = .hbm 0 ∧ linesOf out3.key out3.data.length = [64] :=
  ⟨mayReach_out3 _ (.inl rfl), by decide +kernel⟩

/-- StoreAtHome: a copy in the other die's RDC. -/
theorem test_premises_StoreAtHome_copy :
    let s := { mOut out3 with dies := [(0, { die0 with l2 := [(64, ⟨true, true, false⟩)] })] }
    s.copyOf out3.key out3.data.length = some (0, 64) ∧ s.refused out3.cid .write out3.key out3.data.length = false := by decide +kernel

/-- StoreAtHome: the same write to 2^30, outside every window. -/
theorem test_premises_StoreAtHome_denied : let e := { out3 with key := 2 ^ 30 }
    let q := { store3 with atOrder := true }
    let s := mOut e
    mayReach s e ∧ s.refused e.cid .write e.key e.data.length = true ∧ (s.denial e.cid .write e.key e.data.length).isSome = true ∧
    (s.warp e.wid).ops = [(e.op, q)] ∧ (s.warps.get? e.wid).isSome = true ∧ q.isStore = true ∧ q.isLoad = false ∧
    q.isAtomic = false ∧ q.accesses = [{ acc3 with bypass := false }] ∧ acc3.lane = e.lane ∧ acc3.done = false :=
  ⟨mayReach_out3 _ (.inr rfl), by decide +kernel⟩

/-- AtomicAtHome, AtomicAtCore: an ATOM and a RED of two lanes at one location. -/
def atom3 (i : Instr) (ds : List Dest) : Op := { op3 i with
  size := 4, isAtomic := true, atOrder := true, accesses := [acc3, { acc3 with lane := 4 }], dests := ds
  caps := [⟨.v 8, List.replicate 32 5⟩] }

theorem test_premises_AtomicAtHome : ∀ q ∈ [atom3 (.atomAddN32 aLoad) [⟨.v 8, 24⟩], atom3 (.redAddN32 aLoad) []],
    let s := mOp q
    let w := s.warp 1
    (s.warps.get? 1).isSome = true ∧ w.ops = [(15, q)] ∧ q.isAtomic = true ∧ atomCode q.ins ≠ 0 ∧ q.atOrder = true ∧
    q.space = .global ∧ acc3.bypass = true ∧ acc3 ∈ q.accesses ∧ (q.accesses.map (·.lane)).Nodup ∧
    (∀ b ∈ q.accesses, b.lane < 32 ∧ b.done = false ∧ b.denied = false) ∧ (s.core w.core).outbound = [] ∧
    remoteTo (dieOfCore w.core) acc3.key = false ∧ s.refused w.cid .atomic acc3.key q.size = false ∧ s.isBad acc3.key q.size = false ∧
    s.atomicsAhead w.core .global w.blk q.ord acc3.key q.size = false ∧ q.size = 4 ∧
    q.accesses.filter (fun b => b.key == acc3.key) = q.accesses ∧ (q.dests.map (·.reg)).Nodup ∧ w.unspec = [] := by decide +kernel

theorem test_premises_AtomicAtCore :
    let t := { atom3 (.atomtAddN32 ⟨none, 8, 1, gp0⟩) [⟨.v 8, 24⟩] with space := .tile }
    let a := { acc3 with bypass := false }
    let q := { atom3 (.redAddN32 aLoad) [] with accesses := [a], scope := 0 }
    (mOp t).atomicsAhead 5 .tile 1 t.ord acc3.key t.size = false ∧ ((mOp t).blocks.get? 1).isSome = true ∧ t.isAtomic = true ∧
    t.atOrder = true ∧ acc3 ∈ t.accesses ∧ (t.accesses.map (·.lane)).Nodup ∧
    (mOp q).atomicsAhead 5 .global 1 q.ord a.key q.size = false ∧ q.scope = 0 ∧ a.bypass = false ∧ q.size ≤ 128 - a.key % 128 ∧
    (mOp q).graftHolds (dieOfCore 5) a.key q.size = false ∧ (mOp q).refused ((mOp q).warp 1).cid .atomic a.key q.size = false ∧
    (mOp q).isBad (a.key / 128 * 128) 128 = false ∧ (mOp q).l1Byte 5 a.key = none := by decide +kernel

/-- StoreAndFenceComplete: a performed store; a release fence at .dev whose Graft fence is reported. -/
theorem test_premises_StoreAndFenceComplete :
    (let q := { store3 with atOrder := true, accesses := [{ acc3 with done := true }] };
      let s := mOp q
      (s.warps.get? 1).isSome = true ∧ (s.warp 1).ops = [(15, q)] ∧ q.dests = [] ∧ (s.core (s.warp 1).core).outbound = [] ∧
        q.isStore = true ∧ q.atOrder = true ∧ (∀ a ∈ q.accesses, a.done = true ∧ a.denied = false)) ∧
    let f : LFence := ⟨some ⟨2, false, 2, 0, 0⟩, 0⟩
    let q := { op3 (.fence f) with release := true, fenceDone := true, scope := 3 }
    let s := mOp q
    (s.warps.get? 1).isSome = true ∧ (s.warp 1).ops = [(15, q)] ∧ q.dests = [] ∧
      (s.core (s.warp 1).core).outbound = [] ∧ q.ins = .fence f ∧ q.release = true ∧ 3 ≤ q.scope ∧ q.fenceDone = true ∧
      s.coreMet 1 q.scope (q.cut.getD s.nextId) = true ∧ s.graftCount 5 (q.cut.getD s.nextId) = 0 := by decide +kernel

/-- CacheEvents: a fill, a read on its way to the other die, its data, an invalidation, a clean line and one the other die
has a copy of. -/
theorem test_premises_CacheEvents :
    let far := 8589934592
    let s := { m0 with
      cores := [(5, { core5 with fills := [⟨64, 3, .normal, false⟩], tlb := [] })]
      dies := [(0, { die0 with stc := [], rdcMiss := [(far + 2, true)], graft := [.data far ⟨[1], false⟩, .inval (far + 1)]
                               l2 := [(64, ⟨true, false, false⟩), (65, ⟨true, true, false⟩)] })] }
    (s.core 5).fills.find? (fun f => f.line == 64) = some ⟨64, 3, .normal, false⟩ ∧ (s.core 5).outbound = [] ∧
    s.graftHolds (dieOfCore 5) (128 * 64) 128 = false ∧ s.isBad (128 * 64) 128 = false ∧ inModule (128 * 64) = true ∧
    s.waitingLoads 5 64 = [] ∧ s.readRefused (dieOfCore 5) 3 (128 * 64) 128 = false ∧
    (s.die 0).rdcMiss.get? (far + 2) = some true ∧ s.graftHolds 0 (128 * far) 128 = false ∧ .inval (far + 2) ∉ (s.die 0).graft ∧
    .inval (far + 1) ∈ (s.die 0).graft ∧ (s.die 0).message? far = some (.data far ⟨[1], false⟩) ∧
    (s.die 0).message? (far + 1) = some (.inval (far + 1)) ∧ (s.die 0).l2.get? 64 = some ⟨true, false, false⟩ ∧
    (s.die 0).l2.get? 65 = some ⟨true, true, false⟩ ∧ s.cached 5 3 0x2000 = none ∧ (s.core 5).tlb.length < 512 := by decide +kernel

/-- CacheEvents: a fill that a load waits for. -/
theorem test_premises_CacheEvents_load :
    let a := { acc3 with bypass := false }
    let q := { load3 with accesses := [a] }
    let s := { mOp q with cores := [(5, { core5 with fills := [⟨64, 3, .normal, false⟩] })] }
    s.waitingLoads 5 64 = [(1, 15)] ∧ (s.warp 1).ops = [(15, q)] ∧ (s.warp 1).core = 5 ∧ q.isLdc = false ∧ q.acquire = false ∧
    q.stray = 0 ∧ 128 * 64 ≤ a.key ∧ a.key + q.size ≤ 128 * 64 + 128 ∧ s.waitsFor (s.warp 1) q 64 a = true ∧ a.part = none ∧
    s.refused (s.warp 1).cid .read a.key q.size = false ∧ s.atomicsAhead 5 .global (s.warp 1).blk s.nextId a.key q.size = false := by
  decide +kernel

/-- A machine whose context has page tables: root at 0x10000 with a pointer to 0x11000 and there a 1 GiB leaf. -/
def mPt : State := { m0 with
  cores := [], dies := [], contexts := [(3, { ctx3 with desc := [0x10001, 0, 0, 0, 0x2000, 0, 0, 0] })]
  mem := Memory.setList (Memory.setList [] 0x10000 (toBytes 8 0x11001)) 0x11000 (toBytes 8 0xF) }

/-- CacheEvents: a walk that finds a page and one that finds none. -/
theorem test_premises_CacheEvents_walk : (∃ p lvl ptrs, mPt.walk (dieOfCore 5) 3 0x2000 = .ok (p, lvl, ptrs)) ∧
    (∃ r, mPt.walk (dieOfCore 5) 3 0x7FFFFFFFFFFF = .error r) ∧ mPt.cached 5 3 0x2000 = none ∧
    (0x7FFFFFFFFFFF#64).toNat < 2 ^ 48 := by
  refine ⟨?_, error_of (by decide +kernel), by decide +kernel, by decide +kernel⟩
  have h : ((mPt.walk (dieOfCore 5) 3 0x2000).toOption).isSome = true := by decide +kernel
  obtain ⟨⟨p, lvl, ptrs⟩, h⟩ := Option.isSome_iff_exists.mp h
  exact ⟨p, lvl, ptrs, ok_of h⟩

/-- StepRunsTheDecodedWord: a run in a clause of class V at its first word, IADD v9, v8, v3; and an event that moves. -/
theorem test_premises_StepRunsTheDecodedWord :
    let r := { run1 with words := [0x042480C0, 0] }
    let s := { m0 with runs := [(slotKey 5 0, r)], agenda := [.issue 5 0] }
    s.held = false ∧ s.agenda = .issue 5 0 :: [] ∧ s.runs.get? (slotKey 5 0) = some r ∧ r.bbcDue = 0 ∧ r.atClause = false ∧
    r.core = 5 ∧ r.slot = 0 ∧ (Instr.flitReplay 0).cls = none := by decide +kernel

theorem test_premises_StepRunsTheDecodedWord_word :
    decodeWords .v ([0x042480C0, 0].drop (1 - 1)) = .ok (.iadd ⟨none, 9, 8, 3, g0⟩, 1) := rfl

/-- MemoryStaysCanonical, EveryStepAnswers: the memory of `mPt` is canonical, and a step of it is a next state. -/
theorem test_premises_MemoryStaysCanonical : mPt.MemWf ∧ State.reset.MemWf := by
  unfold State.MemWf
  decide +kernel

/-- DecodeEncode: a legal instruction with a prefix, one with a literal. -/
theorem test_premises_DecodeEncode : WellFormed (.ffma ⟨some ⟨63, 4, true, true, 15⟩, 63, 63, 63, ⟨true, true, 15⟩⟩) = true ∧
    (Instr.ffma ⟨some ⟨63, 4, true, true, 15⟩, 63, 63, 63, ⟨true, true, 15⟩⟩).cls = some .f ∧
    WellFormed (.cpym ⟨255, 255, ⟨true, true, 7⟩, 62, true, true, 7⟩) = true ∧
    (Instr.cpym ⟨255, 255, ⟨true, true, 7⟩, 62, true, true, 7⟩).cls = some .c := by decide

/-! Engine commands. Command 15 of warp 1, copy engine unless said otherwise: -/

def cmd1 (i : Instr) (u : EngineUnit) : Cmd := { m0.newCmd i u [0x3000, 0] with srcPending := false, st := .started }
def mCmd (c : Cmd) : State := { mOp { op3 c.ins with setA := none, setB := none } with cmds := [(15, c)] }
def aCpy : CCpy := ⟨7, u0, 8, false, false, 0⟩

/-- CommandIssue: guards, room, no hold by Graft or an acquire, a structure on no 64-byte boundary, a CPYM with and without
its phaser. -/
theorem test_premises_CommandIssue : m0.uholds u0 = true ∧ m0.uholds ⟨true, false, 0⟩ = false ∧
    m0.noRoom m0.self.core .copy (.cpy aCpy) = false ∧ m0.acquirePending = false ∧
    m0.readHeld m0.self.core m0.self.cid (m0.rd (.w 9) 0 ++ m0.rd (.w 8) 0) (8 * structWords (.cpy aCpy)) = false ∧
    structWords (.cpy aCpy) ≠ 0 ∧ ((m1 fun w => { w with w := [(8, 32)] }).rd (.w 8) 0).toNat % 64 ≠ 0 ∧
    m0.signalling m0.focus.wid 48 = false ∧ (⟨7, 0xFF, u0, 8, false, false, 0⟩ : CCpym).gp = 0xFF := by decide +kernel

/-- CommandIssue: with a write of the core to the structure's line on its way to the other die, the word waits. -/
theorem test_premises_CommandIssue_held :
    let s := { m0 with cores := [(5, { core5 with tlb := [{ page with pte := 0x1000000000F }]
                                                  outbound := [(16, { out3 with key := 2 ^ 40 })] })],
                         dies := [(0, die0), (1, { Die.empty with ctl := [(0x100000, 0x8000010000000000),
                           (0x100008, 0x1003FFF0000), (0x100020, 8)] })] }
    s.readHeld s.self.core s.self.cid 0 (8 * structWords (.cpy aCpy)) = true := by decide +kernel

/-- EngineCommandLife: a queued command that may start, one behind an earlier one, one with a fault. -/
theorem test_premises_EngineCommandLife_start : let c := { cmd1 (.cpy aCpy) .copy with st := .queued }
    let s := mCmd c
    let s' := { s with cmds := [(15, { c with st := .finishing }), (16, c)] }
    s.cmds.get? 15 = some c ∧ (s.warps.get? c.wid).isSome = true ∧ c.unit ≠ .matrix ∧ c.unit ≠ .bound ∧ c.srcPending = false ∧
    c.st = .queued ∧ c.fault = none ∧ s.copyTurn 15 c = true ∧ s.lockClear 15 c = true ∧ s.storesDone 15 c = true ∧
    c.unit = .copy ∧ (∃ e ∈ s'.cmds, e.1 < 16 ∧ e.2.core = c.core ∧ e.2.unit = .copy) ∧
    s'.cmds.get? 16 = some c ∧ ({ c with fault := some (0x14, 0, 0) } : Cmd).fault = some (0x14, 0, 0) ∧ cmdEq c.ins = false ∧
    (s.warp c.wid).ferr.get? (c.setB.getD 12) = none := by decide +kernel

/-- EngineCommandLife: MZERO of bank 1 may complete and its transfer counts nothing. -/
theorem test_premises_EngineCommandLife_complete : let c := cmd1 (.mzero ⟨1, u0⟩) .matrix
    (mCmd c).mayComplete 15 c = true ∧ ((mCmd c).moveData 15 c).2.1 = noEvents ∧ ((mCmd c).moveData 15 c).2.2 = none ∧
    (∀ n ∈ noEvents, n = 0) ∧ ringOf c.ins = none ∧ cmdEq c.ins = false ∧ gangSignal c.ins = false := by decide +kernel

/-- A copy of one byte from virtual address 0x2000 to tile offset 0. -/
def copyShape : List DWord :=
  [0x2000, 0, 0x100001AC688, 0, 0x100000001, 0x100000001, 0x100000001, 1] ++ List.replicate 16 0

/-- EngineCommandLife: a command with EQ that may complete without a fault or an event. -/
theorem test_premises_EngineCommandLife_event : let c := { cmd1 (.cpy { aCpy with eq := true }) .copy with words := copyShape }
    (mCmd c).mayComplete 15 c = true ∧ ((mCmd c).moveData 15 c).2.1 = noEvents ∧ ((mCmd c).moveData 15 c).2.2 = none ∧
    cmdEq c.ins = true ∧ ringOf c.ins = none ∧ gangSignal c.ins = false := by decide +kernel

/-- EngineCommandLife: the event record of a command at the head, with room for it, and a queue that is full. -/
theorem test_premises_EngineCommandLife_record : let c := cmd1 (.cpy { aCpy with eq := true }) .copy
    let s := { mCmd c with contexts := [(3, { ctx3 with evq := [⟨c.record 0, some 15, none⟩] })] }
    let full := { s with mem := Memory.setList [] 0x2000 (toBytes 8 16) }
    (s.ctx 3).evq = [⟨c.record 0, some 15, none⟩] ∧ s.releasedBefore 3 15 c = true ∧ s.cmds.get? 15 = some c ∧
    (∀ e ∈ s.warps, e.2.blocked = none) ∧ ((s.appendRecord (s.jobCore 3) 3 (c.record 0)).toOption.bind id).isSome = true ∧
    (full.appendRecord (full.jobCore 3) 3 (c.record 0)).toOption.map Option.isNone = some true := by decide +kernel

theorem test_premises_EngineCommandLife_flags :
    let s := m1 fun w => { w with busy := 0x800, crossing := some ⟨1, 0x1000⟩ }
    (11 < 12) ∧ s.clauseHolds 1 11 = false ∧ s.completesUnder 1 11 = false ∧ (s.warps.get? 1).isSome = true ∧
    (s.warp 1).crossing = some ⟨1, 0x1000⟩ ∧ (s.warp 1).pend0A = none := by decide +kernel

/-! Transfers: a copy of one byte, and the record of sixteen f32 elements, 1.5 and fifteen zeros, as e4m3 terms. -/

def copy1 : Cmd := { cmd1 (.cpy aCpy) .copy with words := copyShape }
/-- The same into memory at 0x4000. -/
def copyOut : Shape := copyShape.set 1 0x4000 |>.set 2 0x1AC688

theorem test_premises_Transfers : let s := mCmd copy1
    let r : Shape := copyShape
    r.bad = false ∧ copyOut.bad = false ∧ (copyOut.dstTile = false) ∧ s.cmds.get? 15 = some copy1 ∧ (s.blocks.get? copy1.blk).isSome = true ∧ s.mayAccess 15 copy1 = true ∧
    r.order = [[[0, 0, 0, 0, 0, 0, 0]]] ∧ s.mayMove copy1 r 0 = true ∧ r.dstTile = true ∧ r.mcast = 0 ∧
    r.dstAddr [0, 0, 0, 0, 0, 0, 0] = 0 ∧ r.dstBytes ≤ s.cmdTile copy1 ∧ (s.moveData 15 copy1).2.2 = none := by decide +kernel

theorem test_premises_Transfers_bytes : let s := mCmd copy1
    s.CopyBytes copy1 copyShape [[0, 0, 0, 0, 0, 0, 0]] [0] ∧
    (s.noteElems copy1 copyShape (Shape.order copyShape).flatten).CopyBytes copy1 copyShape [[0, 0, 0, 0, 0, 0, 0]] [0] := by
  constructor
  all_goals
    refine ⟨by decide +kernel, [0], rfl, ?_, by decide +kernel⟩
    intro i e y he hy
    match i, he, hy with
    | 0, rfl, rfl =>
      exact ⟨[0], 0x7F, ok_of (by decide +kernel), by rw [if_pos (by decide +kernel)], by
        unfold Shape.Carries
        rw [if_pos (by decide +kernel)]
        decide +kernel⟩

theorem test_premises_Transfers_memory : let c := { copy1 with words := copyOut }
    let s := mCmd c
    s.ctxSegments c.core c.cid .write 0x4000 1 = .ok [(0x4000, 1)] ∧
    (s.noteElems c copyOut [[0, 0, 0, 0, 0, 0, 0]]).ctxSegments c.core c.cid .write 0x4000 1 = .ok [(0x4000, 1)] ∧
    BitVec.ofInt 64 (copyOut.dstAddr [0, 0, 0, 0, 0, 0, 0]) = 0x4000 :=
  ⟨ok_of (by decide +kernel), ok_of (by decide +kernel), by decide +kernel⟩

/-- An MMA whose source range 1 begins at 0x2000, before it has read anything. -/
theorem test_premises_Transfers_early : let c := cmd1 (.mma ⟨4, 5, 0, u0, 1, true, 0, 0, 0, false, 0, 8⟩) .matrix
    let core := { core5 with locks := [⟨0, 15, 15, 3, 1, .matrix, 1, 0, [⟨1, .global, false, 0x2000, 0x20FF⟩]⟩] }
    let s := { mCmd c with cores := [(5, core)] }
    s.mayAccess 15 c = true ∧ s.lockClear 15 c = true ∧ s.storesDone 15 c = true ∧ (s.core c.core).locks = core.locks ∧
    Sparse.get none c.staged 0x2000 = none ∧ (s.ctxRead c.core c.cid 0x2000 1).toOption = some [0] := by decide +kernel

/-- A CPYM to rank 0, the block itself, and one to rank 1, which there is not. -/
theorem test_premises_Transfers_multicast :
    let here : Shape := copyShape.set 2 (0x100001AC688 + 2 ^ 48)
    let c := { cmd1 (.cpym ⟨7, 0xFF, u0, 8, false, false, 0⟩) .copy with words := here, st := .queued }
    let s := mCmd c
    let v := s.updCmd 15 fun x => { x with st := .started, cut := some s.nextId }
    let away : Shape := copyShape.set 2 (0x100001AC688 + 2 ^ 49)
    here.bad = false ∧ away.bad = false ∧ c.srcPending = false ∧ c.fault = none ∧ c.moved = [] ∧ s.copyTurn 15 c = true ∧
    s.lockClear 15 c = true ∧ s.storesDone 15 c = true ∧ here.targets = [0] ∧ v.gangBlock? c 0 = some 1 ∧
    (v.copyWalk c here).2.1 = none ∧ here.dstAddr [0, 0, 0, 0, 0, 0, 0] = 0 ∧ away.targets = [1] ∧ v.gangBlock? c 1 = none := by
  decide +kernel

def tftE : Tbl (List DWord) :=
  [(3, [0x8189000000000000, 0x0000004000000200, 0x0000000100000001, 0, 0, 0, 0, 0]),
    (4, [0x8044000000000040, 0x0000000100000010, 0x0000000100000001, 16, 0, 0, 0, 0]),
    (8, [0x8050000000000000, 0x0000000100000010, 0x0000000100000001, 16, 0, 0, 0, 0])]

def aEnc : CTile := ⟨3, 8, u0, 24, false, false, 0, 0, 0⟩
def enc1 : Cmd := { cmd1 (.enc aEnc) .copy with tft := tftE, ops := [0, 0, 0, 0] }
def mEnc : State := { mCmd enc1 with blocks := [(1, { block1 with acc := [⟨some 0, [(0, some 0x3FC00000)], some 0, some 0⟩, bank1] })] }
/-- 1.5 = 2 − 1/2. -/
def terms15 : List Term := [(false, 1), (true, -1)]
def record15 : List (List Term) := terms15 :: List.replicate 15 []

/-- R102 with R97 to R99: the record that ENC writes reads back as the terms of its elements. -/
theorem test_enc_record : ((mEnc.moveData 15 enc1).1.readRecord enc1 (regionOf enc1 aEnc).dst 0 0).toOption = some record15 := by
  decide +kernel

theorem test_premises_Transfers_enc : let q := regionOf enc1 aEnc
    q.left enc1 = [(0, 0)] ∧ q.dst.space = .tile ∧ q.dst.scaled = false ∧ (mEnc.moveData 15 enc1).2.2 = none ∧
    mEnc.mayAccess 15 enc1 = true ∧ q.dst.rowAddr 0 + q.dst.slot ≤ mEnc.cmdTile enc1 ∧ record15.length = 16 ∧
    (∀ x ∈ record15, x.length ≤ 8) ∧ (record15.map List.length).sum ≤ q.dst.slot - 4 ∧
    (∀ x ∈ record15.flatten, ∀ y ∈ record15.flatten, x.2 - y.2 ≤ 63) ∧
    (∀ x ∈ record15.flatten, ∃ y ∈ record15.flatten, -128 ≤ y.2) ∧ ¬ q.dst.dim 0 ≤ 15 ∧ sourceFmt q.dst.fmt = 4 ∧
    q.src.fmt = 9 ∧ mEnc.accWord enc1.blk q.src.base 0 = 0x3FC00000 ∧
    ∀ i, i < 16 → 0 < i → mEnc.accWord enc1.blk q.src.base i = 0 := by decide +kernel

/-- 1.5 and 0 encode so; with neither a flush bit nor an event. -/
theorem test_premises_Transfers_encodes : EncodesAs 4 (denseVal 9 0x3FC00000) terms15 ∧
    EncodesAs 4 (denseVal 9 0) [] := by
  rw [show denseVal 9 0x3FC00000 = .fin false 12582912 8388608 by decide +kernel, show denseVal 9 0 = .fin false 0 (2 ^ 149) by
    decide +kernel]
  have h : ∀ n d, (n = 12582912 ∧ d = 8388608 ∨ n = 0 ∧ d = 2 ^ 149) → ¬ Fmt.e4m3.Beyond .rne false (.fin false n d) := by
    rintro n d (⟨rfl, rfl⟩ | ⟨rfl, rfl⟩) <;> unfold Fmt.Beyond <;> decide +kernel
  refine ⟨?_, ?_⟩ <;> unfold EncodesAs <;> simp only [Val.isNan, Bool.false_eq_true, if_false]
  · exact ⟨⟨0x3C, false, false, false⟩, terms15, by
      unfold ToFloat; simp [h, floatFmt]; decide +kernel, by decide +kernel, rfl⟩
  · exact ⟨⟨0, false, false, false⟩, [], by unfold ToFloat; simp [h, floatFmt]; decide +kernel, by decide +kernel, rfl⟩

def aDect : CTile := ⟨8, 4, u0, 24, false, false, 0, 0, 0⟩
def dect1 : Cmd := { cmd1 (.dect aDect) .copy with tft := tftE, ops := [0, 0, 0, 0] }
/-- The record that ENC wrote, to be decoded to tile offset 0x40. -/
def mDect : State := { mCmd dect1 with blocks := (mEnc.moveData 15 enc1).1.blocks }

theorem test_premises_Transfers_dect : let q := regionOf dect1 aDect
    q.left dect1 = [(0, 0)] ∧ q.dst.space = .tile ∧ q.src.scaled = false ∧ q.dst.fmt = 4 ∧ (mDect.moveData 15 dect1).2.2 = none ∧
    mDect.mayAccess 15 dect1 = true ∧ (mDect.readRecord dect1 q.src 0 0).toOption = some record15 ∧
    q.dst.rowAddr 0 + 16 ≤ mDect.cmdTile dect1 ∧ ((mDect.moveData 15 dect1).1.tileBytes 1 0x40 2 = [0x3C, 0]) := by decide +kernel

theorem test_premises_Transfers_decodes : DecodesTo 4 0x7F terms15 ⟨0x3C, false, false, false⟩ := by
  have h : ¬ Fmt.e4m3.Beyond .rne false (.fin false 3 2) := by unfold Fmt.Beyond; decide +kernel
  have e : scaledBy false 0x7F (termSum terms15) = .fin false 3 2 := by decide +kernel
  simp only [DecodesTo, floatFmt, e]
  unfold ToFloat
  simp [h]
  decide +kernel

theorem test_premises_Transfers_scale : 8 ∈ ([1, 4, 5, 6, 8] : List Nat) ∧ (0x7F : BitVec 8) ≠ 0xFF ∧
    Val.fin true 3 2 ∈ [Val.fin true 3 2] ∧ (0 < 3 ∧ 0 < 2) := by decide

/-- EngineCommandResults: TFSET, TFSET.ovcur, TFGET, DRAIN, QUIESCE may complete, and what they read and write is there. -/
theorem test_premises_EngineCommandResults : (∀ i ∈ [Instr.tfset ⟨3, 8, u0⟩, .tfsetOvcur ⟨255, 8, u0⟩, .tfget ⟨0, 8, u0⟩,
      .drain ⟨4, 5, u0⟩, .quiesce ⟨0, u0⟩], let c := { cmd1 i .copy with words := List.replicate 8 1 }
    (mCmd c).mayComplete 15 c = true ∧ (mCmd c).cmds.get? 15 = some c ∧ ((mCmd c).warps.get? c.wid).isSome = true ∧
      ((mCmd c).ctxWrite c.core c.cid ((mCmd c).tftVa c.cid 3) (c.words.flatMap bytes64)).toOption.isSome = true ∧
      ((mCmd c).ctxWrite c.core c.cid ((mCmd c).tftVa c.cid 255 + 56) ((bytes64 (c.words.getD 7 0)).take 4)).toOption.isSome = true ∧
      ((mCmd c).ctxRead c.core c.cid ((mCmd c).tftVa c.cid 0) 64).toOption = some (List.replicate 64 0) ∧
      (((mCmd c).noteCtxRead c.core c.cid ((mCmd c).tftVa c.cid 0) 64).ctxWrite c.core c.cid c.structVa
        (List.replicate 64 0)).toOption.isSome = true ∧
      (mCmd c).signalling c.wid 0 = true ∧ ((mCmd c).ctx c.cid).detector = none) := by decide +kernel

theorem test_premises_EngineCommandResults_drain : let c := { cmd1 (.drain ⟨4, 5, u0⟩) .compaction with ops := [7] }
    let q := { op3 c.ins with dests := [⟨.v 4, BitVec.allOnes 32⟩, ⟨.w 5, 1⟩] }
    let s := { mOp q with cmds := [(15, c)], contexts := [(3, { ctx3 with lists := [(7, [⟨42, (0, 0, 0, 0)⟩])] })] }
    (s.warp c.wid).op? 15 = some q ∧ (s.warp c.wid).unspec = [] ∧ namedAs 5 (.w 5) ∧ q.dests = [⟨.v 4, BitVec.allOnes 32⟩, ⟨.w 5, 1⟩] ∧
    s.listFault c .read 7 = none ∧ ((c.ops.getD 0 0).extractLsb' 0 11).toNat = 7 ∧ (s.list c.cid 7)[0]? = some ⟨42, (0, 0, 0, 0)⟩ := by
  unfold namedAs
  decide +kernel

/-- EngineCommandResults: a context at rest with its detector armed for phaser 0, which warp 1 signals; with 255 arrivals; for
phaser 1, where it has no registration. -/
theorem test_premises_EngineCommandResults_detector :
    let s := { m0 with contexts := [(3, { ctx3 with detector := some ⟨1, 1, 0⟩ })] }
    (s.ctx 3).detector = some ⟨1, 1, 0⟩ ∧ s.quiescent 3 = true ∧ s.releasedAt 1 (phScope 0) = true ∧ (s.warp 1).blk = 1 ∧
    s.blockPhaser 1 0 = some ⟨0, [⟨1, some .sw, none, 0, 0⟩]⟩ ∧
    (⟨0, [⟨1, some .sw, none, 0, 0⟩]⟩ : Phaser).reg? 1 = some ⟨1, some .sw, none, 0, 0⟩ ∧
    (⟨1, some .sw, none, 0, 0⟩ : PhReg).signals = true ∧
    (let full := { s with blocks := [(1, { block1 with phasers := [⟨0, [⟨1, some .sw, none, 255, 0⟩]⟩] })] };
      full.quiescent 3 = true ∧ full.releasedAt 1 (phScope 0) = true ∧
        (full.blockPhaser 1 0).bind (·.reg? 1) = some ⟨1, some .sw, none, 255, 0⟩) ∧
    s.releasedAt 1 (phScope 1) = true ∧ s.blockPhaser 1 1 = some ⟨0, []⟩ ∧ (⟨0, []⟩ : Phaser).reg? 1 = none := by decide +kernel

/-- EngineCommandResults: an APPEND with one group of one item, and a list that is full (32 items). -/
theorem test_premises_EngineCommandResults_append :
    let x : Item := ⟨42, (0, 0, 0, 0)⟩
    let c := { cmd1 (.append ⟨1, 2, u0⟩) .compaction with groups := [(7, [x])] }
    let full := { mCmd c with contexts := [(3, { ctx3 with lists := [(7, List.replicate 32 x)] })] }
    c.st = .started ∧ c.fault = none ∧ (mCmd c).releasedBefore 3 15 c = true ∧ (mCmd c).appendAhead 15 c 7 = false ∧
    ((mCmd c).list 3 7).length + 1 ≤ (mCmd c).listCapacity 3 ∧ c.det = false ∧
    full.listCapacity 3 < (full.list 3 7).length + 1 ∧ full.appendAhead 15 c 7 = false := by decide +kernel

/-- EngineCommandResults: an SREAD that ends with a bad status, at a drive that is there and at one that is gone; it had zero
blocks to move. Transfers: the same, and an SWRITE of zero blocks. -/
theorem test_premises_EngineCommandResults_storage :
    let c := { cmd1 (.sread ⟨8, u0⟩) .storage with words := List.replicate 8 0 }
    let s := { mCmd c with drivesUp := 1 }
    c.unit = .storage ∧ c.st = .started ∧ c.fault = none ∧ ringOf c.ins = none ∧ cmdEq c.ins = false ∧ c.signalDue = false ∧
    (s.storageData c false []).2 = none ∧ (s.warp c.wid).ferr.get? (c.setB.getD 12) = none ∧
    ((s.storageData c false []).1.ctxWrite c.core c.cid (c.structVa + 0x20) (toBytes 4 (2 ^ 31 + 1))).toOption.isSome = true ∧
    s.drivesUp.getLsbD (reqDrive c.words) = true ∧ (mCmd c).drivesUp.getLsbD (reqDrive c.words) = false ∧
    c.hazy = [] ∧ c.staged = [] ∧ ([] : List Byte).length = reqBytes c.words ∧
    (∃ u, s.ctxWrite c.core c.cid (reqVa c.words) [] = .ok u) ∧
    ∃ bs, s.ctxRead c.core c.cid (reqVa c.words) (reqBytes c.words) = .ok bs := by
  have h : reqBytes (List.replicate 8 0) = 0 := by simp [reqBytes, reqNlb]
  refine ⟨by decide +kernel, by decide +kernel, by decide +kernel, by decide +kernel, by decide +kernel, by decide +kernel, ?_,
    by decide +kernel, ?_, by decide +kernel, by decide +kernel, rfl, rfl, h.symm, ⟨_, rfl⟩, h ▸ ⟨_, rfl⟩⟩ <;>
    simp only [State.storageData, h] <;> decide +kernel

/-- EngineCommandResults: a delivery into the issuing core's own block, into one on another core, into a saved one. -/
theorem test_premises_EngineCommandResults_multicast :
    let c := { cmd1 (.cpym ⟨7, 0xFF, u0, 8, false, false, 0⟩) .copy with ranks := [0, 1], walked := [(0, some 5), (1, some 6)] }
    let b2 := { block1 with rank := 1, core := 6, warps := [] }
    let s := { mCmd c with blocks := [(1, block1), (2, b2)] }
    c.st = .started ∧ c.fault = none ∧ 1 ∈ c.ranks ∧ s.gangBlock? c 0 = some 1 ∧ s.gangBlock? c 1 = some 2 ∧
    s.blocks.get? 2 = some b2 ∧ b2.life ≠ .saved ∧ b2.core ≠ c.core ∧ block1.core = c.core ∧ (c.walked.map (·.1)).Nodup ∧
    s.multicastLock b2.core 15 2 = false ∧ (s.core b2.core).locks.length < 32 ∧ block1.life ≠ .saved ∧
    (let v := { s with blocks := [(1, block1), (2, { b2 with life := .saved, saveImage := some (0, 0) })] };
      v.gangBlock? c 1 = some 2) := by decide +kernel

/-- EngineCommandResults: a CPYM whose gang signal is due, with its warp signalling phaser 0 and with it no longer so. -/
theorem test_premises_EngineCommandResults_signal :
    let o : CCpym := ⟨7, 0, u0, 8, false, false, 0⟩
    let c := { cmd1 (.cpym o) .copy with signalDue := true, st := .finishing }
    let gone := { mCmd c with blocks := [(1, { block1 with phasers := [⟨0, []⟩] })] }
    c.ins = .cpym o ∧ c.signalDue = true ∧ c.st = .finishing ∧ o.eq = false ∧
    ((mCmd c).blockPhaser c.blk 0).bind (·.reg? c.wid) = some ⟨1, some .sw, none, 0, 0⟩ ∧ (mCmd c).releasedBefore 1 15 c = true ∧
    (let full := { mCmd c with blocks := [(1, { block1 with phasers := [⟨0, [⟨1, some .sw, none, 255, 0⟩]⟩] })] };
      (full.blockPhaser c.blk 0).bind (·.reg? c.wid) = some ⟨1, some .sw, none, 255, 0⟩) ∧
    gone.blockPhaser c.blk 0 = some ⟨0, []⟩ ∧ (⟨0, []⟩ : Phaser).reg? c.wid = none ∧
    ((mCmd c).warp c.wid).ferr.get? (c.setB.getD 12) = none := by decide +kernel

/-! Class M: entries 4 (A, dense e4m3 in tile memory, 16 by 1), 5 (B, 8 by 16), 6 (a projection of rank 8, 16 rows) and 7
(a latent tensor over it). -/

def tftM : Tbl (List DWord) :=
  [(4, [0x8144000000000000, 0x0000000100000010, 0x0000000100000001, 16, 0, 0, 0, 0]),
    (5, [0x8144000000000010, 0x0000001000000008, 0x0000000100000001, 8, 0, 0, 0, 0]),
    (6, [0x8108000000003000, 0x0000001000000008, 0x0000000100000001, 16, 0, 0, 0, 0]),
    (7, [0xC144000000000000, 0x0000000100000008, 0x0000000100000001, 16, 0, 0, 0, 0x0407060600000000])]

def aMma : MMma := ⟨4, 5, 0, u0, 1, true, 0, 0, 0, false, 0, 8⟩

/-- MatrixCommandEvents: an MMA at the head of its queue with idle sub-arrays, one of a whole-array shape behind a running
one; an MZERO; an MMA that may complete. -/
theorem test_premises_MatrixCommandEvents_start :
    let c := { cmd1 (.mma aMma) .matrix with st := .queued }
    let s := mCmd c
    let z := { cmd1 (.mzero ⟨5, u0⟩) .matrix with st := .queued }
    let s' := { s with cmds := [(15, c), (16, { c with ins := .mma { aMma with shape := 1, ab := 0 } })] }
    c.unit = .matrix ∧ c.srcPending = false ∧ c.st = .queued ∧ c.fault = none ∧ s.queueHead 15 c = true ∧ aMma.lat = 0 ∧
    s.busySubs c.core = 0 ∧ s'.queueHead 16 c = false ∧ (mCmd z).queueHead 15 z = true ∧ (mCmd z).cmds.get? 15 = some z ∧
    ({ s' with cmds := [(15, { c with st := .started, subs := 1 }), (16, c)] } : State).busySubs c.core ≠ 0 ∧
    ({ c with fault := some (0x12, 0, 0) } : Cmd).fault = some (0x12, 0, 0) ∧ cmdEq c.ins = false ∧
    (s.warp c.wid).ferr.get? (c.setB.getD 12) = none := by decide +kernel

theorem test_premises_MatrixCommandEvents_mma :
    let c := { cmd1 (.mma aMma) .matrix with tft := tftM, ops := [0, 0, 0] }
    let b := { block1 with tile := (List.range 144).map fun i => (i, some 0x38) }
    let s := { mCmd c with blocks := [(1, b)] }
    s.mmaReady 15 c = true ∧ ((s.mmaOutcome c aMma).toOption).isSome = true ∧ aMma.re = false ∧ c.signalDue = false ∧
    s.blocks.get? c.blk = some b := by decide +kernel

theorem test_premises_MatrixCommandEvents_mstat :
    let c := cmd1 (.mstat ⟨1, 14, u0⟩) .matrix
    let q := { op3 c.ins with dests := [⟨.w 14, 1⟩, ⟨.w 15, 1⟩] }
    let s := { mOp q with cmds := [(15, c)] }
    s.mayComplete 15 c = true ∧ (14 : Reg).toNat % 2 = 0 ∧ s.blocks.get? c.blk = some block1 ∧
    block1.acc[1]? = some bank1 ∧ (s.warp c.wid).op? 15 = some q ∧ (s.warp c.wid).unspec = [] ∧
    q.dests = [RegName.w 14, .w 15].map fun n => ⟨n, 1⟩ := by decide +kernel

theorem test_premises_MatrixCommandEvents_mbound :
    let o : MBnd := ⟨4, 5, 0, u0, 1, false, 0, 0, 0, false, 0, 8, 12⟩
    let c := { cmd1 (.mbound o) .bound with tft := tftM, ops := [0, 0, 0], st := .queued }
    let q := { op3 c.ins with dests := [⟨.w 12, 1⟩] }
    let s := { mOp q with cmds := [(15, c)] }
    c.st = .queued ∧ c.fault = none ∧ c.srcPending = false ∧ c.signalDue = false ∧ (planBound c o).isSome = true ∧
    (s.warp c.wid).op? 15 = some q ∧ (s.warp c.wid).unspec = [] ∧ q.dests = [RegName.w 12].map fun n => ⟨n, 1⟩ := by decide +kernel

/-- MatrixCommandEvents: an MLAT that may read its projection into a free half; a latent MMA whose projection is gone. -/
theorem test_premises_MatrixCommandEvents_latent :
    let c := { cmd1 (.mlatK ⟨6, 7, u0⟩) .matrix with tft := tftM }
    let s := mCmd c
    let o : MMma := ⟨4, 7, 0, u0, 1, true, 0, 0, 2, false, 0, 8⟩
    let d := { cmd1 (.mma o) .matrix with tft := tftM, ops := [0, 0, 0], st := .queued, proj := some ⟨6, 7, false, 3⟩ }
    let s' := mCmd d
    mlatOf c.ins = some (6, 7, false) ∧ s.mlatReady 15 c = true ∧ c.signalDue = false ∧
    ((s.projRows c (tensorOf c.tft 6)).toOption).isSome = true ∧ (s.placeHalf c.core ⟨15, []⟩).isSome = true ∧
    s'.halfOf d = none ∧ o.lat ≠ 0 ∧ s'.queueHead 15 d = true ∧ d.srcPending = false ∧ s'.reloads 15 d = some ⟨6, 7, false, 3⟩ ∧ ((s'.projRows d (tensorOf d.tft 6)).toOption).isSome = true ∧
    (s'.placeHalf d.core ⟨s'.nextId, []⟩).isSome = true := by decide +kernel

/-- MatrixArithmetic: terms of 11 = 16 − 4 − 1; equal numbers of integers; an infinite weight; a row without terms. -/
theorem test_premises_MatrixArithmetic : termsOf (.fin false 11 (2 ^ 3)) = some [(false, 1), (true, -1), (true, -3)] ∧
    ([1, 2] : List Int).length = ([3, -4] : List Int).length ∧ (∃ v ∈ [Val.inf true], v.isNan = true ∨ v.isInf = true) ∧
    (none : AElem) ∈ [none, some []] ∧ (∀ e ∈ ([some [], some []] : List AElem), e = some []) ∧
    (∀ w ∈ [(false, 1, 1)], 0 < w.2.2) ∧ ([[(false, 3)]] : List (List Term)).length = [(false, 1, 1)].length ∧
    (∃ t ∈ ([[(false, 3)]] : List (List Term)).flatten, t.2 = 3) ∧ (∀ t ∈ ([[(false, 3)]] : List (List Term)).flatten, t.2 ≤ 3) ∧
    1 * 2 ^ (-0 : Int).toNat ≤ 1 * 2 ^ (0 : Int).toNat ∧ ¬ 1 * 2 ^ (-(0 - 1) : Int).toNat ≤ 1 * 2 ^ (0 - 1 : Int).toNat := by decide +kernel

/-! Class Y: warp 1 signals and waits on phaser 0 of its block (`block1`), grid phaser 0 has target 2. -/

/-- PhaserInstructions: registered, unregistered, released or with an arrival count of 255, waiting or past, with a request
still pending, idle, alone or with another signaller to come. -/
theorem test_premises_PhaserInstructions :
    let r : PhReg := ⟨1, some .sw, none, 0, 0⟩
    let p : Phaser := ⟨0, [r]⟩
    (m0.warps.get? m0.focus.wid).isSome = true ∧ m0.blockPhaser m0.self.blk 0 = some p ∧ p.reg? 1 = some r ∧
    m0.uholds u0 = true ∧ m0.uholds ⟨true, false, 0⟩ = false ∧ r.signals = true ∧ r.waits = true ∧
    m0.releasedAt 1 (phScope 0) = true ∧ r.a < 255 ∧ p.phase = r.ep ∧ p.idle = false ∧
    m0.blockPhaser m0.self.blk 1 = some ⟨0, []⟩ ∧ (⟨0, []⟩ : Phaser).reg? 1 = none ∧ (⟨0, []⟩ : Phaser).idle = true ∧
    (∀ q ∈ p.regs, q.signals = true → q.a = if q.wid = 1 then 0 else 1) ∧ (∀ q ∈ p.regs, q.pending = none) ∧
    m0.mayPhase 0 false true = true ∧ m0.self.blocked = none ∧ m0.focus.hold = false ∧ (p.signal 1).satisfied 1 = true := by
  decide +kernel

theorem test_premises_PhaserInstructions_other :
    let r : PhReg := ⟨1, some .so, none, 255, 1⟩
    let p : Phaser := ⟨0, [r, ⟨2, some .sw, none, 0, 0⟩]⟩
    let w : PhReg := ⟨1, some .wo, none, 0, 65535⟩
    let s := { m0 with blocks := [(1, { block1 with phasers := [p, ⟨0, [w]⟩] })] }
    s.blockPhaser s.self.blk 0 = some p ∧ p.reg? 1 = some r ∧ r.signals = true ∧ 255 ≤ r.a ∧ r.waits = false ∧
    s.blockPhaser s.self.blk 1 = some ⟨0, [w]⟩ ∧ w.signals = false ∧ w.waits = true ∧ (0 : BitVec 16) ≠ w.ep ∧
    (let x := m1 fun w => { w with ops := [(15, { op3 (.st32 aLoad) with isStore := true })] };
      x.releasedAt 1 (phScope 0) = false ∧ x.releasedAt 1 3 = false) ∧
    (∃ q ∈ p.regs, q.wid ≠ 1 ∧ q.signals = true ∧ q.a = 0) := by decide +kernel

theorem test_premises_PhaserInstructions_grid :
    let s := m1 fun w => { w with gep := [(0, 65535)] }
    (⟨64, u0⟩ : YX).x.toNat = 64 + 0 ∧ m0.gridOf? m0.self = some grid1 ∧ 0 < grid1.gr.gphn ∧ 0 < grid1.gph.length ∧
    m0.releasedAt m0.focus.wid 3 = true ∧ 1 ≤ grid1.gr.gtgt.getD 0 1 ∧ (grid1.phaser 0).arrivals < grid1.gr.gtgt.getD 0 1 ∧
    (grid1.phaser 0).phase = m0.self.gepOf 0 ∧ s.gridOf? s.self = some grid1 ∧ (grid1.phaser 0).phase ≠ s.self.gepOf 0 := by
  decide +kernel

/-- SystemInstructions: ring 0 of the block, pairs and groups, an empty and a filled event queue, LAUNCH by a warp that
may and one that may not, legal partition sizes, PREDWAIT ready and not. -/
theorem test_premises_SystemInstructions :
    let pred := { grid1 with gr := { grid1.gr with pred := 2, early := true } }
    let s := { m0 with contexts := [(3, { ctx3 with grids := [(1, pred), (2, grid1)] })] }
    (m0.warps.get? m0.focus.wid).isSome = true ∧ m0.uholds u0 = true ∧ m0.uholds ⟨true, false, 0⟩ = false ∧
    m0.blocks.get? m0.self.blk = some block1 ∧ block1.rings[(0 : BitVec 3).toNat]? = some ring1 ∧ 1 ≤ ring1.stages ∧
    m0.releasedAt m0.focus.wid 0 = true ∧ (62 : Reg).toNat % 2 = 0 ∧ (60 : Reg).toNat % 4 = 0 ∧ m0.focus.lanes ≠ 0 ∧
    (32 : Word).toNat % 64 ∈ [2, 4, 8, 16, 32] ∧ m0.self.inHandler = false ∧ grid1.gr.lcap = true ∧
    m0.gridOf? m0.self = some grid1 ∧ m0.launchHeld (m0.rdW64 8) = false ∧ m0.self.role ≠ .control ∧ m0.acquirePending = false ∧
    m0.grid? block1.cid block1.grid = some grid1 ∧ m0.predReady m0.self = true ∧ s.predReady s.self = false := by decide +kernel

/-- SystemInstructions: an older acquire that has still to take effect. -/
theorem test_premises_SystemInstructions_acquire :
    let s := m1 fun w => { w with ops := [(15, { load3 with acquire := true })] }
    s.acquirePending = true ∧ s.launchHeld (s.rdW64 8) = true := by decide +kernel

/-- SystemInstructions: a LAUNCH of a good record, of one that breaks the rules, and of one in uncorrectable error. -/
theorem test_premises_SystemInstructions_launch :
    let rec_ : List DWord := [0x3040, 0x100000001, 0x2000000001, 0, 0, 0, 0, 0]
    let hdr : List DWord := [0x1000, 0x2010000, 0x10000, 0, 0x1000100010001, 0, 0, 0]
    let s := { m0 with mem := Memory.setList [] 0x3000 ((rec_ ++ hdr).flatMap bytes64) }
    (s.launch 0x3000).2 = (2, 0) ∧ (s.launch 0x3000).1.focus.stop = false ∧ (m0.launch 0x3000).2.2 ≠ 0 ∧
    (m0.launch 0x3000).1.focus.stop = false ∧ (({ s with bad := [(0x3000, true)] } : State).launch 0x3000).1.focus.stop = true := by
  decide +kernel

theorem test_premises_SystemInstructions_release :
    let s := m1 fun w => { w with ops := [(15, { op3 (.st32 aLoad) with isStore := true })] }
    s.releasedAt s.focus.wid 0 = false ∧ s.releasedAt s.focus.wid 3 = false := by decide +kernel

theorem test_premises_SystemInstructions_queue :
    let s := { m0 with mem := Memory.setList [] 0x2000 (toBytes 8 3) }
    m0.eqCounts m0.self.core m0.self.cid = .ok (0, 0) ∧ s.eqCounts s.self.core s.self.cid = .ok (3, 0) ∧ (3 : DWord) ≠ 0 ∧
    (∃ bs, s.ctxRead s.self.core s.self.cid (s.eqRecord s.self.cid 0) 16 = .ok bs) ∧
    ∃ v, ((s.noteCounts s.self.core s.self.cid).noteCtxRead s.self.core s.self.cid (s.eqRecord s.self.cid 0) 16).ctxWrite s.self.core s.self.cid
      (s.eqBase s.self.cid + 8) (bytes64 (0 + 1)) = .ok v := by
  refine ⟨ok_of (by decide +kernel), ok_of (by decide +kernel), by decide, ?_, ?_⟩
  · exact ⟨_, ok_of (Option.eq_some_of_isSome (by decide +kernel))⟩
  · exact ⟨_, ok_of (Option.eq_some_of_isSome (by decide +kernel))⟩

/-- TrapsAndReturn: a warp of a grid out of handler mode, a handler and none, the conductor, handler mode, a TRAP at the
end of its clause, RTE in handler mode and out of it; boundary values of the trap's flag, word and lane. -/
theorem test_premises_TrapsAndReturn :
    let s := { m0 with mem := Memory.setList [] 0x1010 (toBytes 8 0x7000)
                       focus := { run1 with idx := 2 } }
    let h := m1 fun w => { w with inHandler := true }
    (s.warp 1).inHandler = false ∧ (s.warp 1).grid ≠ 0 ∧ (s.ctx (s.warp 1).cid).job = some ⟨0x1000, 0, 0, 0, 9, none⟩ ∧
    (11 < 12 ∧ 15 < 16 ∧ 31 < 32 ∧ (0x0D : BitVec 8) ≠ 0x10) ∧ (s.warp 9).inHandler = false ∧ (s.warp 9).grid = 0 ∧
    (h.warp 1).inHandler = true ∧ s.focus.wid = 1 ∧ s.focus.hold = false ∧ s.focus.stop = false ∧ s.focus.targets = [] ∧
    s.focus.idx = s.focus.words.length ∧ s.uholds u0 = true ∧ h.self.inHandler = true ∧ h.self.heldWait = none := by decide +kernel

/-- TrapsAndReturn: a handler that interrupted a wait, satisfied since and not. -/
theorem test_premises_TrapsAndReturn_wait :
    let h := fun ep => { (m1 fun w => { w with inHandler := true, heldWait := some (.phaser 0) }) with
      blocks := [(1, { block1 with phasers := [⟨0, [⟨1, some .sw, none, 0, ep⟩]⟩, ⟨0, []⟩] })] }
    (h 0).self.heldWait = some (.phaser 0) ∧ (h 0).focus.wid = 1 ∧ (h 0).self.inHandler = true ∧
    ((h 0).blockPhaser (h 0).self.blk 0).map (·.satisfied 1) = some false ∧
    ((h 65535).blockPhaser (h 65535).self.blk 0).map (·.satisfied 1) = some true := by decide +kernel

theorem test_premises_TrapsAndReturn_handler :
    let s := { m0 with mem := Memory.setList [] 0x1010 (toBytes 8 0x7000) }
    s.ctxRead64 (s.warp 1).core (s.warp 1).cid (0x1000 + 0x10) = .ok 0x7000 ∧
    m0.ctxRead64 (m0.warp 1).core (m0.warp 1).cid (0x1000 + 0x10) = .ok 0 :=
  ⟨ok_of (by decide +kernel), ok_of (by decide +kernel)⟩

/-! Issue, blocks, grids. `mR`: warp 1 holds its clause, so it is Ready; `mN`: no warp does. -/

def mR : State := m1 fun w => { w with fetched := some ⟨0x1000, [0xA3C003FD, 0]⟩ }

/-- SchedulingEvents: a Ready warp, none, one with a trap due; an occupied slot. -/
theorem test_premises_SchedulingEvents_select :
    let d := m1 fun w => { w with pend0F := some ⟨0, 0⟩ }
    let busy := { m0 with runs := [(slotKey 5 0, { run1 with bbcDue := 1 })] }
    (busy.runs.get? (slotKey 5 0)).isSome = true ∧ mR.runs.get? (slotKey 5 0) = none ∧
    (∀ y ∈ mR.ageList 5 0, (mR.warp y).blocked = none) ∧ (mR.ageList 5 0).find? mR.readyWarp = some 1 ∧
    (m0.ageList 5 0).find? m0.readyWarp = none ∧ (mR.warp 1).boundaryTrap = none ∧ (d.ageList 5 0).find? d.readyWarp = some 1 ∧
    (d.warp 1).boundaryTrap = some (0x0F, ⟨0, 0⟩) ∧ (busy.warps.get? run1.wid).isSome = true ∧
    ({ run1 with bbcDue := 1 } : Run).bbcDue ≠ 0 ∧ run1.bbcDue = 0 := by decide +kernel

theorem test_premises_SchedulingEvents_conductor :
    let s := { m0 with warps := [(9, { conductor9 with fetched := some ⟨0x1000, [0xA24003FD, 0]⟩ })] }
    s.runs.get? (slotKey (128 + 0) 0) = none ∧ (∀ y ∈ s.ageList (128 + 0) 0, (s.warp y).blocked = none) ∧
    (s.ageList (128 + 0) 0).find? s.readyWarp = some 9 ∧ (s.warp 9).cid = 3 ∧ (s.warp 9).boundaryTrap = none ∧
    (s.warp 9).cid ≠ 4 := by decide +kernel

theorem test_premises_SchedulingEvents_headRun :
    let v := { warp1 with pk := 3, pc := [(0, 0), (5, 0x800)] }
    v.inHandler = false ∧ v.live ≠ 0 ∧ v.live &&& ~~~v.pk ≠ 0 ∧ v.headRun.1 = 0x800 ∧ v.headRun.2 = 32 := by decide +kernel

theorem test_premises_SchedulingEvents_fetch :
    let w := m0.warp 1
    (w.life = .resident ∧ w.issuing ≠ 0 ∧ m0.hasRun 1 = false ∧ w.fetched.map (·.addr) ≠ some w.headRun.1 ∧ w.blocked = none ∧
      w.boundaryTrap = none ∧ w.crossing = none ∧ w.draining = false ∧ w.unanswered = false ∧ w.core = 5 ∧ w.role ≠ .control ∧
      63 < w.regs ∧ (m0.core 5).rlines.get? (64 * 1 + 63) = none ∧ (m0.core 5).rlines.length + 1 ≤ 4096 ∧
      m0.isBad (m0.regImage w + 128 * 63) 128 = false) := by decide +kernel

theorem test_premises_SchedulingEvents_fetch_clause :
    (∃ t f, m0.fetchClause (m0.warp 1) (m0.warp 1).headRun.1 = .ok (t, f)) ∧
    ∃ r, ({ m0 with cores := [], dies := [] } : State).translate (m0.warp 1).core (m0.warp 1).cid
      ((m0.warp 1).headRun.1.zeroExtend 64) .fetch = .error r := by
  refine ⟨?_, error_of (by decide +kernel)⟩
  have h : (m0.fetchClause (m0.warp 1) (m0.warp 1).headRun.1).toOption.isSome = true := by decide +kernel
  obtain ⟨⟨t, f⟩, h⟩ := Option.isSome_iff_exists.mp h
  exact ⟨t, f, ok_of h⟩

/-- SchedulingEvents: a timed wait, a wait on grid phaser 0 whose phase has passed, a held grid whose START is now. -/
theorem test_premises_SchedulingEvents_waits :
    let s := m1 fun w => { w with blocked := some (.phaser 64), gep := [(0, 65535)] }
    let t := m1 fun w => { w with blocked := some (.time 0) }
    let g := { grid1 with st := .held, gr := { grid1.gr with start := 1 } }
    let u := { m0 with time := 1, contexts := [(3, { ctx3 with grids := [(1, g)] })] }
    (t.warp 1).blocked = some (.time 0) ∧ (0 : DWord).toNat ≤ t.time.toNat ∧ (s.warps.map (·.1)).Nodup ∧
    s.warps.get? 1 = some (s.warp 1) ∧ (s.warp 1).blocked = some (.phaser 64) ∧ (s.warp 1).life = .resident ∧
    (s.warp 1).cid = 3 ∧ (s.warp 1).grid = 1 ∧ s.gridPassed 1 64 = true ∧ u.grid? 3 1 = some g ∧ g.st = .held ∧
    g.gr.start ≤ u.time.toNat ∧ m0.time.toNat < g.gr.start := by decide +kernel

/-! ## Cores: which ones are enabled is the part's (R14), so a witness takes one of them -/

theorem count_pos (b : BitVec 64) : ∀ n, 0 < countBits b n → ∃ i, i < n ∧ b.getLsbD i = true
  | 0, h => by simp [countBits] at h
  | n + 1, h => by
    by_cases hb : b.getLsbD n = true
    · exact ⟨n, by omega, hb⟩
    · simp only [countBits, hb] at h
      obtain ⟨i, hi, hx⟩ := count_pos b n (by simpa using h)
      exact ⟨i, by omega, hx⟩

/-- Some core of each die is enabled. -/
theorem enabled_core (d : Nat) (hd : d < 2) : ∃ c, c < 64 ∧ coreEnabled (64 * d + c) = true := by
  have h : ∃ i, i < 64 ∧ (Config.enmask d).getLsbD i = true := by
    unfold Config.enmask
    split
    · exact count_pos _ 64 (by omega)
    · exact ⟨0, by decide, by decide⟩
  obtain ⟨c, hc, hx⟩ := h
  refine ⟨c, hc, ?_⟩
  simp only [coreEnabled, Bool.and_eq_true, decide_eq_true_eq]
  refine ⟨by omega, ?_⟩
  rw [show (64 * d + c) / 64 = d by omega, show (64 * d + c) % 64 = c by omega]
  exact hx

/-- A span of one core is that core. -/
theorem span_one {c : Nat} (h : coreEnabled c = true) : spanAt c 1 = some [c] := by
  have hmem : c ∈ dieCores (c / 64) := by
    have hc : c < 128 := by
      simp only [coreEnabled, Bool.and_eq_true, decide_eq_true_eq] at h
      exact h.1
    simp [dieCores, enabledCores, h, hc]
  have hs : (dieCores (c / 64)).Pairwise (· < ·) := by
    unfold dieCores enabledCores
    exact (List.pairwise_lt_range.filter _).filter _
  unfold spanAt
  generalize dieCores (c / 64) = l at hmem hs
  have key : ∃ t, l.drop (l.takeWhile (· < c)).length = c :: t := by
    induction l with
    | nil => cases hmem
    | cons a l ih =>
      by_cases ha : a < c
      · have : c ∈ l := by
          rcases List.mem_cons.mp hmem with e | e
          · omega
          · exact e
        simpa [List.takeWhile_cons, ha] using ih this hs.of_cons
      · have : a = c := by
          rcases List.mem_cons.mp hmem with e | e
          · exact e.symm
          · exact absurd (List.rel_of_pairwise_cons hs e) ha
        exact ⟨l, by simp [this]⟩
  obtain ⟨t, ht⟩ := key
  have hl : (l.takeWhile (· < c)).length + 1 ≤ l.length := by
    have := congrArg List.length ht
    simp only [List.length_drop, List.length_cons] at this
    omega
  simp only [h, ht, Nat.mod_one, hl, decide_true, Bool.and_self, beq_self_eq_true, if_true, List.take_succ_cons, List.take_zero]

/-- The only span of one core that starts at a core is that core; every enabled core is one of 128. -/
theorem spans_one {l : List Nat} (h : l ∈ allSpans 1) : ∃ c, c < 128 ∧ l = [c] := by
  obtain ⟨c, hc, hl⟩ := List.mem_filterMap.mp h
  have he : coreEnabled c = true := (List.mem_filter.mp hc).2
  rw [span_one he] at hl
  cases hl
  exact ⟨c, List.mem_range.mp (List.mem_filter.mp hc).1, rfl⟩


/-! Distribution: `gridQ` waits for its one gang on a machine with nothing placed. -/

def gridQ : Grid := { grid1 with st := .queued, waiting := [0] }
def mQ : State := { m0 with warps := [(9, conductor9)], blocks := [], contexts := [(3, { ctx3 with grids := [(1, gridQ)] })] }
/-- A kernel no core has room for. -/
def gridBig : Grid := { gridQ with kernel := { gridQ.kernel with tile := 0x200000 } }
def mBig : State := { mQ with contexts := [(3, { ctx3 with grids := [(1, gridBig)] })] }

/-- DistributionEvents: a queued grid whose turn it is, with room on an enabled core; without room; a CORES grid. -/
theorem test_premises_DistributionEvents : mQ.grid? 3 1 = some gridQ ∧ gridQ.open = true ∧ mQ.mayPlace 3 1 = true ∧
    mQ.nextGang 3 1 gridQ = some 0 ∧ gridQ.queuedOrHeld = true ∧ gridQ.gr.start = 0 ∧ mQ.predMet 3 gridQ = true ∧
    mQ.turnToStart 3 1 = true ∧ gridQ.kernel.cores = false ∧ gridQ.gr.cores = false ∧ mBig.grid? 3 1 = some gridBig ∧
    mBig.mayPlace 3 1 = true ∧ mBig.nextGang 3 1 gridBig = some 0 ∧ mBig.turnToStart 3 1 = true ∧ mQ.outOfTurn 3 = false ∧
    mBig.outOfTurn 3 = false ∧ ({ gridQ.kernel with cores := true } : Kernel).cores = true ∧ mQ.det 3 = false ∧
    ({ ctx3 with sliced := true } : Context).sliced = true := by decide +kernel

theorem test_premises_DistributionEvents_room : ∃ c l, spanAt c gridQ.kernel.span = some l ∧
    mQ.gangFits 3 gridQ.kernel 0 l (gridQ.kernel.gangb * gridQ.kernel.warps) = true ∧
    mBig.gangFits 3 gridBig.kernel 0 l (gridBig.kernel.gangb * gridBig.kernel.warps) = false := by
  obtain ⟨c, hc, he⟩ := enabled_core 0 (by decide)
  rw [Nat.mul_zero, Nat.zero_add] at he
  refine ⟨c, [c], span_one he, ?_⟩
  have h : ∀ c, c < 64 → mQ.gangFits 3 gridQ.kernel 0 [c] (gridQ.kernel.gangb * gridQ.kernel.warps) = true ∧
      mBig.gangFits 3 gridBig.kernel 0 [c] (gridBig.kernel.gangb * gridBig.kernel.warps) = false := by decide +kernel
  exact h c hc

/-- DistributionEvents: a warp that goes on and one that is over, a block with live warps and one whose warps have ended, a
grid with a block left and one with none, with and without an event record, and one that depends on it. -/
theorem test_premises_DistributionEvents_end :
    let w := { warp1 with life := .resident, live := 0 }
    let s := m1 fun _ => w
    let b := { m0 with warps := [(1, { warp1 with life := .ended }), (2, { warp1 with life := .ended }), (9, conductor9)] }
    (m0.warp 1).live ≠ 0 ∧ (s.warp 1).life = .resident ∧ (s.warp 1).grid ≠ 0 ∧ (s.warp 1).live = 0 ∧ (s.warp 1).ops = [] ∧
    s.hasRun 1 = false ∧ (∀ e ∈ s.cmds, e.2.wid ≠ 1) ∧ b.blocks.get? 1 = some block1 ∧ block1.life = .resident ∧
    block1.inbound = 0 ∧ (∀ x ∈ block1.warps, (b.warp x).life = .ended) ∧
    (∃ x ∈ block1.warps, (m0.warp x).life ≠ .ended) := by decide +kernel

theorem test_premises_DistributionEvents_grid :
    let g := { grid1 with endedBlocks := 1, status := 5 }
    let d := { grid1 with st := .held, gr := { grid1.gr with pred := 1 } }
    let s := { m0 with contexts := [(3, { ctx3 with grids := [(1, g), (2, d)] })] }
    s.grid? 3 1 = some g ∧ g.st = .running ∧ g.endedBlocks = g.gr.count ∧ grid1.endedBlocks ≠ grid1.gr.count ∧
    s.performedFor g = true ∧ (∀ e ∈ s.cmds, ¬ (e.2.cid = 3 ∧ e.2.grid = 1)) ∧ (∀ r ∈ (s.ctx 3).evq, r.grid ≠ some 1) ∧
    g.gr.eqrec = false ∧ ({ g.gr with eqrec := true } : GridRec).eqrec = true ∧ g.status ≠ 0 ∧ s.grid? 3 2 = some d ∧
    d.gr.pred = 1 ∧ d.st = .held ∧ d.gr.start = 0 ∧ d.kernel.cores = false ∧ d.gr.cores = false ∧ grid1.status = 0 := by
  decide +kernel

theorem test_premises_DistributionEvents_job :
    let s := { m0 with
      warps := [(9, { conductor9 with live := 0 })], contexts := [(3, { ctx3 with grids := [(1, { grid1 with st := .complete })] })] }
    (s.ctx 3).job = some ⟨0x1000, 0, 0, 0, 9, none⟩ ∧ (s.warp 9).live = 0 ∧ (s.warp 9).ops = [] ∧ s.hasRun 9 = false ∧
    (∀ e ∈ (s.ctx 3).grids, e.2.open = false) ∧ (s.ctx 3).evq = [] ∧
    (∀ k ∈ s.cores, ∀ e ∈ k.2.outbound, e.2.cid ≠ 3) ∧ (∃ e ∈ (m0.ctx 3).grids, e.2.open = true) ∧
    ((s.ctxWrite (s.jobCore 3) 3 (0x1000 + 0x28) (bytes64 s.time)).toOption.bind fun u =>
      (u.ctxWrite (s.jobCore 3) 3 (0x1000 + 0x20) (bytes64 2)).toOption).isSome = true := by decide +kernel

/-! Stops. -/

def jobLim : Job := ⟨0x1000, 50, 0, 0, 9, none⟩

/-- StopEvents: hang limits off, not yet reached, reached; a handler and none; the save limit. -/
theorem test_premises_StopEvents_limits :
    let s := { m0 with time := 50, contexts := [(3, { ctx3 with job := some jobLim })] }
    let h := { s with warps := [(1, { warp1 with inHandler := true })] }
    let w : Walk := ⟨[1], 0, 0, true, none⟩
    let t := { m0 with time := 100000001, contexts := [(3, { ctx3 with job := some jobLim, walk := some w })] }
    s.grid? 3 1 = some grid1 ∧ (s.ctx 3).job = some jobLim ∧ jobLim.hangLim ≠ 0 ∧ s.hangRuns 3 1 grid1 = true ∧
    grid1.hangSince + jobLim.hangLim ≤ s.time.toNat ∧ m0.time.toNat < grid1.hangSince + jobLim.hangLim ∧
    (∃ e ∈ h.warps, e.2.cid = 3 ∧ e.2.grid = 1 ∧ e.2.life = .resident ∧ e.2.inHandler = true) ∧
    (let x := { warp1 with blocked := some (.time 5) };
      let b := { s with warps := [(1, x), (9, conductor9)] };
      (b.warps.filter fun e => e.2.cid == 3 && e.2.grid == 1 && e.2.life == .resident) = [(1, x)] ∧ b.warps.get? 1 = some x ∧
        b.hangRuns 3 1 grid1 = true ∧ x.inHandler = false ∧ x.live ≠ 0 ∧ x.blocked.isSome = true) ∧
    (let u := { t with contexts := [(3, { ctx3 with job := some jobLim, stop := true })] };
      (u.ctx 3).stop = true ∧ u.placedBlocks 3 ≠ [] ∧ (u.ctx 3).stopAt + 100000000 < u.time.toNat) ∧
    (∀ e ∈ s.warps, e.2.blocked = none ∧ e.2.inHandler = false) ∧ s.warps.get? 1 = some warp1 ∧ warp1.live ≠ 0 ∧
    (t.ctx 3).walk = some w ∧ (t.ctx 3).job = some jobLim ∧
    w.since + (if jobLim.saveLim = 0 then 100000000 else jobLim.saveLim) < t.time.toNat := by decide +kernel

/-- StopEvents: a QUANTUM grid (POL 3), its slice of 1 ms over, another context waiting. -/
theorem test_premises_StopEvents_quantum :
    let g := { grid1 with gr := { grid1.gr with pol := 3 } }
    let s := { m0 with time := 1000000, contexts := [(3, { ctx3 with grids := [(1, g)] }), (4, { ctx3 with grids := [(1, gridQ)] })] }
    (∀ e ∈ s.blocks, e.2.cid = 3 ∧ e.2.placedNow = true ∧ s.grid? 3 e.2.grid = some g) ∧ (s.ctx 3).walk = none ∧
    (s.ctx 3).sliceSince + s.quantum 3 ≤ s.time.toNat ∧ m0.time.toNat < (s.ctx 3).sliceSince + s.quantum 3 ∧ s.policy 3 g = 2 ∧
    (∃ c ∈ s.contexts, c.1 ≠ 3 ∧ s.hasWaiting c.1 = true) := by decide +kernel

/-- StopEvents: a context whose slice has ended, and another with a gang that an enabled core has room for. -/
def mTurn : State := { mQ with contexts := [(3, { ctx3 with sliced := true }), (4, { ctx3 with grids := [(1, gridQ)] })] }

theorem test_premises_StopEvents_turn : (mTurn.ctx 3).sliced = true ∧ ∃ c ∈ mTurn.contexts, c.1 ≠ 3 ∧ mTurn.hasWaiting c.1 = true ∧
    mTurn.findsRoom c.1 = true := by
  refine ⟨by decide +kernel, (4, { ctx3 with grids := [(1, gridQ)] }), by decide +kernel, by decide, by decide +kernel, ?_⟩
  obtain ⟨c, hc, he⟩ := enabled_core 0 (by decide)
  rw [Nat.mul_zero, Nat.zero_add] at he
  have mem : [c] ∈ allSpans gridQ.kernel.span :=
    List.mem_filterMap.mpr ⟨c, List.mem_filter.mpr ⟨List.mem_range.mpr (by omega), he⟩, span_one he⟩
  have fits : ∀ c, c < 64 → mTurn.gangFits 4 gridQ.kernel 0 [c] (gridQ.kernel.gangb * gridQ.kernel.warps) = true := by decide +kernel
  have open_ : (gridQ.open && (!gridQ.queuedOrHeld || (gridQ.gr.start == 0 && mTurn.predMet 4 gridQ))) = true := by decide +kernel
  refine List.any_eq_true.mpr ⟨(1, gridQ), by decide +kernel, ?_⟩
  rw [open_, Bool.true_and]
  exact List.any_eq_true.mpr ⟨0, by decide +kernel, List.any_eq_true.mpr ⟨[c], mem, fits c hc⟩⟩

/-- StopEvents: a spinning block, and a gang that waits and fits nowhere. -/
theorem test_premises_StopEvents_rotation :
    let g := { gridBig with st := .placing, gr := { grid1.gr with pol := 3 } }
    let s := { m0 with time := 1000000, contexts := [(3, { ctx3 with grids := [(1, g)] })] }
    (s.grid? 3 1 = some g ∧ s.policy 3 g = 2 ∧ (s.ctx 3).walk = none ∧ g.open = true ∧ s.mayPlace 3 1 = true ∧ g.waiting = [0] ∧
      s.spinning 3 1 = [(1, block1)] ∧ (∀ y ∈ s.spinning 3 1, y ≠ (1, block1) → block1.since < y.2.since) ∧
      g.rotatedAt + s.quantum 3 ≤ s.time.toNat) ∧
    ∀ c ∈ allSpans g.kernel.span, s.gangFits 3 g.kernel 0 c (g.kernel.gangb * g.kernel.warps) = false := by
  refine ⟨by decide +kernel, ?_⟩
  intro c hc
  obtain ⟨x, hx, rfl⟩ := spans_one hc
  clear hc
  revert x
  decide +kernel

/-- StopEvents: a stop asked for, a walk with nothing left, with a stage to go, with all stages done. -/
theorem test_premises_StopEvents_walk :
    let w : Walk := ⟨[1], 0, 0, true, none⟩
    let s := { m0 with contexts := [(3, { ctx3 with walk := some w })] }
    let r := { s with warps := [(1, { warp1 with life := .stopped }), (2, { warp1 with life := .stopped })] }
    ({ ctx3 with stop := true } : Context).stop = true ∧ m0.placedBlocks 3 ≠ [] ∧ (s.ctx 3).walk = some w ∧ s.walkLeft w ≠ [] ∧
    s.walkLeft ⟨[2], 0, 0, true, none⟩ = [] ∧ w.step = 0 ∧
    (s.stages 3 w).find? (fun x => !s.stageDone w x) = some (.vector, 1) ∧ 1 ∈ s.stageWarps w .vector 1 ∧
    (s.warp 1).life = .resident ∧ (s.warp 1).live ≠ 0 ∧ (s.warp 1).restless = false ∧ s.hasRun 1 = false ∧
    (r.stages 3 w).find? (fun x => !r.stageDone w x) = none ∧ r.walkQuiet w = true := by decide +kernel

/-- StopEvents: a block that may be saved (image 0 of die 0), at its walk's first step, and with no image. -/
theorem test_premises_StopEvents_save :
    let w : Walk := ⟨[1], 1, 0, true, none⟩
    let d := { die0 with ctl := [(0x2400, 0x40000001), (0x2408, 4)] ++ die0.ctl }
    let s := { m0 with contexts := [(3, { ctx3 with walk := some w })], dies := [(0, d)] }
    s.blocks.get? 1 = some block1 ∧ (s.ctx block1.cid).walk = some w ∧ block1.placedNow = true ∧ block1.inbound = 0 ∧
    1 ∈ w.blocks ∧ w.migrateTo = none ∧ (∃ x ∈ block1.warps, (s.warp x).life ≠ .ended) ∧ w.step ≠ 0 ∧
    s.pickImage block1 = some (0, 0) ∧ m0.pickImage block1 = none ∧ (∃ y ∈ block1.warps, (s.warps.get? y).isSome = true) := by
  decide +kernel

/-- StopEvents: a save whose warps' control images lie apart from each other and from the block image. -/
theorem test_premises_StopEvents_images :
    let d := { die0 with ctl := [(0x2400, 0x40000001), (0x2408, 4)] ++ die0.ctl }
    let s := { m0 with dies := [(0, d)], warps := [(1, { warp1 with image := (0, 1) }), (2, { warp1 with image := (0, 2) })] }
    let a := fun y => s.ctlImage (s.warp y)
    (a 1 + 1024 ≤ s.imageAddr (0, 0) ∨ s.imageAddr (0, 0) + 0x200000 ≤ a 1) ∧ (a 2 + 1024 ≤ a 1 ∨ a 1 + 1024 ≤ a 2) ∧
    block1.acc.length ≤ 6 ∧ grid1.kernel.tileBytes ≤ 0x100000 ∧ s.grid? 3 1 = some grid1 := by decide +kernel

/-- StopEvents: a saved gang, and an enabled core with room for it. -/
theorem test_premises_StopEvents_restore :
    let b := { block1 with life := .saved, saveImage := some (0, 0) }
    let s := { m0 with blocks := [(1, b)] }
    (s.blocks.get? 1 = some b ∧ s.grid? b.cid b.grid = some grid1 ∧ (s.blocks.map (·.1)).Nodup ∧ s.mayPlace b.cid b.grid = true ∧
      s.outOfTurn b.cid = false ∧
      grid1.turn b.gang = true ∧ (∀ e ∈ s.gangBlocks b.cid b.grid b.gang, e.2.life = .saved ∧ e.2.inbound = 0)) ∧
    ∃ core l, spanAt core grid1.kernel.span = some l ∧ (l.zipIdx.all fun e =>
      Room.has (s.usedOn e.1) (restoreNeed grid1.kernel (s.gangBlocks b.cid b.grid b.gang) e.2)) = true := by
  refine ⟨by decide +kernel, ?_⟩
  obtain ⟨c, hc, he⟩ := enabled_core 0 (by decide)
  rw [Nat.mul_zero, Nat.zero_add] at he
  refine ⟨c, [c], span_one he, ?_⟩
  clear he
  revert c
  decide +kernel

/-- StopEvents: every core holds a migratable block with two of its six accumulator banks, and a gang of grid 2 waits for
five: it fits nowhere, and would on core 0 if the block there moved; a walk that ends in a migration. -/
def gridFive : Grid := { gridQ with kernel := { gridQ.kernel with acc := 5 } }
def mFull : State := { m0 with
  warps := [], blocks := (List.range 128).map fun c => (c + 1, { block1 with core := c, warps := [] })
  contexts := [(3, { ctx3 with grids := [(1, grid1), (2, gridFive)] })] }

theorem test_premises_StopEvents_migration : (∃ c core, c < 64 ∧ coreEnabled core = true ∧ core ≠ c ∧
      mFull.blocks.get? (c + 1) = some { block1 with core := c, warps := [] } ∧ Room.has (mFull.usedOn core) grid1.kernel.need = true ∧
      mFull.wantsMove c 3 2 gridFive = true) ∧
    mFull.grid? 3 1 = some grid1 ∧ grid1.kernel.migr = true ∧ grid1.kernel.gangb = 1 ∧ (mFull.ctx 3).stop = false ∧
    (mFull.ctx 3).walk = none ∧ (3, mFull.ctx 3) ∈ mFull.contexts ∧ (2, gridFive) ∈ (mFull.ctx 3).grids := by
  refine ⟨?_, by decide +kernel, by decide +kernel, by decide +kernel, by decide +kernel, by decide +kernel, by decide +kernel,
    by decide +kernel⟩
  obtain ⟨c, hc, he⟩ := enabled_core 0 (by decide)
  obtain ⟨x, hx, hy⟩ := enabled_core 1 (by decide)
  rw [Nat.mul_zero, Nat.zero_add] at he
  have room : ∀ n, n < 128 → Room.has (mFull.usedOn n) grid1.kernel.need = true := by decide +kernel
  have blk : ∀ n, n < 128 → mFull.blocks.get? (n + 1) = some { block1 with core := n, warps := [] } := by decide +kernel
  refine ⟨c, 64 * 1 + x, hc, hy, by omega, blk c (by omega), room _ (by omega), ?_⟩
  have none : ∀ n, n < 128 → mFull.spanFits 3 gridFive.kernel [n] (gridFive.kernel.gangb * gridFive.kernel.warps) = false := by
    decide +kernel
  have some' : ∀ n, n < 64 → ({ mFull with
      blocks := mFull.blocks.filter fun e => !mFull.isMigratable e.2 || e.2.life == Life.saved } : State).spanFits 3
      gridFive.kernel [n] (gridFive.kernel.gangb * gridFive.kernel.warps) = true := by decide +kernel
  have rest : gridFive.open = true ∧ mFull.mayPlace 3 2 = true ∧ gridFive.gr.start = 0 ∧ mFull.predMet 3 gridFive = true ∧
      mFull.nextGang 3 2 gridFive = some 0 ∧ gridFive.kernel.span = 1 ∧ mFull.virtualFits 3 gridFive.kernel 0 = true := by decide +kernel
  have mem : [c] ∈ allSpans 1 := List.mem_filterMap.mpr ⟨c, List.mem_filter.mpr ⟨List.mem_range.mpr (by omega), he⟩, span_one he⟩
  have all : (allSpans 1).all (fun l => !mFull.spanFits 3 gridFive.kernel l (gridFive.kernel.gangb * gridFive.kernel.warps)) =
      true := by
    rw [List.all_eq_true]
    intro l hl
    obtain ⟨n, hn, rfl⟩ := spans_one hl
    simp [none n hn]
  obtain ⟨h1, h2, h3, h4, h5, h6, h7⟩ := rest
  simp only [State.wantsMove, h1, h2, h3, h4, h5, h6, h7, all, beq_self_eq_true, Bool.and_self, Bool.or_true, Bool.true_and,
    List.any_eq_true, Bool.and_eq_true]
  exact ⟨[c], mem, by simp, some' c hc⟩
/-! Registers and the platform. Context 4 has a good descriptor in die 0's control space and no job. -/

/-- Words 0 to 7 of context 4's descriptor: page-table root 0x10000 and the valid bits. -/
def desc4 : List (Nat × DWord) :=
  [(0x10100, 0x10001), (0x10108, 1), (0x10110, 0x10000000001), (0x10120, 0x2000)]

def mJob : State := { mPt with
  dies := [(0, { Die.empty with ctl := desc4 ++ window 0 })], contexts := [] }

/-- RegisterEvents: the conditions of Table 15.4 one after another, and a JCB that can be read and written. -/
theorem test_premises_RegisterEvents_jobent : let d := mJob.descWord 4
    4 < 64 ∧ (7 : Nat) < 8 ∧ mJob.ready = true ∧ State.reset.ready = false ∧ (mJob.ctx 4).job = none ∧ (m0.ctx 3).job ≠ none ∧
    ((0x1000 : DWord).extractLsb' 48 16 = 0 ∧ (0x1000 : DWord).extractLsb' 0 6 = 0) ∧ (0x1020 : DWord).extractLsb' 0 6 ≠ 0 ∧
    ((d 0).getLsbD 0 = true ∧ (d 1).getLsbD 0 = true ∧ (d 2).getLsbD 0 = true ∧ (d 1).getLsbD 40 = false ∧
      (d 2).getLsbD 40 = true ∧ ((d 4).extractLsb' 0 4).toNat < 13 ∧ ((d 5).extractLsb' 0 4).toNat < 12) ∧
    (mJob.descWord 5 0).getLsbD 0 = false := by decide +kernel

/-- A good JCB, and one with a reserved bit of its word 3 set. -/
theorem test_premises_RegisterEvents_jcb :
    let t := mJob.sampleDesc 4
    let u := ({ mJob with mem := Memory.setList mJob.mem 0x1018 [2] } : State).sampleDesc 4
    (t.ctxRead 128 4 0x1000 256).toOption.map (fun bs => (words64 bs).getD 3 0 >>> 1 == 0) = some true ∧
    ((t.noteCtxRead 128 4 0x1000 256).ctxWrite (128 + 0) 4 (0x1000 + 0x20) (bytes64 1)).toOption.isSome = true ∧
    (u.ctxRead 128 4 0x1000 256).toOption.map (fun bs => (words64 bs).getD 3 0 >>> 1 != 0) = some true := by decide +kernel

/-- RegisterEvents: a JCB whose STATUS may not be written (a page that is not writable). -/
theorem test_premises_RegisterEvents_readonly :
    let s := { mJob with mem := Memory.setList (Memory.setList [] 0x10000 (toBytes 8 0x11001)) 0x11000 (toBytes 8 0x3) }
    ((s.sampleDesc 4).ctxRead 128 4 0x1000 256).toOption.isSome = true ∧
    ∃ f, ((s.sampleDesc 4).noteCtxRead 128 4 0x1000 256).ctxWrite (128 + 0) 4 (0x1000 + 0x20) (bytes64 1) = .error f := by
  exact ⟨by decide +kernel, error_of (by decide +kernel)⟩

/-- RegisterEvents: a JCB at an address that does not translate. -/
theorem test_premises_RegisterEvents_unread : ∃ f, (mJob.sampleDesc 4).ctxRead 128 4 0x7FFFFFFFF000 256 = .error f ∧ f.denial = none := by
  have h : (match (mJob.sampleDesc 4).ctxRead 128 4 0x7FFFFFFFF000 256 with
    | .error f => f.denial.isNone
    | .ok _ => false) = true := by decide +kernel
  cases e : (mJob.sampleDesc 4).ctxRead 128 4 0x7FFFFFFFF000 256 with
  | error f => rw [e] at h; exact ⟨f, rfl, Option.isNone_iff_eq_none.mp h⟩
  | ok b => rw [e] at h; cases h

/-- RegisterEvents: STOPCTL's bits, a stopped context, an invalidation under way that is quiet, sizes of BAR2. -/
theorem test_premises_RegisterEvents_rest :
    let s := { m0 with blocks := [], contexts := [(3, { ctx3 with stop := true })] }
    let x := { m0 with dies := [(0, { die0 with ctl := [(0x1008, 0x20001)] })] }
    (1 : DWord).getLsbD 0 = true ∧ (s.ctx 3).walk = none ∧ m0.placedBlocks 3 ≠ [] ∧ (4 : DWord).getLsbD 2 = true ∧
    (4 : DWord).getLsbD 0 = false ∧ s.stopped 3 = true ∧ (0x8000000000000000 : DWord).getLsbD 63 = true ∧
    (x.ctlWord 0 0x1008).getLsbD 0 = true ∧ x.invQuiet 0 = true ∧ (m0.ctlWord 0 0x1008).getLsbD 0 = false ∧ 9 < 10 ∧ 9 ≤ 9 ∧
    (0x5253 : DWord) ≠ 0x5254 := by decide +kernel

/-- PlatformEvents: accesses through BAR2, by a drive and by a peer, permitted and denied; a link that is up. -/
theorem test_premises_PlatformEvents_access :
    let p := { m0 with linkUp := 1 }
    let a : HostAccess := .write [1, 2, 3, 4]
    accSize a = 4 ∧ 0x2000 + accSize a ≤ 2 ^ (30 + m0.bar2log) ∧ hostAtom a = true ∧ hostAtom (.atomic 0x16 1 0) = true ∧
    (∀ ln ∈ linesOf (m0.bar2Addr 0x2000) (accSize a), m0.targetPermits 0 2 64 true (ln * 128) = true) ∧
    m0.denial 64 (accKind a) (m0.bar2Addr 0x2000) (accSize a) = none ∧
    (∃ ln ∈ linesOf (State.reset.bar2Addr 0x2000) (accSize a), State.reset.targetPermits 0 2 64 true (ln * 128) = false) ∧
    2 ^ (30 + m0.bar2log) < 2 ^ 30 + accSize a ∧ p.linkUp.getLsbD 0 = true ∧ oneRequest 0x2000 (accSize a) = true ∧
    peerAtom a = true ∧ (∀ ln ∈ linesOf 0x2000 (accSize a), p.targetPermits (0 / 18) (4 + 0 % 18) (96 + 0) true (ln * 128) = true) ∧
    p.denial (96 + 0) (accKind a) 0x2000 (accSize a) = none ∧
    (∃ ln ∈ linesOf 0x2000 (accSize a), State.reset.targetPermits (0 / 18) (4 + 0 % 18) (96 + 0) true (ln * 128) = false) := by
  decide +kernel

/-- PlatformEvents: a read of bytes in uncorrectable error, and one of good ones; a die at 105 °C and one that is cool. -/
theorem test_premises_PlatformEvents_bad :
    let s := { m0 with bad := [(0x2000, true)], linkUp := 1 }
    s.readsBad 0x2000 (.read 4) = true ∧ m0.readsBad 0x2000 (.read 4) = false ∧ s.bar2Addr 0x2000 = 0x2000 ∧
    s.readsBad 0x2000 (.write [1]) = false ∧ ({ s with temperature := 1680 } : State).hot 0 = true ∧ s.hot 0 = false := by
  decide +kernel

/-- PlatformEvents: a started command on a drive that is removed; a context with a job. -/
theorem test_premises_PlatformEvents_drive :
    let c := { cmd1 (.sread ⟨8, u0⟩) .storage with words := List.replicate 8 3 }
    let s := mCmd c
    (∀ e ∈ m0.cmds, e.2.unit ≠ .storage) ∧ s.cmds = [(15, c)] ∧ c.unit = .storage ∧ c.st = .started ∧ c.fault = none ∧
    reqDrive c.words = 3 ∧ (∀ e ∈ m0.warps, ∀ o ∈ e.2.ops, ∀ x ∈ o.2.accesses, x.denied = false) ∧ (m0.ctx 3).job ≠ none ∧ (m0.ctx 4).job = none := by decide +kernel

/-- PlatformEvents: a warp to sample and none, a full ring; a resident warp's cluster with a context. -/
theorem test_premises_PlatformEvents_sample :
    let s := m1 fun w => { w with samplecfg := 1 }
    (nextSample (s.sampled 5) (s.core 5).sampleNext).isSome = true ∧ nextSample (m0.sampled 6) (m0.core 6).sampleNext = none ∧
    (let d := { die0 with smpPut := 256 }; let capacity := 2 ^ ((d.smpRing.extractLsb' 48 4).toNat + 8)
      capacity ≤ (d.smpPut - d.smpGet).toNat) ∧
    (1, warp1) ∈ m0.warps ∧ warp1.role ≠ .control ∧ warp1.life = .resident ∧ clusterOfCore warp1.core = 1 ∧
    (m0.contexts.get? warp1.cid).isSome = true ∧ m0.loweredBy 1 = 0 ∧
    (∀ e ∈ m0.warps, e.2.role = .control ∨ e.2.life ≠ .resident ∨ clusterOfCore e.2.core ≠ 7) := by decide +kernel

/-- PlatformEvents: the power limit kept and exceeded, a cluster to lower and none, one to restore and none. -/
theorem test_premises_PlatformEvents_power :
    let one := { m0 with clusterLevel := (List.range 32).map fun k => (k, 1) }
    let low := { m0 with lowerLog := [31] }
    3600000 ≤ 1000 * m0.powerLimit ∧ 1000 * m0.powerLimit < 3600001 ∧ (∀ k, k < 32 → (one.levelOf k).toNat ≤ 1) ∧
    1 < (m0.levelOf 31).toNat ∧ (∀ j, j < 32 → (m0.levelOf j).toNat ≤ (m0.levelOf 31).toNat) ∧
    (∀ j, j < 32 → m0.levelOf j = m0.levelOf 31 → j ≤ 31) ∧ m0.lowerLog = [] ∧ low.lowerLog = 31 :: [] := by decide +kernel

/-- PlatformEvents: the steps of bring-up (R420), each reached by a state. -/
theorem test_premises_PlatformEvents_bringUp : State.reset.bringup ∈ [0, 1, 7] ∧
    (∀ n ∈ [2, 3, 4, 5, 6, 8, 9], ({ State.reset with bringup := n } : State).bringup = n) := by decide +kernel

/-- AtomicResults and LoadedValues have no premises. ScalarInteger, VectorInteger, VectorFloat, FloatMinMaxClass and
Branches have none either. ResetState speaks of one state. -/
theorem test_premises_ResetState : State.reset.MemWf := by unfold State.MemWf; decide

/-! Witnesses of clauses that speak of more: unspecified bytes, what Graft holds, range locks, uncorrectable errors. -/

/-- VectorSelectMoves: the block and the grid of warp 1, whose linear index 0 is at (0, 0, 0). -/
theorem test_premises_VectorSelectMoves_block : m0.blocks.get? m0.self.blk = some block1 ∧ m0.gridOf? m0.self = some grid1 ∧
    0 < grid1.gr.nx ∧ 0 < grid1.gr.ny ∧ block1.lin = (0 * grid1.gr.ny + 0) * grid1.gr.nx + 0 ∧
    (∀ k ∈ [3, 4, 5, 6, 7, 8, 9, 0x0A, 0x0B, 0x0C, 0x0E, 0x0F], WellFormed (.sreg ⟨none, 1, k, g0⟩) = true) := by decide +kernel

/-- SpecialInputs: exact cases (1/2, 1/√0.25, √4, 2^3, log₂ 8), the ends of EX2, a reciprocal that FSO
flushes, one whose nearest word is finite and within the bound. -/
theorem test_premises_SpecialInputs_exact :
    f32Val 0x40000000 = .fin false (2 ^ 23) (2 ^ 22) ∧ f32Val 0x3F000000 = .fin false (2 ^ 23) (2 ^ 24) ∧
    2 ^ 23 * 2 ^ 23 = 2 ^ 24 * 2 ^ 22 ∧ f32Val 0x3E800000 = .fin false (2 ^ 23) (2 ^ 25) ∧
    2 ^ 23 * 2 ^ 23 * 2 ^ 23 = 2 ^ 22 * 2 ^ 22 * 2 ^ 25 ∧ f32Val 0x40800000 = .fin false (2 ^ 23) (2 ^ 21) ∧
    2 ^ 23 * 2 ^ 23 * 2 ^ 21 = 2 ^ 22 * 2 ^ 22 * 2 ^ 23 ∧ f32Val 0x41000000 = .fin false (2 ^ 23) (2 ^ 20) ∧
    f32Val 0x40400000 = .fin false 12582912 4194304 ∧ 12582912 = 3 * 4194304 ∧ 2 ^ 23 = 2 ^ 3 * 2 ^ 20 ∧
    (f32Val 0x43000000).lt (.fin false 128 1) = false ∧
    (f32Val 0xC3170000).lt (.fin true 150 1) = true ∧ (Val.fin false (2 ^ 126) 1).lt (f32Val 0x7F000000) = true ∧
    (f32Val (f32Word .rne (.fin false 4194304 12582912))).isInf = false ∧
    Special.rcp.within 12582912 4194304 (.fin false 4194304 12582912) (f32Word .rne (.fin false 4194304 12582912)) = true := by
  decide +kernel

/-- CountsConversion: with a job at 0x1000, no event of the first and third counters and some of the second: a chain whose
one proper step begins in the state itself. -/
theorem test_premises_Conversions_chain :
    (∃ old, m0.ctxRead64 m0.self.core m0.self.cid (0x1000 + BitVec.ofNat 64 (0x30 + 8 * 1)) = .ok old) ∧
    (∃ lim, m0.ctxRead64 m0.self.core m0.self.cid (0x1000 + BitVec.ofNat 64 (0x50 + 8 * 1)) = .ok lim) ∧
    ∃ u, (m0.noteCtxHome m0.self.core m0.self.cid (0x1000 + BitVec.ofNat 64 (0x50 + 8 * 1)) 8).ctxWrite m0.self.core m0.self.cid
      (0x1000 + BitVec.ofNat 64 (0x30 + 8 * 1)) (bytes64 1) = .ok u :=
  ⟨⟨_, ok_of (Option.eq_some_of_isSome (by decide +kernel))⟩, ⟨_, ok_of (Option.eq_some_of_isSome (by decide +kernel))⟩,
    ⟨_, ok_of (Option.eq_some_of_isSome (by decide +kernel))⟩⟩

/-- A range lock of command 16 on global bytes 0x2000 to 0x20FF, tile bytes 0 to 0xFFF and bank 1, all destinations. -/
def locked5 : Core := { core5 with locks := [⟨0, 16, 16, 3, 1, .copy, 1, 0,
  [⟨1, .global, true, 0x2000, 0x20FF⟩, ⟨2, .tile, true, 0, 0xFFF⟩, ⟨3, .acc, true, 1, 1⟩]⟩] }

/-- AddressTraps, OwnMemoryIssue: a lane stopped by a lock in global, tile and accumulator memory. -/
theorem test_premises_AddressTraps_lock : let s := { mL with cores := [(5, locked5)] }
    (s.lockHit s.self .global 0x2000 0x2003 true).isSome = true ∧ (s.lockHit s.self .tile 0 3 false).isSome = true ∧
    (s.lockHit s.self .acc 1 1 true).isSome = true ∧ s.lockHit s.self .acc 0 0 true = none := by decide +kernel

/-- AddressTraps: an atomic minimum in host memory, which it lacks, through a page that maps address 0 to 2^41; a walk that
meets an uncorrectable error. -/
theorem test_premises_AddressTraps_target : atomUnsupported .minI false (2 ^ 41) = true ∧ atomUnsupported .add false (2 ^ 41) = false ∧
    AtomOp.ofCode (atomCode (.atomMinI32 aLoad)) = .minI ∧ (decide (pxScope aLoad.px = 0) && !(pxBypass aLoad.px || false)) = false ∧
    (match ({ mL with cores := [(5, { core5 with tlb := [{ page with pte := 0x2000000000F }] })] } : State).translate 5 3 0x2000 .write with
      | .ok x => x == (2 ^ 41 + 0x2000, false)
      | .error _ => false) = true ∧
    (match ({ mPt with bad := [(0x10000, true)] } : State).translate 5 3 0x2000 .read with
      | .ok _ => false
      | .error r => r == 16) = true := by decide +kernel

/-- LoadReturnsMemory, AtomicAtHome, AtomicAtCore, CacheEvents, PlatformEvents: specified bytes; StoreAtHome, AtomicAtHome: no
earlier access of another core. -/
theorem test_premises_specified :
    (∀ i, i < 128 → Sparse.get false (mOp load3).vague (acc3.key / 128 * 128 + i) = false) ∧
    (mOut out3).acceptedBefore false 5 16 out3.key out3.data.length = false ∧
    (mOp (atom3 (.atomAddN32 aLoad) [])).acceptedBefore false 5 8 acc3.key 4 = false ∧ out3.key / 128 * 128 = acc3.key := by
  decide +kernel

/-- StepRunsTheDecodedWord: a clause whose sources are read, and one with long-latency words. -/
theorem test_premises_StepRunsTheDecodedWord_long : run1.long = false ∧ ({ run1 with long := true } : Run).long = true := by decide

/-- CommandIssue: nothing that it samples is held; with a write to the line of its Tensor Form Table entry on its way, it
is. -/
theorem test_premises_CommandIssue_samples :
    let cmd := m0.newCmd (.enc aEnc) .copy [0, 0]
    let far := { page with pte := 0x1000000000F }
    let s := { m0 with cores := [(5, { core5 with tlb := [far], outbound := [(16, { out3 with key := 2 ^ 40 + 0x2000 + 64 * 3 })] })],
                       dies := [(0, die0), (1, { Die.empty with ctl := [(0x100000, 0x8000010000000000),
                         (0x100008, 0x1003FFF0000), (0x100020, 8)] })] }
    m0.samplesHeld { cmd with proj := m0.self.proj } [] = false ∧ namedEntries (.enc aEnc) = [3, 8] ∧
    s.readHeld cmd.core cmd.cid (2 ^ 13 + 64 * 3) 64 = true := by decide +kernel

/-- EngineCommandLife, Transfers, MatrixCommandEvents: a command whose sources are read, as an operation and as a command; the
event queue's counts are not held. -/
theorem test_premises_EngineCommandLife_read : let c := { cmd1 (.cpy aCpy) .copy with st := .queued }
    let s := mCmd c
    c.srcPending = false ∧ (∀ e ∈ s.warps, e.1 = c.wid → ∀ q ∈ e.2.ops, q.1 = 15 → q.2.srcPending = false) ∧
    s.readHeld (s.jobCore 3) 3 (s.eqBase 3) 16 = false := by decide +kernel

/-- EngineCommandLife, SystemInstructions: with a write to the queue's line on its way from another core of the die, its
counts are held. -/
theorem test_premises_EngineCommandLife_held :
    let far := { page with pte := 0x1000000000F }
    let s := { m0 with cores := [(5, { core5 with tlb := [far], outbound := [(16, { out3 with key := 2 ^ 40 + 0x2000 })] }),
                                 (128, { Core.empty with tlb := [far], age := [[9], [], [], []] })],
                       dies := [(0, { die0 with stc := [far] }), (1, { Die.empty with ctl := [(0x100000, 0x8000010000000000),
                         (0x100008, 0x1003FFF0000), (0x100020, 8)] })] }
    s.readHeld s.self.core s.self.cid (s.eqBase s.self.cid) 16 = true ∧ s.readHeld (s.jobCore 3) 3 (s.eqBase 3) 16 = true ∧
    m0.readHeld m0.self.core m0.self.cid (m0.eqBase m0.self.cid) 16 = false ∧
    m0.readHeld m0.self.core m0.self.cid (m0.eqRecord m0.self.cid 0) 16 = false := by decide +kernel

/-- Transfers: the one write of a copy meets no later one; DECT rows whose elements do not overlap. -/
theorem test_premises_Transfers_meet : let s := mCmd copy1
    (∀ i : Nat, i < 1 → meet ((s.noteElems copy1 copyShape [[0, 0, 0, 0, 0, 0, 0]]).placesOf copy1 true (0 + (i : Int)) 1)
      (((s.noteElems copy1 copyShape [[0, 0, 0, 0, 0, 0, 0]]).putPlaces copy1 copyShape).drop (0 + 1)).flatten = false) ∧
    (regionOf dect1 aDect).twice 0 0x40 = false := by decide +kernel

/-- EngineCommandResults: a TFSET that has one word left, another whose OVCUR is written, room among the range locks. -/
theorem test_premises_EngineCommandResults_tfset :
    let c := { cmd1 (.tfset ⟨3, 8, u0⟩) .copy with words := List.replicate 8 1, moved := [0, 1, 2, 3, 4, 5, 6] }
    let d := { cmd1 (.tfsetOvcur ⟨3, 8, u0⟩) .copy with words := List.replicate 8 1, moved := [7] }
    let s := mCmd c
    s.mayComplete 15 c = true ∧ (mCmd d).mayComplete 15 d = true ∧ 7 ∈ d.moved ∧
    (∀ i, i < 8 → i ∈ c.moved ∨ i = 7) ∧ s.freeLocks 6 ≠ 0 ∧
    (s.ctxWrite c.core c.cid (s.tftVa c.cid 3 + BitVec.ofNat 64 (8 * 7)) (bytes64 (c.words.getD 7 0))).toOption.isSome = true := by
  decide +kernel

/-- MatrixCommandEvents: a bank whose last command's counts are known. -/
theorem test_premises_MatrixCommandEvents_counts : bank1.modelled = some 0 ∧ bank1.measured = some 0 := by decide

/-- PhaserInstructions: an idle phaser, and one that is not and has no phase to complete; one whose only signaller has arrived
and takes a new mode at once. -/
theorem test_premises_PhaserInstructions_settle :
    let p : Phaser := ⟨0, [⟨2, some .sw, none, 0, 0⟩]⟩
    p.idle = false ∧ p.ready = false ∧ p.reg? 1 = none ∧
    (⟨5, [⟨1, some .wo, none, 1, 4⟩]⟩ : Phaser).regs = [⟨1, some .wo, none, 1, 4⟩] ∧ PhMode.sw ≠ PhMode.wo := by decide

/-- PhaserInstructions: that registration completes a phase (R345). -/
theorem test_phaser_settles : ((⟨5, [⟨1, some .wo, none, 1, 4⟩]⟩ : Phaser).register 1 .sw).phase = 6 := by decide

/-- SchedulingEvents: a clause that nothing holds, a walk in uncorrectable error, a register image in one. -/
theorem test_premises_SchedulingEvents_held : let w := m0.warp 1
    m0.fetchHeld w w.headRun.1 16 = false ∧
    ({ m0 with bad := [(m0.regImage w + 128 * 63, true)] } : State).isBad (m0.regImage w + 128 * 63) 128 = true ∧
    walkCode 16 = 0x10 ∧ walkCode 3 = 5 := by decide +kernel

/-- SchedulingEvents: a clause on a line of the other die to which a write of the core is on its way. -/
theorem test_premises_SchedulingEvents_graft :
    let s := { m0 with cores := [(5, { core5 with tlb := [{ page with pte := 0x1000000000F }]
                                                  outbound := [(16, { out3 with key := 2 ^ 40 + 0x1000 })] })] }
    s.fetchHeld (s.warp 1) (s.warp 1).headRun.1 1 = true := by decide +kernel

/-- StopEvents: a saved block with an image in uncorrectable error. -/
theorem test_premises_StopEvents_bad :
    let b := { block1 with life := .saved, saveImage := some (0, 0) }
    let s := { m0 with blocks := [(1, b)] }
    ({ s with bad := [(s.imageAddr (0, 0) + 0x1C0000, true)] } : State).imageBad b = true ∧ s.imageBad b = false := by decide +kernel

end Sys2Proof.Tests
end

section
/-! Which outcomes a step has: `exec`, an issue slot, a move and a step, each in turn, answer a next state. -/

namespace Sys2Proof.Machine

/-- Every arm of the dispatch, of a word and of an event alike, ends in a next state: what the spec makes a fault is a
trap entry, an error status or a termination within that state (R2, R375). -/
theorem exec_eq_next (i : Instr) (s : State) : ∃ t, exec i s = .next t := by
  cases i <;> exact ⟨_, rfl⟩

/-- An issue slot answers whether or not it has a word to run: a word that decodes runs as `exec` says. -/
theorem issueMove_eq_next (s : State) (core slot : Nat) : ∃ t, issueMove s core slot = .next t := by
  unfold issueMove
  cases s.issueWord core slot with
  | error t => exact ⟨t, rfl⟩
  | ok word =>
    obtain ⟨t, i, n⟩ := word
    obtain ⟨u, hu⟩ := exec_eq_next i t
    exact ⟨u.issued n, by simp only [hu]⟩

theorem move_eq_next (s : State) (m : Move) : ∃ t, move s m = .next t := by
  cases m with
  | event i =>
    by_cases hi : (Instr.cls i).isNone = true
    · obtain ⟨t, ht⟩ := exec_eq_next i s
      exact ⟨t, by rw [move, if_pos hi, ht]⟩
    · exact ⟨s, by rw [move, if_neg hi]⟩
  | issue core slot => exact issueMove_eq_next s core slot
  | orderPoint wid => exact ⟨s.orderPoint wid, rfl⟩
  | transfer id k => exact ⟨s.transferPart id k, rfl⟩
  | tick ns => exact ⟨s.tick ns, rfl⟩
  | sense value => exact ⟨s.sense value, rfl⟩

/-- A module held after an uncorrectable error or in reset (R406, R415) answers too: a move it does not allow changes nothing. -/
theorem moveIfAllowed_eq_next (s s' : State) (m : Move) :
    ∃ t, (if m.allowed s then move s' m else .next s') = .next t := by
  split
  · exact move_eq_next s' m
  · exact ⟨s', rfl⟩

/-- The agent that moves is the head of the agenda or, with nothing listed, a free one. -/
theorem step_safe (s : State) : s.Safe := by
  unfold State.Safe step
  cases s.agenda with
  | nil => exact moveIfAllowed_eq_next ..
  | cons m rest => exact moveIfAllowed_eq_next ..

/-- Settles O40: no agent's move has a fault or a refusal among its outcomes. -/
theorem everyStepAnswers : Obligations.EveryStepAnswers := fun s => step_safe s

end Sys2Proof.Machine
end

section
/-! What each operation of the model makes of memory: it leaves it as it is (`_mem`), or, where it writes, it keeps the
canonical form (`_memWf`). One lemma per operation, in the order of the model's files. -/

namespace Sys2Proof

variable {α : Type}

/-- Entries dropped or changed in value keep the canonical form where no changed value is the default. -/
theorem Sparse.wf_filterMap [DecidableEq α] {d : α} {f : Nat × α → Option (Nat × α)} {m : Sparse α}
    (hk : ∀ e e', f e = some e' → e'.1 = e.1) (hd : ∀ e ∈ m, ∀ e', f e = some e' → e'.2 ≠ d)
    (h : Sparse.wf d m = true) : Sparse.wf d (m.filterMap f) = true := by
  simp only [Sparse.wf, Bool.and_eq_true, List.all_eq_true, decide_eq_true_eq] at h ⊢
  refine ⟨?_, fun e' he' => ?_⟩
  · have hs := h.1
    clear h hd
    induction m with
    | nil => rfl
    | cons e t ih =>
      obtain ⟨ha, ht⟩ := (sortedKeys_cons _ _).1 hs
      rw [List.filterMap_cons]
      cases hf : f e with
      | none => exact ih ht
      | some e' =>
        refine (sortedKeys_cons _ _).2 ⟨fun x hx => ?_, ih ht⟩
        obtain ⟨y, hy, hxy⟩ := List.mem_filterMap.1 hx
        rw [hk e e' hf, hk y x hxy]
        exact ha y hy
  · obtain ⟨e, he, hf⟩ := List.mem_filterMap.1 he'
    exact hd e he e' hf

end Sys2Proof

namespace Sys2Proof.Machine

@[simp] theorem Memory.wf_setList (m : List Host.Cell) (k : Nat) (bs : List Byte) (h : Memory.wf m = true) :
    Memory.wf (Memory.setList m k bs) = true := Sparse.wf_setList _ bs m k h

@[simp] theorem Memory.wf_set (m : List Host.Cell) (k : Nat) (b : Byte) (h : Memory.wf m = true) :
    Memory.wf (Memory.set m k b) = true := Sparse.wf_set _ m k b h

/-- Steps that leave memory as it is, taken in turn, leave it as it is. -/
@[simp] theorem State.foldl_mem {α : Type} {f : State → α → State} (hf : ∀ s a, (f s a).mem = s.mem) (l : List α)
    (s : State) : (l.foldl f s).mem = s.mem := by
  induction l generalizing s with
  | nil => rfl
  | cons a l ih => exact (ih _).trans (hf s a)

/-- Steps that keep the canonical form, taken in turn, keep it. -/
theorem State.foldl_memWf {α : Type} {f : State → α → State}
    (hf : ∀ s a, Memory.wf s.mem = true → Memory.wf (f s a).mem = true) (l : List α) (s : State)
    (h : Memory.wf s.mem = true) : Memory.wf (l.foldl f s).mem = true := by
  induction l generalizing s with
  | nil => exact h
  | cons a l ih => exact ih _ (hf s a h)

theorem State.MemWf.congr {s t : State} (h : s.MemWf) (ht : t.mem = s.mem) : t.MemWf := by
  rwa [State.MemWf, ht]

theorem State.MemWf.foldl {α : Type} {f : State → α → State} (hf : ∀ s a, s.MemWf → (f s a).MemWf) (l : List α)
    {s : State} (h : s.MemWf) : (l.foldl f s).MemWf := State.foldl_memWf hf l s h

/-- The same of steps that may fault: the first fault ends the fold. -/
theorem State.foldlExcept_memWf {α : Type} {f : State → α → Except AccFault State}
    (hf : ∀ s a t, Memory.wf s.mem = true → f s a = .ok t → Memory.wf t.mem = true) (l : List α) {s t : State}
    (h : Memory.wf s.mem = true)
    (ht : l.foldl (fun (acc : Except AccFault State) a => match acc with
      | .error e => .error e
      | .ok t => f t a) (.ok s) = .ok t) : Memory.wf t.mem = true := by
  induction l generalizing s with
  | nil => cases ht; exact h
  | cons a l ih =>
    rw [List.foldl_cons] at ht
    cases ha : f s a with
    | ok u => exact ih (hf s a u h ha) (by simpa [ha] using ht)
    | error e =>
      have stuck (l : List α) : l.foldl (fun (acc : Except AccFault State) a => match acc with
          | .error e => .error e
          | .ok t => f t a) (.error e) = .error e := by
        induction l with
        | nil => rfl
        | cons _ _ ih => exact ih
      simp [ha, stuck] at ht

/-! ## Records and caches -/

@[simp] theorem State.noteActive_mem (s : State) (b : Nat) : (s.noteActive b).mem = s.mem := rfl

@[simp] theorem State.updGrid_mem (s : State) (cid g : Nat) (f : Grid → Grid) : (s.updGrid cid g f).mem = s.mem := rfl

@[simp] theorem State.canopyPut_mem (s : State) (d line : Nat) (dirty : Bool) :
    (s.canopyPut d line dirty).mem = s.mem := rfl

@[simp] theorem State.l2Drop_mem (s : State) (d line : Nat) : (s.l2Drop d line).mem = s.mem := by
  simp only [State.l2Drop]
  repeat' split
  all_goals simp

@[simp] theorem State.l2Fill_mem (s : State) (d line : Nat) (first : Bool) : (s.l2Fill d line first).mem = s.mem := by
  simp only [State.l2Fill]
  repeat' split
  all_goals simp

@[simp] theorem State.l2Write_mem (s : State) (d line : Nat) (first : Bool) :
    (s.l2Write d line first).mem = s.mem := by simp [State.l2Write]

@[simp] theorem State.noteHome_mem (s : State) (key n : Nat) (first : Bool) :
    (s.noteHome key n first).mem = s.mem := by
  unfold State.noteHome
  split <;> simp

@[simp] theorem State.noteRead_mem (s : State) (die key n : Nat) (first : Bool) :
    (s.noteRead die key n first).mem = s.mem := by
  unfold State.noteRead
  repeat' split
  · simp
  · exact State.foldl_mem (fun _ _ => by split <;> simp) _ _
  · rfl

@[simp] theorem State.noteReads_mem (s : State) (die : Nat) (l : List (Nat × Nat)) (first : Bool) :
    (s.noteReads die l first).mem = s.mem := by simp [State.noteReads]

/-! ## Traps, translation, accesses on a context's behalf -/

@[simp] theorem State.breach_mem (s : State) (cid : Nat) : (s.breach cid).mem = s.mem := rfl

@[simp] theorem State.wr_mem (s : State) (n : RegName) (l : Nat) (x : Word) : (s.wr n l x).mem = s.mem := rfl

@[simp] theorem State.wr64_mem (s : State) (r : Nat) (x : DWord) : (s.wr64 r x).mem = s.mem := rfl

@[simp] theorem State.noteStore_mem (s : State) (key n : Nat) : (s.noteStore key n).mem = s.mem := rfl

@[simp] theorem State.homeWriteAs_memWf (s : State) (first : Bool) (key : Nat) (bs : List Byte)
    (h : Memory.wf s.mem = true) : Memory.wf (s.homeWriteAs first key bs).mem = true := by
  unfold State.homeWriteAs
  split <;> simp [h]

@[simp] theorem State.homeWrite_memWf (s : State) (key : Nat) (bs : List Byte) (h : Memory.wf s.mem = true) :
    Memory.wf (s.homeWrite key bs).mem = true := by simp [State.homeWrite, h]

theorem State.MemWf.homeWrite {s : State} (h : s.MemWf) (key : Nat) (bs : List Byte) : (s.homeWrite key bs).MemWf :=
  State.homeWrite_memWf s key bs h

@[simp] theorem State.blur_mem (s : State) (key n : Nat) : (s.blur key n).mem = s.mem := rfl

@[simp] theorem State.setCtl_mem (s : State) (d off : Nat) (x : DWord) : (s.setCtl d off x).mem = s.mem := rfl

@[simp] theorem State.capture_mem (s : State) (m : Nat) (kind : Kind) (t : Nat × Nat × Nat) :
    (s.capture m kind t).mem = s.mem := by
  unfold State.capture
  split <;> rfl

@[simp] theorem State.noteWalk_mem (s : State) (core cid va : Nat) : (s.noteWalk core cid va).mem = s.mem := by
  unfold State.noteWalk
  split <;> simp

@[simp] theorem State.noteReuse_mem (s : State) (key bits : Nat) : (s.noteReuse key bits).mem = s.mem := by
  unfold State.noteReuse
  exact State.foldl_mem (fun _ _ => by simp) _ _

@[simp] theorem State.installPage_mem (s : State) (core cid va : Nat) : (s.installPage core cid va).mem = s.mem := by
  simp only [State.installPage]
  repeat' split
  all_goals simp

@[simp] theorem State.noteFault_mem (s : State) (f : AccFault) : (s.noteFault f).mem = s.mem := by
  unfold State.noteFault
  split <;> simp

@[simp] theorem State.notePages_mem (s : State) (core cid : Nat) (va : DWord) (n : Nat) :
    (s.notePages core cid va n).mem = s.mem := by simp [State.notePages]

@[simp] theorem State.noteCtxRead_mem (s : State) (core cid : Nat) (va : DWord) (n : Nat) :
    (s.noteCtxRead core cid va n).mem = s.mem := by
  unfold State.noteCtxRead
  split <;> simp

@[simp] theorem State.noteCtxHome_mem (s : State) (core cid : Nat) (va : DWord) (n : Nat) :
    (s.noteCtxHome core cid va n).mem = s.mem := by
  unfold State.noteCtxHome
  split <;> simp

@[simp] theorem State.dropL1_mem (s : State) (core key n : Nat) : (s.dropL1 core key n).mem = s.mem := rfl

theorem State.writeSegments_memWf (core : Nat) (l : List (Nat × Nat)) (s : State) (bs : List Byte)
    (h : Memory.wf s.mem = true) : Memory.wf (s.writeSegments core l bs).mem = true := by
  induction l generalizing s bs with
  | nil => exact h
  | cons e l ih => exact ih _ _ (by simp [h])

theorem State.ctxWrite_memWf {s t : State} {core cid : Nat} {va : DWord} {bs : List Byte}
    (h : Memory.wf s.mem = true) (ht : s.ctxWrite core cid va bs = .ok t) : Memory.wf t.mem = true := by
  unfold State.ctxWrite at ht
  split at ht
  · cases ht
  · cases ht
    exact State.writeSegments_memWf _ _ _ _ (by simp [h])

@[simp] theorem State.blame_mem (s : State) (wid : Nat) (o : Op) : (s.blame wid o).mem = s.mem := by
  simp [State.blame, apply_ite State.mem]

@[simp] theorem State.release_mem (s : State) (wid f : Nat) : (s.release wid f).mem = s.mem := by simp [State.release]

@[simp] theorem State.settle_mem (s : State) (wid f : Nat) : (s.settle wid f).mem = s.mem := by
  unfold State.settle
  split <;> simp

@[simp] theorem State.loosen_mem (s : State) (wid f : Nat) : (s.loosen wid f).mem = s.mem := by simp [State.loosen]

@[simp] theorem State.settleOpt_mem (s : State) (wid : Nat) (x : Option Nat) : (s.settleOpt wid x).mem = s.mem := by
  unfold State.settleOpt
  split <;> simp

@[simp] theorem State.noteCounts_mem (s : State) (core cid : Nat) : (s.noteCounts core cid).mem = s.mem := by
  simp [State.noteCounts]

theorem State.appendRecord_memWf {s u : State} {core cid : Nat} {bytes : List Byte} (h : Memory.wf s.mem = true)
    (hu : s.appendRecord core cid bytes = .ok (some u)) : Memory.wf u.mem = true := by
  unfold State.appendRecord at hu
  repeat' split at hu
  all_goals cases hu
  rename_i t ht _ hu
  exact State.ctxWrite_memWf (by simpa using State.ctxWrite_memWf h ht) hu

@[simp] theorem State.endJob_memWf (s : State) (cid : Nat) (st c : BitVec 8) (h : Memory.wf s.mem = true) :
    Memory.wf (s.endJob cid st c).mem = true := by
  simp only [State.endJob]
  split
  · exact h
  simp only [apply_ite State.mem, ite_self, State.updCtx_mem]
  split
  · refine State.ctxWrite_memWf ?_ ‹_›
    split
    · exact State.ctxWrite_memWf h ‹_›
    · simp [h]
  · rw [State.updCtx_mem, State.noteFault_mem]
    split
    · exact State.ctxWrite_memWf h ‹_›
    · simp [h]

@[simp] theorem State.dropOutbound_memWf (s : State) (cid : Nat) (h : Memory.wf s.mem = true) :
    Memory.wf (s.dropOutbound cid).mem = true :=
  State.foldl_memWf (fun s _ hs => State.foldl_memWf (fun s _ hs => by split <;> simp [hs]) _ _ (by simp [hs])) _ _ h

@[simp] theorem State.failGrids_memWf (s : State) (cid : Nat) (status : BitVec 8) (h : Memory.wf s.mem = true) :
    Memory.wf (s.failGrids cid status).mem = true := by
  unfold State.failGrids
  refine State.foldl_memWf (fun s e hs => ?_) _ _ h
  dsimp only
  repeat' split
  · rename_i ht
    exact State.appendRecord_memWf (by simp [hs]) ht
  all_goals simp [hs]

@[simp] theorem State.terminate_memWf (s : State) (cid : Nat) (status : BitVec 8) (h : Memory.wf s.mem = true) :
    Memory.wf (s.terminate cid status).mem = true := by
  unfold State.terminate
  exact State.endJob_memWf _ _ _ _ (State.failGrids_memWf _ _ _ (State.dropOutbound_memWf s cid h))

@[simp] theorem State.stopRun_mem (s : State) (wid : Nat) : (s.stopRun wid).mem = s.mem := by
  unfold State.stopRun
  split <;> rfl

@[simp] theorem State.trap_memWf (s : State) (wid : Nat) (t : TrapInfo) (h : Memory.wf s.mem = true) :
    Memory.wf (s.trap wid t).mem = true := by
  simp only [State.trap]
  repeat' split
  all_goals simp [h]

@[simp] theorem State.trapHere_memWf (s : State) (code : BitVec 8) (cause : BitVec 8) (addr : Option DWord)
    (word : Option Nat) (lane : Option Nat) (h : Memory.wf s.mem = true) :
    Memory.wf (s.trapHere code cause addr word lane).mem = true := by simp [State.trapHere, h]

@[simp] theorem State.trapWord_memWf (s : State) (code : BitVec 8) (cause : BitVec 8) (addr : Option DWord)
    (lane : Option Nat) (h : Memory.wf s.mem = true) : Memory.wf (s.trapWord code cause addr lane).mem = true := by
  simp [State.trapWord, h]

/-! ## Operand forms -/

@[simp] theorem putLane_mem (s0 : State) (x : Option VPfx) (n : RegName) (l : Nat) (r : Word) (s : State) :
    (putLane s0 x n l r s).mem = s.mem := by simp [putLane, apply_ite State.mem]

@[simp] theorem State.vecSet_mem (s : State) (x : Option VPfx) (act : Lanes) (d : Reg) (f : Nat → Word) :
    (s.vecSet x act d f).mem = s.mem := by simp [State.vecSet]

@[simp] theorem State.vecSet2_mem (s : State) (x : Option VPfx) (act : Lanes) (d : Reg) (f : Nat → DWord) :
    (s.vecSet2 x act d f).mem = s.mem := by simp [State.vecSet2]

@[simp] theorem State.predSet_mem (s : State) (x : Option VPfx) (act : Lanes) (t : BitVec 4) (f : Nat → Bool) :
    (s.predSet x act t f).mem = s.mem := by simp [State.predSet]

@[simp] theorem State.pushOp_mem (s : State) (o : Op) : (s.pushOp o).mem = s.mem := by
  simp [State.pushOp, apply_ite State.mem]

@[simp] theorem State.issueLong_mem (s : State) (i : Instr) (x : Option VPfx) (act : Lanes) (srcs : List Reg)
    (dests : List RegName) : (s.issueLong i x act srcs dests).mem = s.mem := by
  unfold State.issueLong
  split <;> rfl

/-! ## Releases, acquires, phasers, rings -/

@[simp] theorem State.invalidateL1_mem (s : State) (core : Nat) : (s.invalidateL1 core).mem = s.mem := rfl

@[simp] theorem State.acquire_mem (s : State) (core scope : Nat) : (s.acquire core scope).mem = s.mem := by
  unfold State.acquire
  split <;> rfl

@[simp] theorem State.holdWord_mem (s : State) : s.holdWord.mem = s.mem := rfl

@[simp] theorem State.setPhaser_mem (s : State) (blk n : Nat) (p : Phaser) : (s.setPhaser blk n p).mem = s.mem := by
  simp only [State.setPhaser]
  repeat' split
  all_goals simp

@[simp] theorem State.restartHang_mem (s : State) (cid g : Nat) : (s.restartHang cid g).mem = s.mem := rfl

@[simp] theorem State.unblock_mem (s : State) (wid scope : Nat) : (s.unblock wid scope).mem = s.mem := by
  simp [State.unblock]

@[simp] theorem State.wakeWarp_mem (s : State) (wid : Nat) : (s.wakeWarp wid).mem = s.mem := by
  simp only [State.wakeWarp]
  repeat' split
  all_goals simp

@[simp] theorem State.leaveHandler_mem (s : State) (wid : Nat) : (s.leaveHandler wid).mem = s.mem := by
  simp [State.leaveHandler]

@[simp] theorem State.wake_mem (s : State) : s.wake.mem = s.mem := by simp [State.wake]

@[simp] theorem State.ringRelease_mem (s : State) (blk n : Nat) (consumer : Bool) :
    (s.ringRelease blk n consumer).mem = s.mem := by simp [State.ringRelease]

@[simp] theorem State.phaserSignal_mem (s : State) (blk n wid : Nat) : (s.phaserSignal blk n wid).mem = s.mem := by
  simp only [State.phaserSignal]
  repeat' split
  all_goals simp

/-! ## Runs and clauses -/

@[simp] theorem State.icacheKeep_mem (s : State) (core cid ln : Nat) (bytes : List Byte) :
    (s.icacheKeep core cid ln bytes).mem = s.mem := by
  unfold State.icacheKeep
  split <;> rfl

theorem State.fetchWord_mem {s : State} {core cid : Nat} {va : DWord} {u : State × Word}
    (hu : s.fetchWord core cid va = .ok u) : u.1.mem = s.mem := by
  simp only [State.fetchWord] at hu
  repeat' split at hu
  all_goals cases hu
  all_goals simp

theorem State.fetchWords_mem {core cid : Nat} (n : Nat) {s : State} {va : DWord} {u : State × List Word}
    (hu : s.fetchWords core cid n va = .ok u) : u.1.mem = s.mem := by
  induction n generalizing s va u with
  | zero => cases hu; rfl
  | succ n ih =>
    unfold State.fetchWords at hu
    repeat' split at hu
    all_goals cases hu
    rename_i hw _ _ _ hrest
    rw [ih hrest, State.fetchWord_mem hw]

theorem State.fetchClause_mem {s : State} {w : Warp} {pc : Pc} {u : State × Fetched}
    (hu : s.fetchClause w pc = .ok u) : u.1.mem = s.mem := by
  unfold State.fetchClause at hu
  repeat' split at hu
  all_goals cases hu
  rename_i hw _ _ _ hrest
  rw [State.fetchWords_mem _ hrest, State.fetchWord_mem hw]

@[simp] theorem State.fetchTrap_memWf (s : State) (wid : Nat) (set : Lanes) (pc : Pc) (f : AccFault)
    (h : Memory.wf s.mem = true) : Memory.wf (s.fetchTrap wid set pc f).mem = true := by simp [State.fetchTrap, h]

@[simp] theorem State.endRun_mem (s : State) : s.endRun.mem = s.mem := rfl

@[simp] theorem State.flagTrap_memWf (s : State) (wid : Nat) (set : Lanes) (hdr : Pc) (f : Nat) (e : FlagErr)
    (h : Memory.wf s.mem = true) : Memory.wf (s.flagTrap wid set hdr f e).mem = true := by simp [State.flagTrap, h]

@[simp] theorem State.beginClause_memWf (s : State) (f : Fetched) (h : Memory.wf s.mem = true) :
    Memory.wf (s.beginClause f).mem = true := by
  simp only [State.beginClause]
  repeat' split
  all_goals simp [h]

@[simp] theorem State.nextClause_memWf (s : State) (h : Memory.wf s.mem = true) :
    Memory.wf s.nextClause.mem = true := by
  simp only [State.nextClause]
  split
  · simp [h]
  · rename_i t f hf
    have ht : Memory.wf t.mem = true := by
      repeat' split at hf
      · cases hf; exact h
      · rw [State.fetchClause_mem hf]; exact h
      · rw [State.fetchClause_mem hf]; exact h
    repeat' split
    all_goals simp [h, ht]

@[simp] theorem State.clauseOver_mem (s : State) (wid : Nat) : (s.clauseOver wid).mem = s.mem := rfl

@[simp] theorem State.releaseFlags_mem (s : State) (r : Run) : (s.releaseFlags r).mem = s.mem := by
  simp [State.releaseFlags]

@[simp] theorem State.goOn_mem (s : State) : s.goOn.mem = s.mem := by simp [State.goOn, apply_ite State.mem]

@[simp] theorem State.endClause_memWf (s : State) (h : Memory.wf s.mem = true) :
    Memory.wf s.endClause.mem = true := by
  simp only [State.endClause]
  repeat' split
  all_goals simp [h]

@[simp] theorem State.afterWord_memWf (s : State) (n : Nat) (h : Memory.wf s.mem = true) :
    Memory.wf (s.afterWord n).mem = true := by
  simp only [State.afterWord]
  repeat' split
  all_goals simp [h]

@[simp] theorem State.store_mem (s : State) : s.store.mem = s.mem := by
  unfold State.store
  split <;> rfl

@[simp] theorem State.openRun_memWf (s : State) (wid core slot : Nat) (h : Memory.wf s.mem = true) :
    Memory.wf (s.openRun wid core slot).mem = true := by
  simp only [State.openRun]
  repeat' split
  all_goals simp [h]

theorem State.issueWord_memWf_ok {s : State} {core slot : Nat} {u : State × Instr × Nat}
    (h : Memory.wf s.mem = true) (hu : s.issueWord core slot = .ok u) : Memory.wf u.1.mem = true := by
  simp only [State.issueWord] at hu
  repeat' split at hu
  all_goals cases hu
  exact h

theorem State.issueWord_memWf_error {s t : State} {core slot : Nat} (h : Memory.wf s.mem = true)
    (ht : s.issueWord core slot = .error t) : Memory.wf t.mem = true := by
  simp only [State.issueWord] at ht
  repeat' split at ht
  all_goals cases ht
  all_goals simp [h]

@[simp] theorem State.issued_memWf (s : State) (n : Nat) (h : Memory.wf s.mem = true) :
    Memory.wf (s.issued n).mem = true := by simp [State.issued, h]

@[simp] theorem State.tick_mem (s : State) (ns : Nat) : (s.tick ns).mem = s.mem := rfl

/-! ## Special functions -/

@[simp] theorem State.issueSpecial_mem (s : State) (i : Instr) (o : VR1) : (s.issueSpecial i o).mem = s.mem := by
  simp [State.issueSpecial]

/-! ## Rational mode -/

@[simp] theorem State.issueQ_mem (s : State) (i : Instr) (x : Option VPfx) (g : LGuard) (srcs : List Reg) (d : Reg) :
    (s.issueQ i x g srcs d).mem = s.mem := by simp [State.issueQ]

@[simp] theorem State.issueQuot_memWf (s : State) (i : Instr) (x : Option VPfx) (g : LGuard) (srcs : List Reg)
    (d : Reg) (ev : Nat → Bool) (h : Memory.wf s.mem = true) : Memory.wf (s.issueQuot i x g srcs d ev).mem = true :=
  by
  simp only [State.issueQuot]
  repeat' split
  all_goals simp [h]

@[simp] theorem State.issueQsetp_mem (s : State) (i : Instr) (o : VCP) : (s.issueQsetp i o).mem = s.mem := by
  simp [State.issueQsetp, apply_ite State.mem]

/-! ## Conversions -/

theorem State.addCounter_memWf {s : State} {core cid : Nat} {jcb : DWord} {i n : Nat} {u : State × Bool}
    (h : Memory.wf s.mem = true) (hu : s.addCounter core cid jcb i n = .ok u) : Memory.wf u.1.mem = true := by
  simp only [State.addCounter] at hu
  repeat' split at hu
  all_goals cases hu
  · exact h
  · rename_i ht
    exact State.ctxWrite_memWf (by simp [h]) ht

theorem State.addCounters_memWf {core cid : Nat} {jcb : DWord} (l : List Nat) {s : State} {i : Nat}
    {u : State × BitVec 8} (h : Memory.wf s.mem = true) (hu : s.addCounters core cid jcb i l = .ok u) :
    Memory.wf u.1.mem = true := by
  induction l generalizing s i u with
  | nil => cases hu; exact h
  | cons n l ih =>
    unfold State.addCounters at hu
    split at hu
    · cases hu
    · rename_i hadd
      split at hu
      · cases hu
      · rename_i hrest
        cases hu
        have hu := ih (State.addCounter_memWf h hadd) hrest
        exact hu

@[simp] theorem State.countEvents_memWf (s : State) (core cid : Nat) (counts : List Nat)
    (h : Memory.wf s.mem = true) : Memory.wf (s.countEvents core cid counts).1.mem = true := by
  unfold State.countEvents
  repeat' split
  · exact h
  · exact h
  · exact State.addCounters_memWf _ h ‹_›
  · simp [h]

@[simp] theorem State.countLanes_memWf (s : State) (lanes : Lanes) (f : Nat → Conv) (h : Memory.wf s.mem = true) :
    Memory.wf (s.countLanes lanes f).mem = true := by simp [State.countLanes, h]

@[simp] theorem State.cvtx_memWf (s : State) (o : VAW) (n : Nat) (h : Memory.wf s.mem = true) :
    Memory.wf (s.cvtx o n).mem = true := by
  simp only [State.cvtx]
  repeat' split
  all_goals simp [h]

/-! ## Class S -/

@[simp] theorem State.sSet_mem (s : State) (g : UGuard) (d : Reg) (x : Word) : (s.sSet g d x).mem = s.mem := by
  unfold State.sSet
  split <;> rfl

@[simp] theorem State.sBin_mem (s : State) (o : SRR) (f : Word → Word → Word) : (s.sBin o f).mem = s.mem := by
  simp [State.sBin]

@[simp] theorem State.sUn_mem (s : State) (o : SR1) (f : Word → Word) : (s.sUn o f).mem = s.mem := by simp [State.sUn]

@[simp] theorem State.sImm_mem (s : State) (o : SRI) (f : Word → Word) : (s.sImm o f).mem = s.mem := by
  simp [State.sImm]

@[simp] theorem State.sBin64_mem (s : State) (o : SRR) (f : DWord → DWord → DWord) : (s.sBin64 o f).mem = s.mem := by
  unfold State.sBin64
  split <;> rfl

@[simp] theorem State.kSet_mem (s : State) (g : UGuard) (t : BitVec 3) (b : Bool) : (s.kSet g t b).mem = s.mem := by
  unfold State.kSet
  split <;> rfl

@[simp] theorem State.issueLongS_mem (s : State) (i : Instr) (g : UGuard) (srcs : List Reg) (d : RegName) :
    (s.issueLongS i g srcs d).mem = s.mem := by
  unfold State.issueLongS
  split <;> rfl

@[simp] theorem State.sFloat_mem (s : State) (i : Instr) (o : SRR) (f : Rm → Word → Word → Word) :
    (s.sFloat i o f).mem = s.mem := by
  unfold State.sFloat
  split <;> simp

/-! ## Class V -/

@[simp] theorem State.vBin_mem (s : State) (o : VRR) (f : Word → Word → Word) : (s.vBin o f).mem = s.mem := by
  simp [State.vBin]

@[simp] theorem State.vTri_mem (s : State) (o : VRR) (f : Word → Word → Word → Word) : (s.vTri o f).mem = s.mem := by
  simp [State.vTri]

@[simp] theorem State.vUn_mem (s : State) (o : VR1) (f : Word → Word) : (s.vUn o f).mem = s.mem := by simp [State.vUn]

@[simp] theorem State.vImm_mem (s : State) (o : VRI) (f : Word → Word) : (s.vImm o f).mem = s.mem := by
  simp [State.vImm]

@[simp] theorem State.vBin64_mem (s : State) (o : VRR) (f : DWord → DWord → DWord) : (s.vBin64 o f).mem = s.mem := by
  simp [State.vBin64]

@[simp] theorem State.vWide_mem (s : State) (o : VRR) (f : Word → Word → DWord) : (s.vWide o f).mem = s.mem := by
  simp [State.vWide]

@[simp] theorem State.vSetp_mem (s : State) (o : VCP) (f : Word → Word → Bool) : (s.vSetp o f).mem = s.mem := by
  simp [State.vSetp]

/-! ## Class F -/

@[simp] theorem State.fSetp_mem (s : State) (o : VCP) (c : Cond) : (s.fSetp o c).mem = s.mem := by simp [State.fSetp]

/-! ## Memory operations in flight -/

@[simp] theorem State.tileWrite_mem (s : State) (blk off : Nat) (bs : List Byte) :
    (s.tileWrite blk off bs).mem = s.mem := rfl

@[simp] theorem State.accWrite_mem (s : State) (blk bank i : Nat) (x : Word) :
    (s.accWrite blk bank i x).mem = s.mem := rfl

@[simp] theorem State.updOp_mem (s : State) (wid id : Nat) (f : Op → Op) : (s.updOp wid id f).mem = s.mem := rfl

@[simp] theorem State.dropOp_mem (s : State) (wid id : Nat) : (s.dropOp wid id).mem = s.mem := rfl

@[simp] theorem State.requestFill_mem (s : State) (core line cid : Nat) (m : Mark) :
    (s.requestFill core line cid m).mem = s.mem := rfl

@[simp] theorem State.noteDenial_mem (s : State) (m : Nat) (kind : Kind) (key n : Nat) :
    (s.noteDenial m kind key n).mem = s.mem := by
  unfold State.noteDenial
  split <;> simp

@[simp] theorem State.bindAccess_memWf (s : State) (wid id i : Nat) (h : Memory.wf s.mem = true) :
    Memory.wf (s.bindAccess wid id i).mem = true := by
  simp only [State.bindAccess]
  repeat' split
  all_goals simp [h]

@[simp] theorem State.settleStray_mem (s : State) (wid id : Nat) : (s.settleStray wid id).mem = s.mem := by
  simp only [State.settleStray]
  repeat' split
  all_goals simp

@[simp] theorem State.acquireOf_mem (s : State) (wid : Nat) (o : Op) : (s.acquireOf wid o).mem = s.mem := by
  unfold State.acquireOf
  split <;> simp

@[simp] theorem State.settleAcquires_mem (s : State) (wid fuel : Nat) : (s.settleAcquires wid fuel).mem = s.mem := by
  induction fuel generalizing s with
  | zero => rfl
  | succ fuel ih =>
    simp only [State.settleAcquires]
    repeat' split
    · rfl
    · rw [ih]; simp
    · rfl

@[simp] theorem State.settleAll_mem (s : State) (wid : Nat) : (s.settleAll wid).mem = s.mem := by
  simp [State.settleAll]

@[simp] theorem State.bindLoad_memWf (s : State) (wid id : Nat) (h : Memory.wf s.mem = true) :
    Memory.wf (s.bindLoad wid id).mem = true := by
  have bound (l : List Nat) : Memory.wf (l.foldl (fun t i => t.bindAccess wid id i) (s.settleStray wid id)).mem = true :=
    State.foldl_memWf (fun _ _ ht => by simp [ht]) _ _ (by simp [h])
  simp only [State.bindLoad]
  repeat' split
  · exact h
  · exact h
  all_goals simp [bound]

@[simp] theorem State.deliver_mem (s : State) (wid : Nat) (n : RegName) (l : Nat) (x : Word) :
    (s.deliver wid n l x).mem = s.mem := rfl

@[simp] theorem State.spend_mem (s : State) (wid id : Nat) (o : Op) : (s.spend wid id o).mem = s.mem := by
  unfold State.spend
  split <;> simp

@[simp] theorem State.finishOp_mem (s : State) (wid id : Nat) (f : Nat → Nat → Word) :
    (s.finishOp wid id f).mem = s.mem := by
  unfold State.finishOp
  split
  · rfl
  · simp only [State.settleOpt_mem]
    rw [State.foldl_mem (fun _ _ => State.foldl_mem (fun _ _ => by simp) _ _)]
    simp

@[simp] theorem State.abandonRun_mem (s : State) (wid : Nat) : (s.abandonRun wid).mem = s.mem := by
  simp only [State.abandonRun]
  repeat' split
  all_goals simp

@[simp] theorem State.denyOp_memWf (s : State) (wid id : Nat) (h : Memory.wf s.mem = true) :
    Memory.wf (s.denyOp wid id).mem = true := by
  simp only [State.denyOp]
  repeat' split
  all_goals simp [h]

@[simp] theorem State.finishLoad_memWf (s : State) (wid id : Nat) (h : Memory.wf s.mem = true) :
    Memory.wf (s.finishLoad wid id).mem = true := by
  simp only [State.finishLoad]
  repeat' split
  all_goals simp [h]

@[simp] theorem State.sendWrite_mem (s : State) (wid id lane : Nat) (va : DWord) (key : Nat) (bs : List Byte)
    (first : Bool) : (s.sendWrite wid id lane va key bs first).mem = s.mem := rfl

@[simp] theorem State.noteCut_mem (s : State) (wid id : Nat) : (s.noteCut wid id).mem = s.mem := by
  unfold State.noteCut
  split <;> rfl

@[simp] theorem State.storeLane_mem (s : State) (wid id : Nat) (o : Op) (a : Access) :
    (s.storeLane wid id o a).mem = s.mem := by
  unfold State.storeLane
  split <;> rfl

@[simp] theorem State.orderPoint_mem (s : State) (wid : Nat) : (s.orderPoint wid).mem = s.mem := by
  simp only [State.orderPoint]
  repeat' split
  all_goals simp

@[simp] theorem State.l1Fetch_mem (s : State) (core key : Nat) (m : Mark) : (s.l1Fetch core key m).mem = s.mem := by
    simp [State.l1Fetch]

@[simp] theorem State.performAtomic_memWf (s : State) (wid id : Nat) (o : Op) (a : Access)
    (h : Memory.wf s.mem = true) : Memory.wf (s.performAtomic wid id o a).mem = true := by
  simp only [State.performAtomic]
  repeat' split
  all_goals simp [h]

@[simp] theorem State.finishAtomic_memWf (s : State) (wid id : Nat) (h : Memory.wf s.mem = true) :
    Memory.wf (s.finishAtomic wid id).mem = true := by
  simp only [State.finishAtomic]
  repeat' split
  all_goals simp [h]

/-! ## Tensor forms -/

theorem State.spaceWrite_memWf {s t : State} {c : Cmd} {sp : Space} {bank : Nat} {a : Int} {bs : List Byte}
    (h : Memory.wf s.mem = true) (ht : s.spaceWrite c sp bank a bs = .ok t) : Memory.wf t.mem = true := by
  cases sp with
  | global => exact State.ctxWrite_memWf h ht
  | tile =>
    simp only [State.spaceWrite] at ht
    split at ht <;> cases ht
    exact h
  | acc =>
    cases ht
    simpa using h

@[simp] theorem State.blurPlaces_mem (s : State) (blk : Nat) (l : List (Nat × Nat)) :
    (s.blurPlaces blk l).mem = s.mem := by simp [State.blurPlaces, apply_ite State.mem]

@[simp] theorem State.noteSpace_mem (s : State) (c : Cmd) (sp : Space) (a : Int) (n : Nat) :
    (s.noteSpace c sp a n).mem = s.mem := by
  unfold State.noteSpace
  split <;> simp

@[simp] theorem State.noteT_mem (s : State) (c : Cmd) (t : Tensor) (a n : Nat) : (s.noteT c t a n).mem = s.mem := by
    simp [State.noteT]

@[simp] theorem State.noteRecord_mem (s : State) (c : Cmd) (t : Tensor) (f ch : Nat) :
    (s.noteRecord c t f ch).mem = s.mem := by
  simp only [State.noteRecord]
  repeat' split
  all_goals simp

/-! ## Engine commands -/

@[simp] theorem State.takeLock_mem (s : State) (id : Nat) (c : Cmd) (ranges : List LockRange) :
    (s.takeLock id c ranges).mem = s.mem := rfl

@[simp] theorem State.pushCmd_mem (s : State) (c : Cmd) (caps : List Cap) (dests : List Dest)
    (ranges : List LockRange) : (s.pushCmd c caps dests ranges).mem = s.mem := by
  simp [State.pushCmd, apply_ite State.mem]

theorem State.sampleEntry_mem {s : State} {core cid n : Nat} {u : State × List DWord}
    (hu : s.sampleEntry core cid n = .ok u) : u.1.mem = s.mem := by
  unfold State.sampleEntry at hu
  repeat' split at hu
  all_goals cases hu
  all_goals simp

theorem State.sampleList_mem (l : List Nat) {s : State} {c : Cmd} {u : State × Cmd} (hu : s.sampleList c l = .ok u) :
    u.1.mem = s.mem := by
  induction l generalizing s c with
  | nil => cases hu; rfl
  | cons n l ih =>
    unfold State.sampleList at hu
    repeat' split at hu
    · exact ih hu
    · cases hu
    · exact (ih hu).trans (State.sampleEntry_mem ‹_›)

theorem State.sampleAll_mem {s : State} {c : Cmd} {ns : List Nat} {u : State × Cmd} (hu : s.sampleAll c ns = .ok u) :
    u.1.mem = s.mem := by
  unfold State.sampleAll at hu
  split at hu
  · cases hu
  · exact (State.sampleList_mem _ hu).trans (State.sampleList_mem ns ‹_›)

@[simp] theorem State.flagError_mem (s : State) (c : Cmd) (e : FlagErr) : (s.flagError c e).mem = s.mem := by
  unfold State.flagError
  split <;> simp

@[simp] theorem State.dropLock_mem (s : State) (id : Nat) (c : Cmd) : (s.dropLock id c).mem = s.mem := rfl

@[simp] theorem State.dropCmd_mem (s : State) (id : Nat) : (s.dropCmd id).mem = s.mem := rfl

@[simp] theorem State.clearCmd_mem (s : State) (id : Nat) (c : Cmd) : (s.clearCmd id c).mem = s.mem := by
  simp [State.clearCmd]

@[simp] theorem State.tailCmd_mem (s : State) (id : Nat) (c : Cmd) (cause : BitVec 8) :
    (s.tailCmd id c cause).mem = s.mem := by
  unfold State.tailCmd
  split <;> rfl

@[simp] theorem State.finishCmd_memWf (s : State) (id : Nat) (counts : Events) (h : Memory.wf s.mem = true) :
    Memory.wf (s.finishCmd id counts).mem = true := by
  simp only [State.finishCmd]
  repeat' split
  all_goals simp [h]

@[simp] theorem State.failCmd_memWf (s : State) (id : Nat) (f : AccFault) (counts : Events)
    (h : Memory.wf s.mem = true) : Memory.wf (s.failCmd id f counts).mem = true := by
  simp only [State.failCmd]
  repeat' split
  all_goals simp [h]

/-! ## CPY and CPYM -/

@[simp] theorem State.noteElems_mem (s : State) (c : Cmd) (r : Shape) (es : List (List Nat)) :
    (s.noteElems c r es).mem = s.mem := by simp [State.noteElems, apply_ite State.mem]

@[simp] theorem State.putBytes_memWf (s : State) (c : Cmd) (tile : Bool) (a : Int) (bs : List Byte) (vague : Bool)
    (h : Memory.wf s.mem = true) : Memory.wf (s.putBytes c tile a bs vague).mem = true := by
  unfold State.putBytes
  split
  · exact h
  · have ht := State.spaceWrite_memWf h ‹_›
    split
    · simpa using ht
    · exact ht

@[simp] theorem State.putElem_memWf (s : State) (c : Cmd) (r : Shape) (p : Put) (h : Memory.wf s.mem = true) :
    Memory.wf (s.putElem c r p).mem = true := by simp [State.putElem, h]

@[simp] theorem State.putSome_memWf (s : State) (c : Cmd) (r : Shape) (all : Bool) (p : Put)
    (h : Memory.wf s.mem = true) : Memory.wf (s.putSome c r all p).mem = true := by
  simp only [State.putSome]
  split
  · simp [h]
  · exact State.foldl_memWf (fun _ _ hs => by simp [hs]) _ _ h

@[simp] theorem State.runCopy_memWf (s : State) (c : Cmd) (r : Shape) (h : Memory.wf s.mem = true) :
    Memory.wf (s.runCopy c r).1.mem = true := by
  simp only [State.runCopy]
  split
  all_goals exact State.foldl_memWf (fun _ _ hs => by simp [hs]) _ _ (by simp [h])

theorem State.moveElem_memWf {s : State} {c : Cmd} {r : Shape} {k : Nat} {u : State × Events}
    (h : Memory.wf s.mem = true) (hu : s.moveElem c r k = some u) : Memory.wf u.1.mem = true := by
  simp only [State.moveElem] at hu
  repeat' split at hu
  all_goals cases hu
  simp [h]

/-! ## ENC and DECT -/

theorem State.allocUnits_memWf {s : State} {c : Cmd} {t : Tensor} {n : Nat} {u : State × Nat}
    (h : Memory.wf s.mem = true) (hu : s.allocUnits c t n = .ok u) : Memory.wf u.1.mem = true := by
  simp only [State.allocUnits] at hu
  repeat' split at hu
  all_goals cases hu
  exact State.ctxWrite_memWf h ‹_›

@[simp] theorem State.encPut_memWf (s : State) (c : Cmd) (r : Region) (k ch cur : Nat) (h : Memory.wf s.mem = true) :
    Memory.wf (s.encPut c r k ch cur).1.mem = true := by
  simp only [State.encPut]
  split
  · exact h
  · rename_i u hu
    have hu' : Memory.wf u.mem = true := by
      split at hu
      · cases hu; exact h
      · exact State.spaceWrite_memWf h hu
    split
    · exact hu'
    · exact State.spaceWrite_memWf hu' ‹_›

@[simp] theorem State.encRecord_memWf (c : Cmd) (r : Region) (got : Option Nat) (s : State) (k ch : Nat)
    (h : Memory.wf s.mem = true) : Memory.wf (State.encRecord c r got s k ch).1.mem = true := by
  simp only [State.encRecord]
  repeat' split
  · simp [h]
  · simp [h]
  · exact h
  · exact State.encPut_memWf _ _ _ _ _ _ (State.allocUnits_memWf h ‹_›)

theorem State.encScales_memWf {s t : State} {c : Cmd} {r : Region} (h : Memory.wf s.mem = true)
    (ht : s.encScales c r = .ok t) : Memory.wf t.mem = true := by
  simp only [State.encScales] at ht
  split at ht
  · cases ht; exact h
  · exact State.foldlExcept_memWf (fun _ _ _ hs hu => State.spaceWrite_memWf hs hu) _ h ht

theorem overRecords_memWf {f : State → Nat → Nat → State × Events × Option AccFault}
    (hf : ∀ s k ch, Memory.wf s.mem = true → Memory.wf (f s k ch).1.mem = true) (l : List (Nat × Nat)) (s : State)
    (ev : Events) (h : Memory.wf s.mem = true) : Memory.wf (overRecords f l s ev).1.mem = true := by
  induction l generalizing s ev with
  | nil => exact h
  | cons e l ih =>
    have he := hf s e.1 e.2 h
    unfold overRecords
    split
    · simp_all
    · exact ih _ _ (by simp_all)

theorem State.firstScales_memWf {s t : State} {c : Cmd} {r : Region} (h : Memory.wf s.mem = true)
    (ht : s.firstScales c r = .ok t) : Memory.wf t.mem = true := by
  unfold State.firstScales at ht
  split at ht
  · exact State.encScales_memWf h ht
  · cases ht; exact h

@[simp] theorem State.runEnc_memWf (s : State) (c : Cmd) (o : CTile) (h : Memory.wf s.mem = true) :
    Memory.wf (s.runEnc c o).1.mem = true := by
  simp only [State.runEnc]
  split
  · exact h
  · rename_i t ht
    have ht' := State.firstScales_memWf h ht
    split
    · exact ht'
    · rename_i x _ _
      have hx := State.encRecord_memWf c (regionOf c o) c.units t x.1 x.2 ht'
      split
      · simp_all
      · exact overRecords_memWf (fun s k ch hs => State.encRecord_memWf _ _ _ s k ch hs) _ _ _ (by simp_all)

theorem State.moveEnc_memWf {s : State} {c : Cmd} {o : CTile} {u : State × Events} (h : Memory.wf s.mem = true)
    (hu : s.moveEnc c o = some u) : Memory.wf u.1.mem = true := by
  simp only [State.moveEnc] at hu
  repeat' split at hu
  all_goals cases hu
  rename_i x _ t _ ht _ _ _ _ hput
  simpa [hput] using State.encPut_memWf t c (regionOf c o) x.1 x.2 (c.units.getD 0) (State.firstScales_memWf h ht)

theorem State.moveAlloc_memWf {s : State} {c : Cmd} {o : CTile} {u : State × Nat} (h : Memory.wf s.mem = true)
    (hu : s.moveAlloc c o = some u) : Memory.wf u.1.mem = true := by
  simp only [State.moveAlloc] at hu
  repeat' split at hu
  · cases hu
  · cases hu
  · rename_i x _ _ _
    cases ha : s.allocUnits c (regionOf c o).dst ((s.encBytes c (regionOf c o) x.1 x.2).2.1.length / 16) with
    | error => simp [ha, Except.toOption] at hu
    | ok v =>
      simp only [ha, Except.toOption, Option.some.injEq] at hu
      exact hu ▸ State.allocUnits_memWf h ha

theorem State.dectPut_memWf {s t : State} {c : Cmd} {r : Region} {k a : Nat} {bs : List Byte}
    (h : Memory.wf s.mem = true) (ht : s.dectPut c r k a bs = .ok t) : Memory.wf t.mem = true := by
  unfold State.dectPut at ht
  repeat' split at ht
  all_goals cases ht
  · exact State.spaceWrite_memWf h ‹_›
  · refine State.foldl_memWf (fun s b hs => ?_) _ _ h
    split
    · exact hs
    · cases hw : s.spaceWrite c r.dst.space 0 ((a + b.2 : Nat) : Int) [b.1] with
      | error => exact hs
      | ok u => exact State.spaceWrite_memWf hs hw

@[simp] theorem State.dectRecord_memWf (c : Cmd) (r : Region) (s : State) (k ch : Nat) (h : Memory.wf s.mem = true) :
    Memory.wf (State.dectRecord c r s k ch).1.mem = true := by
  simp only [State.dectRecord]
  split
  · exact h
  refine List.foldlRecOn (motive := fun acc : State × Events × Option AccFault => Memory.wf acc.1.mem = true) _ _
    (by simp [h]) fun acc hacc i _ => ?_
  split
  · exact hacc
  split
  · exact hacc
  · have hn (b : Bool) (a : Nat) : Memory.wf (if b = true then acc.1.noteT c r.src a 1 else acc.1).mem = true := by
      split <;> simp [hacc]
    split
    · exact hn _ _
    · rename_i ht
      exact State.dectPut_memWf (hn _ _) ht

@[simp] theorem State.runDect_memWf (s : State) (c : Cmd) (o : CTile) (h : Memory.wf s.mem = true) :
    Memory.wf (s.runDect c o).1.mem = true :=
  overRecords_memWf (fun s k ch hs => State.dectRecord_memWf _ _ s k ch hs) _ _ _ h

theorem State.moveDect_memWf {s : State} {c : Cmd} {o : CTile} {u : State × Events} (h : Memory.wf s.mem = true)
    (hu : s.moveDect c o = some u) : Memory.wf u.1.mem = true := by
  simp only [State.moveDect] at hu
  repeat' split at hu
  all_goals cases hu
  rename_i x _ _ _ _ _ hrec
  simpa [hrec] using State.dectRecord_memWf c (regionOf c o) s x.1 x.2 h

/-! ## Classes C and M -/

@[simp] theorem State.prepare_mem (s : State) (c : Cmd) (words : Except AccFault (List DWord)) :
    (s.prepare c words).1.mem = s.mem := by
  simp only [State.prepare]
  repeat' split
  · simp
  · simp
  · simpa using State.sampleAll_mem ‹_›
  · exact State.sampleAll_mem ‹_›

@[simp] theorem State.markHazy_mem (s : State) (id : Nat) : (s.markHazy id).mem = s.mem := by
  unfold State.markHazy
  repeat' split
  · rfl
  · rfl
  · exact State.foldl_mem (fun _ _ => by simp) _ _

@[simp] theorem State.issueCmd_mem (s : State) (i : Instr) (g : UGuard) (u : EngineUnit) (caps : List Cap)
    (dests : List Dest) : (s.issueCmd i g u caps dests).mem = s.mem := by simp [State.issueCmd, apply_ite State.mem]

@[simp] theorem State.relock_mem (s : State) (id : Nat) (c : Cmd) (rs : List LockRange) :
    (s.relock id c rs).mem = s.mem := rfl

@[simp] theorem State.reread_mem (s : State) (id : Nat) : (s.reread id).mem = s.mem := by
  simp only [State.reread]
  repeat' split
  all_goals simp

@[simp] theorem State.resample_mem (s : State) (id : Nat) : (s.resample id).mem = s.mem := by
  unfold State.resample
  split <;> simp

@[simp] theorem State.sourcesRead_mem (s : State) (wid flag : Nat) : (s.sourcesRead wid flag).mem = s.mem := by
  simp [State.sourcesRead]

/-! ## The life of an engine command -/

@[simp] theorem State.cmdWrite_mem (s : State) (wid id : Nat) (n : RegName) (l : Nat) (x : Word) :
    (s.cmdWrite wid id n l x).mem = s.mem := rfl

@[simp] theorem State.setFault_mem (s : State) (id : Nat) (f : AccFault) : (s.setFault id f).mem = s.mem := by
  simp [State.setFault]

@[simp] theorem State.setInbound_memWf (s : State) (b : Nat) (f : Nat → Nat) (h : Memory.wf s.mem = true) :
    Memory.wf (s.setInbound b f).mem = true := by
  simp only [State.setInbound]
  repeat' split
  all_goals simp [h]

@[simp] theorem State.beginCpym_memWf (s : State) (id : Nat) (c : Cmd) (h : Memory.wf s.mem = true) :
    Memory.wf (s.beginCpym id c).mem = true := by
  have inbound (l : List Nat) : Memory.wf (l.foldl (fun s b => s.setInbound b (· + 1)) s).mem = true :=
    State.foldl_memWf (fun _ _ hs => by simp [hs]) _ _ h
  simp only [State.beginCpym]
  repeat' split
  · simp [h]
  all_goals simp [inbound]

@[simp] theorem State.deliverTile_memWf (s : State) (walked : List (Nat × Option Byte)) (b : Nat)
    (h : Memory.wf s.mem = true) : Memory.wf (s.deliverTile walked b).mem = true := by
  unfold State.deliverTile
  refine State.foldl_memWf (fun s e hs => ?_) _ _ h
  have hw (key : Nat) (bs : List Byte) (f : Block → Block) : Memory.wf ((s.updBlock b f).homeWrite key bs).mem = true :=
    State.homeWrite_memWf _ _ _ hs
  dsimp only
  repeat' split
  · rw [State.blur_mem]
    exact hw _ _ _
  · exact hw _ _ _
  · exact hs

@[simp] theorem State.delivered_memWf (s : State) (id rank b : Nat) (h : Memory.wf s.mem = true) :
    Memory.wf (s.delivered id rank b).mem = true := by simp [State.delivered, h]

@[simp] theorem State.partDeliver_memWf (s : State) (id : Nat) (c : Cmd) (h : Memory.wf s.mem = true) :
    Memory.wf (s.partDeliver id c).mem = true := State.foldl_memWf (fun _ _ hs => by split <;> simp [hs]) _ _ h

@[simp] theorem State.setList_mem (s : State) (cid n : Nat) (l : List Item) : (s.setList cid n l).mem = s.mem := rfl

@[simp] theorem State.beginAppend_mem (s : State) (id : Nat) (c : Cmd) : (s.beginAppend id c).mem = s.mem := by
  simp only [State.beginAppend]
  repeat' split
  all_goals simp

@[simp] theorem State.runDrain_mem (s : State) (id : Nat) (c : Cmd) (o : CDrn) :
    (s.runDrain id c o).1.mem = s.mem := by
  have written (l : List (Item × Nat)) (t : State) :
      (l.foldl (fun s x => s.cmdWrite c.wid id (.v o.d.toNat) x.2 x.1.value) t).mem = t.mem :=
    State.foldl_mem (fun _ _ => by simp) _ _
  simp only [State.runDrain]
  repeat' split
  all_goals simp [written]

@[simp] theorem State.runQuiesce_mem (s : State) (c : Cmd) (o : YX) : (s.runQuiesce c o).1.mem = s.mem := by
  unfold State.runQuiesce
  split <;> rfl

theorem State.writeEntry_memWf {s t : State} {c : Cmd} {n : Nat} {ws : List (Nat × List Byte)}
    (h : Memory.wf s.mem = true) (ht : s.writeEntry c n ws = .ok t) : Memory.wf t.mem = true :=
  State.foldlExcept_memWf (fun _ _ _ hs hu => State.ctxWrite_memWf hs hu) _ h ht

@[simp] theorem State.runTfset_memWf (s : State) (c : Cmd) (n : Nat) (h : Memory.wf s.mem = true) :
    Memory.wf (s.runTfset c n).1.mem = true := by
  unfold State.runTfset
  split
  · exact h
  · rename_i ht
    have hw := State.writeEntry_memWf h ht
    exact hw

@[simp] theorem State.runTfget_memWf (s : State) (c : Cmd) (n : Nat) (h : Memory.wf s.mem = true) :
    Memory.wf (s.runTfget c n).1.mem = true := by
  unfold State.runTfget
  repeat' split
  · exact h
  · exact h
  · rename_i ht
    exact State.ctxWrite_memWf (by simp [h]) ht

@[simp] theorem State.partTfset_memWf (s : State) (id : Nat) (c : Cmd) (n : Nat) (h : Memory.wf s.mem = true) :
    Memory.wf (s.partTfset id c n).mem = true := by
  simp only [State.partTfset]
  split
  · exact h
  · rw [State.updCmd_mem]
    exact State.writeEntry_memWf h ‹_›

@[simp] theorem State.updBank_mem (s : State) (blk bank : Nat) (f : Bank → Bank) :
    (s.updBank blk bank f).mem = s.mem := rfl

@[simp] theorem State.runMzero_mem (s : State) (c : Cmd) (ab n : Nat) : (s.runMzero c ab n).mem = s.mem := by
  unfold State.runMzero
  exact State.foldl_mem (fun _ _ => by simp) _ _

@[simp] theorem State.runMstat_mem (s : State) (id : Nat) (c : Cmd) (o : MStat) : (s.runMstat id c o).mem = s.mem :=
  rfl

@[simp] theorem State.beginStorage_mem (s : State) (id : Nat) (c : Cmd) : (s.beginStorage id c).mem = s.mem := by
  simp only [State.beginStorage]
  repeat' split
  all_goals simp

@[simp] theorem State.blurShared_mem (s : State) (c : Cmd) (va n : Nat) : (s.blurShared c va n).mem = s.mem := by
  unfold State.blurShared
  split <;> simp

@[simp] theorem State.writeSome_memWf (s : State) (c : Cmd) (va : DWord) (bs : List Byte)
    (h : Memory.wf s.mem = true) : Memory.wf (s.writeSome c va bs).mem = true := by
  refine State.foldl_memWf (fun s e hs => ?_) _ _ h
  repeat' split
  · exact State.ctxWrite_memWf hs ‹_›
  · exact hs
  · exact hs

@[simp] theorem State.stageStorage_memWf (s : State) (id : Nat) (c : Cmd) (h : Memory.wf s.mem = true) :
    Memory.wf (s.stageStorage id c).mem = true := by
  simp only [State.stageStorage]
  repeat' split
  · refine State.foldl_memWf (fun t i ht => ?_) _ _ (by simp [h])
    split
    · exact State.ctxWrite_memWf ht ‹_›
    · exact ht
  all_goals simp [h]

@[simp] theorem State.storageData_memWf (s : State) (c : Cmd) (ok : Bool) (data : List Byte)
    (h : Memory.wf s.mem = true) : Memory.wf (s.storageData c ok data).1.mem = true := by
  simp only [State.storageData]
  repeat' split
  · simp [h]
  · simpa using State.ctxWrite_memWf h ‹_›
  all_goals simp [h]

@[simp] theorem State.completeStorage_memWf (s : State) (id : Nat) (c : Cmd) (sf : BitVec 15) (data : List Byte)
    (h : Memory.wf s.mem = true) : Memory.wf (s.completeStorage id c sf data).mem = true := by
  have hd := State.storageData_memWf s c (sf == 0) data h
  unfold State.completeStorage
  split
  · rename_i ht
    rw [ht] at hd
    simp [hd]
  · rename_i ht
    rw [ht] at hd
    split
    · simp [hd]
    · rename_i hu
      have hw := State.ctxWrite_memWf hd hu
      dsimp only
      split <;> simp [hw]

@[simp] theorem State.beginCmd_memWf (s : State) (id : Nat) (c : Cmd) (h : Memory.wf s.mem = true) :
    Memory.wf (s.beginCmd id c).mem = true := by
  unfold State.beginCmd
  split <;> simp [h]

@[simp] theorem State.moveData_memWf (s : State) (id : Nat) (c : Cmd) (h : Memory.wf s.mem = true) :
    Memory.wf (s.moveData id c).1.mem = true := by
  unfold State.moveData
  split <;> simp [h]

@[simp] theorem State.partly_memWf (s t : State) (blk : Nat) (ht : Memory.wf t.mem = true) :
    Memory.wf (s.partly t blk).mem = true := by
  simp only [State.partly, State.updBlock_mem]
  refine List.foldlRecOn (motive := fun m => Memory.wf m = true) _ _ ht fun m hm e _ => ?_
  split <;> simp [hm]

theorem State.wholePart_memWf {s : State} {k : Nat} {c : Cmd} {u : State × Events} (h : Memory.wf s.mem = true)
    (hu : s.wholePart k c = some u) : Memory.wf u.1.mem = true := by
  unfold State.wholePart at hu
  split at hu
  · exact State.moveElem_memWf h hu
  · exact State.moveEnc_memWf h hu
  · exact State.moveDect_memWf h hu
  · cases hu

@[simp] theorem State.stageSource_mem (s : State) (id k : Nat) (c : Cmd) : (s.stageSource id k c).mem = s.mem := by
  simp only [State.stageSource]
  repeat' split
  all_goals simp

@[simp] theorem State.transferPart_memWf (s : State) (id k : Nat) (h : Memory.wf s.mem = true) :
    Memory.wf (s.transferPart id k).mem = true := by
  unfold State.transferPart
  split
  · exact h
  split
  · exact h
  split
  · simp [h]
  · simp [h]
  · simp [h]
  · split <;> simp [h]
  · split <;> simp [h]
  · simp [h]
  · simp [h]
  · simp [h]
  · simp [h]
  · dsimp only
    split
    · rename_i t _ halloc
      have ht : Memory.wf t.mem = true := by
        split at halloc
        · split at halloc
          · exact State.moveAlloc_memWf h halloc
          · cases halloc
        · cases halloc
      simp [ht]
    · rename_i hpart
      have ht := State.wholePart_memWf h hpart
      split <;> simp [ht]
    · exact h

@[simp] theorem State.noteRows_mem (s : State) (c : Cmd) (t : Tensor) : (s.noteRows c t).mem = s.mem := by
  simp [State.noteRows]

theorem State.placeHalf_mem {s u : State} {core : Nat} {h : Half} (hu : s.placeHalf core h = some u) :
    u.mem = s.mem := by
  simp only [State.placeHalf] at hu
  repeat' split at hu
  all_goals cases hu
  all_goals rfl

@[simp] theorem State.renameLoad_mem (s : State) (wid old new : Nat) : (s.renameLoad wid old new).mem = s.mem := rfl

@[simp] theorem State.noteBough_mem (s : State) (c : Cmd) (p : Plan) : (s.noteBough c p).mem = s.mem := by
  unfold State.noteBough
  split <;> simp

@[simp] theorem State.writeMma_mem (s : State) (c : Cmd) (o : MMma) (p : Plan) (x : Operands) :
    (s.writeMma c o p x).mem = s.mem := by
  unfold State.writeMma
  exact State.foldl_mem (fun _ _ => by simp) _ _

@[simp] theorem State.spoilMma_mem (s : State) (c : Cmd) (o : MMma) : (s.spoilMma c o).mem = s.mem := by
  unfold State.spoilMma
  exact State.foldl_mem (fun _ _ => by simp) _ _

theorem State.matrixFails_mem {s : State} {id : Nat} {c : Cmd} {u : State × AccFault}
    (hu : s.matrixFails id c = some u) : u.1.mem = s.mem := by
  unfold State.matrixFails at hu
  repeat' split at hu
  all_goals cases hu
  all_goals simp

/-! ## Kernels and grids -/

@[simp] theorem State.cancelGrids_mem (s : State) (cid : Nat) : (s.cancelGrids cid).mem = s.mem := by
  unfold State.cancelGrids
  refine State.foldl_mem (fun s n => ?_) _ _
  simp only
  repeat' split
  all_goals simp

@[simp] theorem State.launchFault_memWf (s : State) (f : AccFault) (h : Memory.wf s.mem = true) :
    Memory.wf (s.launchFault f).1.mem = true := by
  unfold State.launchFault
  split <;> simp [h]

@[simp] theorem State.launch_memWf (s : State) (va : DWord) (h : Memory.wf s.mem = true) :
    Memory.wf (s.launch va).1.mem = true := by
  simp only [State.launch]
  repeat' split
  all_goals simp [h]

@[simp] theorem State.endsRun_mem (s : State) : s.endsRun.mem = s.mem := rfl

@[simp] theorem State.block_mem (s : State) (x : Wait) : (s.block x).mem = s.mem := rfl

@[simp] theorem State.wakePred_mem (s : State) : s.wakePred.mem = s.mem := by
  simp [State.wakePred, apply_ite State.mem]

/-! ## Class Y -/

@[simp] theorem State.illegal_memWf (s : State) (h : Memory.wf s.mem = true) : Memory.wf s.illegal.mem = true := by
  simp [State.illegal, h]

@[simp] theorem State.putPhaser_mem (s : State) (n : Nat) (p : Phaser) : (s.putPhaser n p).mem = s.mem := by
  simp [State.putPhaser]

@[simp] theorem State.phreg_memWf (s : State) (o : YX) (m : PhMode) (h : Memory.wf s.mem = true) :
    Memory.wf (s.phreg o m).mem = true := by
  simp only [State.phreg]
  repeat' split
  all_goals simp [h]

@[simp] theorem State.signalPhaser_mem (s : State) (n : Nat) : (s.signalPhaser n).mem = s.mem := by
  unfold State.signalPhaser
  split <;> simp

@[simp] theorem State.passGrid_mem (s : State) (wid n : Nat) : (s.passGrid wid n).mem = s.mem := rfl

@[simp] theorem State.waitPhaser_mem (s : State) (n : Nat) (passed : Bool) : (s.waitPhaser n passed).mem = s.mem := by
  unfold State.waitPhaser
  split <;> simp

@[simp] theorem State.racq_memWf (s : State) (o : YRg) (consumer : Bool) (h : Memory.wf s.mem = true) :
    Memory.wf (s.racq o consumer).mem = true := by
  simp only [State.racq]
  repeat' split
  all_goals simp [h]

@[simp] theorem State.rrel_memWf (s : State) (o : YRg) (consumer : Bool) (h : Memory.wf s.mem = true) :
    Memory.wf (s.rrel o consumer).mem = true := by
  simp only [State.rrel]
  repeat' split
  all_goals simp [h]

@[simp] theorem State.wakeTime_mem (s : State) (wid : Nat) : (s.wakeTime wid).mem = s.mem := by
  simp only [State.wakeTime]
  repeat' split
  all_goals simp

@[simp] theorem State.queueTrap_memWf (s : State) (f : AccFault) (h : Memory.wf s.mem = true) :
    Memory.wf (s.queueTrap f).mem = true := by simp [State.queueTrap, h]

@[simp] theorem State.wrQuad_mem (s : State) (d : Reg) (bs : List Byte) : (s.wrQuad d bs).mem = s.mem := rfl

/-! ## Events of issue -/

@[simp] theorem State.pollEvent_memWf (s : State) (wid : Nat) (h : Memory.wf s.mem = true) :
    Memory.wf (s.pollEvent wid).mem = true := by
  simp only [State.pollEvent]
  repeat' split
  all_goals simp [h]

@[simp] theorem State.writeBack_memWf (s : State) (wid reg : Nat) (h : Memory.wf s.mem = true) :
    Memory.wf (s.writeBack wid reg).mem = true := by
  unfold State.writeBack
  dsimp only
  split
  · rw [State.updWarp_mem]
    exact State.homeWrite_memWf _ _ _ h
  · exact h

@[simp] theorem State.roomLines_memWf (s : State) (core n fuel : Nat) (h : Memory.wf s.mem = true) :
    Memory.wf (s.roomLines core n fuel).mem = true := by
  induction fuel generalizing s with
  | zero => exact h
  | succ fuel ih =>
    simp only [State.roomLines]
    repeat' split
    · exact h
    · exact h
    · exact ih _ (State.writeBack_memWf _ _ _ h)

@[simp] theorem State.takeLines_memWf (s : State) (core : Nat) (keys : List Nat) (h : Memory.wf s.mem = true) :
    Memory.wf (s.takeLines core keys).mem = true := by simp [State.takeLines, h]

@[simp] theorem State.loadRegister_mem (s : State) (wid reg : Nat) : (s.loadRegister wid reg).mem = s.mem := by
  unfold State.loadRegister
  rw [State.updWarp_mem, State.noteHome_mem]

/-! ## Images -/

@[simp] theorem State.writeCtl_memWf (s : State) (b : Block) (h : Memory.wf s.mem = true) :
    Memory.wf (s.writeCtl b).mem = true := by
  unfold State.writeCtl
  exact State.MemWf.foldl (fun _ _ hs => hs.homeWrite _ _) _ h

@[simp] theorem State.writeTile_memWf (s : State) (blk img bytes : Nat) (h : Memory.wf s.mem = true) :
    Memory.wf (s.writeTile blk img bytes).mem = true := by
  unfold State.writeTile
  exact State.homeWrite_memWf _ _ _ h

@[simp] theorem State.writeBanks_memWf (s : State) (blk img n : Nat) (h : Memory.wf s.mem = true) :
    Memory.wf (s.writeBanks blk img n).mem = true := by
  unfold State.writeBanks
  exact State.MemWf.foldl (fun _ _ hs => hs.homeWrite _ _) _ h

@[simp] theorem State.writeImage_memWf (s : State) (blk : Nat) (b : Block) (img : Nat) (h : Memory.wf s.mem = true) :
    Memory.wf (s.writeImage blk b img).mem = true := by
  have hi (tile : Nat) : (((s.writeCtl b).writeTile blk img tile).writeBanks blk img b.acc.length).MemWf :=
    State.writeBanks_memWf _ _ _ _ (State.writeTile_memWf _ _ _ _ (State.writeCtl_memWf _ _ h))
  have himg : (s.writeImage blk b img).MemWf := (hi _).homeWrite _ _
  exact himg

/-! ## Distributors -/

@[simp] theorem State.settleHeld_mem (s : State) (cid : Nat) : (s.settleHeld cid).mem = s.mem := rfl

@[simp] theorem State.finishGrid_mem (s : State) (cid n : Nat) : (s.finishGrid cid n).mem = s.mem := by
  simp only [State.finishGrid]
  repeat' split
  all_goals simp

@[simp] theorem State.recordWritten_mem (s : State) (cid : Nat) (r : EventRec) :
    (s.recordWritten cid r).mem = s.mem := by
  simp only [State.recordWritten]
  repeat' split
  all_goals simp

@[simp] theorem State.joinAge_mem (s : State) (core slot wid : Nat) : (s.joinAge core slot wid).mem = s.mem := rfl

@[simp] theorem State.beginSlice_mem (s : State) (cid : Nat) : (s.beginSlice cid).mem = s.mem := by
  simp [State.beginSlice, apply_ite State.mem]

@[simp] theorem State.unidle_mem (s : State) (core : Nat) : (s.unidle core).mem = s.mem := by
  unfold State.unidle
  split <;> rfl

@[simp] theorem State.launchBlock_memWf (s : State) (cid n gang rank core : Nat) (g : Grid)
    (h : Memory.wf s.mem = true) : Memory.wf (s.launchBlock cid n gang rank core g).mem = true := by
  unfold State.launchBlock
  exact State.foldl_memWf (fun _ _ hs => by simp [hs]) _ _ (by simp [h])

@[simp] theorem State.launchGang_memWf (s : State) (cid n gang : Nat) (cores : List Nat) (g : Grid)
    (h : Memory.wf s.mem = true) : Memory.wf (s.launchGang cid n gang cores g).mem = true := by
  have acquired (t : State) : (cores.foldl (fun s c => s.acquire c 3) t).mem = t.mem :=
    State.foldl_mem (fun _ _ => by simp) _ _
  simp only [State.launchGang, State.restartHang_mem, State.updGrid_mem, apply_ite State.mem, acquired, ite_self]
  refine State.foldl_memWf (fun _ _ hs => by simp [hs]) _ _ ?_
  split <;> simp [h]

@[simp] theorem State.notePlaced_mem (s : State) (cid n : Nat) : (s.notePlaced cid n).mem = s.mem := rfl

theorem State.placeAll_memWf {cid n : Nat} {g : Grid} (l : List Nat) {s u : State} (h : Memory.wf s.mem = true)
    (hu : s.placeAll cid n g l = some u) : Memory.wf u.mem = true := by
  induction l generalizing s with
  | nil => cases hu; exact h
  | cons j l ih =>
    simp only [State.placeAll] at hu
    split at hu
    · cases hu
    · exact ih (by simp [h]) hu

theorem State.placeGang_memWf {s u : State} {cid n gang : Nat} {l : List Nat} {g : Grid}
    (h : Memory.wf s.mem = true) (hu : s.placeGang cid n gang l g = some u) : Memory.wf u.mem = true := by
  simp only [State.placeGang] at hu
  split at hu
  · obtain ⟨t, ht, rfl⟩ := Option.map_eq_some_iff.1 hu
    simpa using State.placeAll_memWf _ (by simp [h]) ht
  · cases hu
    simp [h]

@[simp] theorem State.dropRegs_mem (s : State) (wid : Nat) : (s.dropRegs wid).mem = s.mem := by
  simp only [State.dropRegs, State.wake_mem]
  refine State.foldl_mem (fun s n => ?_) _ _
  repeat' split
  all_goals simp

@[simp] theorem State.freeBlock_mem (s : State) (blk : Nat) (b : Block) : (s.freeBlock blk b).mem = s.mem := rfl

/-! ## Class X -/

@[simp] theorem State.xSet_mem (s : State) (act : Lanes) (d : Reg) (f : Nat → Word) :
    (s.xSet act d f).mem = s.mem := by simp [State.xSet]

@[simp] theorem State.quadOp_mem (s : State) (op : LaneOp) (o : XTy) : (s.quadOp op o).mem = s.mem := by
  simp [State.quadOp]

@[simp] theorem State.vote_mem (s : State) (all : Bool) (o : XVote) : (s.vote all o).mem = s.mem := by
  simp [State.vote]

@[simp] theorem State.tileOp_mem (s : State) (op : LaneOp) (o : XTy) : (s.tileOp op o).mem = s.mem := by
  simp [State.tileOp]

@[simp] theorem State.transfer_mem (s : State) (threads : Lanes) (target : Nat → Pc) :
    (s.transfer threads target).mem = s.mem := rfl

/-! ## Class L -/

@[simp] theorem State.lockTrap_memWf (s : State) (l : Lock × LockRange) (addr : DWord) (lane : Nat)
    (h : Memory.wf s.mem = true) : Memory.wf (s.lockTrap l addr lane).mem = true := by
  simp [State.lockTrap, h]

@[simp] theorem State.orderOnly_mem (s : State) (i : Instr) (scope : Nat) (acq rel : Bool) :
    (s.orderOnly i scope acq rel).mem = s.mem := by
  unfold State.orderOnly
  split <;> simp

@[simp] theorem State.zeroHelpers_mem (s : State) (lanes : Lanes) (regs : List RegName) :
    (s.zeroHelpers lanes regs).mem = s.mem := by
  unfold State.zeroHelpers
  exact State.foldl_mem (fun _ _ => State.foldl_mem (fun _ _ => by simp) _ _) _ _

@[simp] theorem State.pushMem_mem (s : State) (i : Instr) (k : MemKind) (sp : Space) (act : Lanes)
    (addrs : List RegName) (d regs back size : Nat) (px : LPfx) (accs : List Access) :
    (s.pushMem i k sp act addrs d regs back size px accs).mem = s.mem := by simp [State.pushMem]

@[simp] theorem State.installAll_mem (s : State) (core cid : Nat) (vas : List DWord) :
    (s.installAll core cid vas).mem = s.mem := by simp [State.installAll]

@[simp] theorem State.requestFills_mem (s : State) (w : Warp) (size : Nat) (m : Mark) (accs : List Access) :
    (s.requestFills w size m accs).mem = s.mem := by simp [State.requestFills, apply_ite State.mem]

@[simp] theorem State.issueGlobal_memWf (s : State) (i : Instr) (k : MemKind) (o : LMem) (size regs back : Nat)
    (h : Memory.wf s.mem = true) : Memory.wf (s.issueGlobal i k o size regs back).mem = true := by
  simp only [State.issueGlobal]
  repeat' split
  all_goals simp [h]

@[simp] theorem State.issueTile_memWf (s : State) (i : Instr) (k : MemKind) (o : LTile) (size regs back : Nat)
    (h : Memory.wf s.mem = true) : Memory.wf (s.issueTile i k o size regs back).mem = true := by
  simp only [State.issueTile]
  repeat' split
  all_goals simp [h]

@[simp] theorem State.issueAcc_memWf (s : State) (i : Instr) (k : MemKind) (o : LAcc) (h : Memory.wf s.mem = true) :
    Memory.wf (s.issueAcc i k o).mem = true := by
  simp only [State.issueAcc]
  repeat' split
  all_goals simp [h]

@[simp] theorem State.issueLdc_memWf (s : State) (i : Instr) (o : LTile) (h : Memory.wf s.mem = true) :
    Memory.wf (s.issueLdc i o).mem = true := by
  simp only [State.issueLdc]
  repeat' split
  all_goals simp [h]

@[simp] theorem State.lineWalks_mem (s : State) (o : LLine) : (s.lineWalks o).mem = s.mem := by simp [State.lineWalks]

/-! ## Events of memory operations and caches -/

@[simp] theorem State.refuseWaiting_mem (s : State) (line wid id : Nat) :
    (s.refuseWaiting line wid id).mem = s.mem := by
  simp only [State.refuseWaiting]
  repeat' split
  all_goals simp

@[simp] theorem State.landFill_memWf (s : State) (core : Nat) (f : Fill) (wait : List (Nat × Nat))
    (h : Memory.wf s.mem = true) : Memory.wf (s.landFill core f wait).mem = true := by
  simp only [State.landFill, State.updCore_mem]
  exact State.foldl_memWf (fun _ _ hs => by simp [hs]) _ _ (by simp [h])

@[simp] theorem State.sendInvalidation_mem (s : State) (d line : Nat) : (s.sendInvalidation d line).mem = s.mem := rfl

@[simp] theorem State.writeOver_mem (s : State) (core write : Nat) (e : Outbound) (deny : Bool) :
    (s.writeOver core write e deny).mem = s.mem := by
  unfold State.writeOver
  split <;> simp

/-! ## The stop walk -/

@[simp] theorem State.startWalk_mem (s : State) (cid : Nat) (blocks : List Nat) (whole : Bool) (dest : Option Nat) :
    (s.startWalk cid blocks whole dest).mem = s.mem := rfl

@[simp] theorem State.stopAll_mem (s : State) (cid : Nat) : (s.stopAll cid).mem = s.mem := by
  unfold State.stopAll
  split <;> rfl

@[simp] theorem State.stopWarp_mem (s : State) (wid : Nat) : (s.stopWarp wid).mem = s.mem := by
  simp [State.stopWarp, apply_ite State.mem]

@[simp] theorem State.withdraw_mem (s : State) (id : Nat) (c : Cmd) : (s.withdraw id c).mem = s.mem := by
  simp [State.withdraw]

@[simp] theorem State.endWalk_mem (s : State) (cid : Nat) : (s.endWalk cid).mem = s.mem := by
  simp only [State.endWalk]
  repeat' split
  all_goals simp

@[simp] theorem State.releaseLines_mem (s : State) (core wid : Nat) : (s.releaseLines core wid).mem = s.mem := rfl

@[simp] theorem State.noteSent_mem (s : State) (b : Block) : (s.noteSent b).mem = s.mem := rfl

@[simp] theorem State.saveBlock_memWf (s : State) (blk : Nat) (b : Block) (img : Nat × Nat)
    (h : Memory.wf s.mem = true) : Memory.wf (s.saveBlock blk b img).mem = true := by
  have released (t : State) : (b.warps.foldl (fun s w => s.releaseLines b.core w) t).mem = t.mem :=
    State.foldl_mem (fun _ _ => by simp) _ _
  have saved (t : State) (f : Warp → Warp) : (b.warps.foldl (fun s w => s.updWarp w f) t).mem = t.mem :=
    State.foldl_mem (fun _ _ => by simp) _ _
  have hs : (s.saveBlock blk b img).MemWf := by
    unfold State.saveBlock
    refine State.MemWf.congr ?_ (State.updCore_mem _ _ _)
    refine State.MemWf.congr ?_ (saved _ _)
    refine State.MemWf.congr ?_ (State.updBlock_mem _ _ _)
    refine State.MemWf.congr ?_ (State.noteSent_mem _ _)
    refine State.writeImage_memWf _ _ _ _ ?_
    rw [released]
    split <;> simp [h]
  exact hs

@[simp] theorem State.requeue_mem (s : State) (cid : Nat) (w : Walk) (b : Block) :
    (s.requeue cid w b).mem = s.mem := by
  unfold State.requeue
  split <;> rfl

@[simp] theorem State.flushLines_memWf (s : State) (core wid : Nat) (h : Memory.wf s.mem = true) :
    Memory.wf (s.flushLines core wid).mem = true := by
  unfold State.flushLines
  exact State.foldl_memWf (fun _ _ hs => by simp [hs]) _ _ h

@[simp] theorem State.reclaimLines_mem (s : State) (core wid : Nat) : (s.reclaimLines core wid).mem = s.mem := rfl

@[simp] theorem State.arrive_memWf (s : State) (blk core : Nat) (b : Block) (h : Memory.wf s.mem = true) :
    Memory.wf (s.arrive blk core b).mem = true := by
  have left (l : List Nat) : Memory.wf (l.foldl (fun s w =>
      if b.core = core then s.reclaimLines core w else s.flushLines b.core w) s).mem = true :=
    State.foldl_memWf (fun _ _ hs => by split <;> simp [hs]) _ _ h
  unfold State.arrive
  refine State.foldl_memWf (fun s e hs => ?_) _ _ (by simpa using left b.warps)
  simp only [apply_ite State.mem, State.joinAge_mem, State.updWarp_mem, ite_self, hs]

@[simp] theorem State.hangWarp_memWf (s : State) (wid : Nat) (h : Memory.wf s.mem = true) :
    Memory.wf (s.hangWarp wid).mem = true := by
  simp only [State.hangWarp]
  repeat' split
  all_goals simp [h]

/-! ## Registers from outside -/

@[simp] theorem State.sampleDesc_mem (s : State) (cid : Nat) : (s.sampleDesc cid).mem = s.mem := rfl

@[simp] theorem State.jobLast_mem (s : State) (cid : Nat) (v : BitVec 8) : (s.jobLast cid v).mem = s.mem := rfl

@[simp] theorem State.noteBreach_mem (s : State) (area : Bool) : (s.noteBreach area).mem = s.mem := rfl

@[simp] theorem State.startJob_memWf (t : State) (cid : Nat) (jcb : DWord) (ws : List DWord)
    (h : Memory.wf t.mem = true) : Memory.wf (t.startJob cid jcb ws).mem = true := by
  unfold State.startJob
  extract_lets die id t1 t2 t3 t4
  have h4 : Memory.wf t4.mem = true := by simpa [t4, t3, t2, t1] using h
  split
  · rename_i ht
    exact State.ctxWrite_memWf h4 ht
  · simp [h4]

@[simp] theorem State.writeControl_mem (s : State) (die off : Nat) (value : DWord) :
    (s.writeControl die off value).mem = s.mem := by simp [State.writeControl, apply_ite State.mem]

@[simp] theorem State.writeBar0_mem (s : State) (off : Nat) (value : DWord) :
    (s.writeBar0 off value).mem = s.mem := by simp [State.writeBar0, apply_ite State.mem]

@[simp] theorem State.writeFirmware_mem (s : State) (off : Nat) (value : DWord) :
    (s.writeFirmware off value).mem = s.mem := by
  unfold State.writeFirmware
  split <;> rfl

@[simp] theorem State.writeManagement_mem (s : State) (off : Nat) (value : DWord) :
    (s.writeManagement off value).mem = s.mem := by
  unfold State.writeManagement
  split <;> rfl

/-! ## The platform -/

@[simp] theorem State.send_mem (s : State) (m : OutMsg) : (s.send m).mem = s.mem := rfl

@[simp] theorem State.homeRead_mem (s : State) (key n : Nat) : (s.homeRead key n).mem = s.mem := by
  unfold State.homeRead
  split <;> simp

@[simp] theorem State.perform_memWf (s : State) (key : Nat) (x : HostAccess) (h : Memory.wf s.mem = true) :
    Memory.wf (s.perform key x).1.mem = true := by
  unfold State.perform
  split <;> simp [h]

@[simp] theorem State.loseWrite_memWf (s : State) (core : Nat) (performed : List Nat) (e : Nat × Outbound)
    (h : Memory.wf s.mem = true) : Memory.wf (s.loseWrite core performed e).mem = true := by
  unfold State.loseWrite
  split <;> simp [h]

@[simp] theorem State.loseReads_mem (s : State) : s.loseReads.mem = s.mem := rfl

@[simp] theorem State.terminateAll_memWf (s : State) (status : BitVec 8) (h : Memory.wf s.mem = true) :
    Memory.wf (s.terminateAll status).mem = true := by
  unfold State.terminateAll
  exact State.foldl_memWf (fun _ _ hs => by simp [hs]) _ _ h

@[simp] theorem State.sharedError_memWf (s : State) (h : Memory.wf s.mem = true) :
    Memory.wf s.sharedError.mem = true := by simp [State.sharedError, h]

@[simp] theorem State.spoil_mem (s : State) : s.spoil.mem = s.mem := by simp [State.spoil, apply_ite State.mem]

@[simp] theorem State.putSample_memWf (s : State) (die : Nat) (bs : List Byte) (h : Memory.wf s.mem = true) :
    Memory.wf (s.putSample die bs).mem = true := by
  simp only [State.putSample]
  repeat' split
  all_goals simp [h]

@[simp] theorem State.setLevel_mem (s : State) (cluster n : Nat) : (s.setLevel cluster n).mem = s.mem := rfl

@[simp] theorem State.applyLevel_mem (s : State) (cluster : Nat) : (s.applyLevel cluster).mem = s.mem := rfl

@[simp] theorem State.senseDie_mem (s : State) (die n : Nat) : (s.senseDie die n).mem = s.mem := rfl

@[simp] theorem State.sense_mem (s : State) (value : DWord) : (s.sense value).mem = s.mem := rfl

@[simp] theorem State.bothDies_mem (s : State) (f : Nat → Die → Die) : (s.bothDies f).mem = s.mem := rfl

end Sys2Proof.Machine
end

section
/-! Every step keeps memory's canonical form: the meaning of each instruction and event in turn, then an issue slot, a move
and a step. -/

namespace Sys2Proof.Machine

/-- Where the outcome is a next state, its memory has the canonical form. -/
def OutcomeMemWf (o : Host.Outcome State Fault Refusal) : Prop := ∀ t, o = .next t → Memory.wf t.mem = true

@[simp] theorem outcomeMemWf_next (t : State) : OutcomeMemWf (.next t) ↔ Memory.wf t.mem = true :=
  ⟨fun h => h t rfl, fun h _ ht => by cases ht; exact h⟩

theorem outcomeMemWf_of_mem {s t : State} (h : Memory.wf s.mem = true) (ht : t.mem = s.mem) :
    OutcomeMemWf (.next t) := (outcomeMemWf_next t).2 (by rw [ht]; exact h)

/-- A reset keeps the addresses and lists no byte that reads as memory nothing has written (log entry 56). -/
theorem State.memAfterReset_wf (s : State) (h : Memory.wf s.mem = true) : Memory.wf s.memAfterReset = true := by
  have hb : ∀ e ∈ s.mem, e.2 ≠ Memory.blank := fun e he => by
    simp only [Memory.wf, Sparse.wf, Bool.and_eq_true, List.all_eq_true, decide_eq_true_eq] at h
    exact h.2 e he
  refine Sparse.wf_filterMap (fun e e' hf => ?_) (fun e he e' hf => ?_) h
  · dsimp only at hf
    repeat' split at hf
    all_goals cases hf
    all_goals rfl
  · dsimp only at hf
    repeat' split at hf
    all_goals cases hf
    · assumption
    · exact hb e he

theorem State.moveData_memWf_of_eq {s t : State} {id : Nat} {c : Cmd} {r : Events × Option AccFault}
    (h : Memory.wf s.mem = true) (ht : s.moveData id c = (t, r)) : Memory.wf t.mem = true := by
  have hw := State.moveData_memWf s id c h
  rwa [ht] at hw

theorem State.perform_memWf_of_eq {s t : State} {key : Nat} {acc : HostAccess} {r : Option (List Byte)}
    (h : Memory.wf s.mem = true) (ht : s.perform key acc = (t, r)) : Memory.wf t.mem = true := by
  have hw := State.perform_memWf s key acc h
  rwa [ht] at hw

/-! ## Conversions -/

theorem execCvt_memWf (o : VCV) (s : State) (h : Memory.wf s.mem = true) : OutcomeMemWf (execCvt o s) := by
  simp [execCvt, h]

theorem execCvts_memWf (o : VAW) (s : State) (h : Memory.wf s.mem = true) : OutcomeMemWf (execCvts o s) := by
  unfold execCvts
  rw [outcomeMemWf_next]
  split <;> simp [h]

/-! ## Class S -/

theorem execFfmaw_memWf (o : SRR) (s : State) (h : Memory.wf s.mem = true) : OutcomeMemWf (execFfmaw o s) := by
  unfold execFfmaw
  rw [outcomeMemWf_next]
  split <;> simp [h]

theorem execFdivw_memWf (o : SRR) (s : State) (h : Memory.wf s.mem = true) : OutcomeMemWf (execFdivw o s) := by
  unfold execFdivw
  rw [outcomeMemWf_next]
  split <;> simp [h]

theorem execFcmpw_memWf (o : SCS) (s : State) (h : Memory.wf s.mem = true) : OutcomeMemWf (execFcmpw o s) := by
  unfold execFcmpw
  rw [outcomeMemWf_next]
  split <;> simp [h]

/-! ## Class V -/

theorem execVmovp_memWf (o : VA) (s : State) (h : Memory.wf s.mem = true) : OutcomeMemWf (execVmovp o s) := by
  simp [execVmovp, h]

/-! ## Classes C and M -/

theorem execSetaFlagClear_memWf (wid flag : Nat) (s : State) (h : Memory.wf s.mem = true) :
    OutcomeMemWf (execSetaFlagClear wid flag s) := by simp [execSetaFlagClear, h]

theorem execCpym_memWf (o : CCpym) (s : State) (h : Memory.wf s.mem = true) : OutcomeMemWf (execCpym o s) := by
  unfold execCpym
  rw [outcomeMemWf_next]
  split <;> simp [h]

theorem execAppend_memWf (o : CApp) (s : State) (h : Memory.wf s.mem = true) : OutcomeMemWf (execAppend o s) := by
  unfold execAppend
  rw [outcomeMemWf_next]
  split <;> simp [h]

/-! ## The life of an engine command -/

theorem execMulticastDelivery_memWf (id rank : Nat) (s : State) (h : Memory.wf s.mem = true) :
    OutcomeMemWf (execMulticastDelivery id rank s) := by
  simp only [execMulticastDelivery, outcomeMemWf_next]
  repeat' split
  all_goals simp [h]

theorem execCpymGangSignal_memWf (id : Nat) (s : State) (h : Memory.wf s.mem = true) :
    OutcomeMemWf (execCpymGangSignal id s) := by
  simp only [execCpymGangSignal, outcomeMemWf_next]
  repeat' split
  all_goals simp [h]

theorem execAppendGroup_memWf (id : Nat) (s : State) (h : Memory.wf s.mem = true) :
    OutcomeMemWf (execAppendGroup id s) := by
  simp only [execAppendGroup, outcomeMemWf_next]
  repeat' split
  all_goals simp [h]

theorem execTerminationDetectorSignal_memWf (cid : Nat) (s : State) (h : Memory.wf s.mem = true) :
    OutcomeMemWf (execTerminationDetectorSignal cid s) := by
  simp only [execTerminationDetectorSignal, outcomeMemWf_next]
  repeat' split
  all_goals simp [h]

theorem execStorageCompletion_memWf (id : Nat) (sf : BitVec 15) (data : List Byte) (s : State)
    (h : Memory.wf s.mem = true) : OutcomeMemWf (execStorageCompletion id sf data s) := by
  simp only [execStorageCompletion, outcomeMemWf_next]
  repeat' split
  all_goals simp [h]

theorem execEngineCommandStart_memWf (id : Nat) (s : State) (h : Memory.wf s.mem = true) :
    OutcomeMemWf (execEngineCommandStart id s) := by
  simp only [execEngineCommandStart, outcomeMemWf_next]
  repeat' split
  all_goals simp [h]

theorem execEngineCommandComplete_memWf (id : Nat) (s : State) (h : Memory.wf s.mem = true) :
    OutcomeMemWf (execEngineCommandComplete id s) := by
  simp only [execEngineCommandComplete, outcomeMemWf_next]
  repeat' split
  · exact h
  · exact h
  · rename_i ht
    simp [State.moveData_memWf_of_eq h ht]
  · exact h

theorem execEngineFault_memWf (id : Nat) (s : State) (h : Memory.wf s.mem = true) :
    OutcomeMemWf (execEngineFault id s) := by
  simp only [execEngineFault, outcomeMemWf_next]
  split
  · exact h
  split
  · exact h
  split
  · repeat' split
    all_goals simp [h]
  · split
    · simp [h]
    · split
      · rename_i hu
        simp [State.moveData_memWf_of_eq (by simp [h]) hu]
      · simp [h]

theorem execMmaStart_memWf (id : Nat) (s : State) (h : Memory.wf s.mem = true) :
    OutcomeMemWf (execMmaStart id s) := by
  simp only [execMmaStart, outcomeMemWf_next]
  repeat' split
  all_goals simp [h]

theorem execProjectionReload_memWf (id : Nat) (s : State) (h : Memory.wf s.mem = true) :
    OutcomeMemWf (execProjectionReload id s) := by
  simp only [execProjectionReload, outcomeMemWf_next]
  repeat' split
  · exact h
  · simp [h]
  · simp [h]
  · simp [h]
  · rename_i hu
    simp [State.placeHalf_mem hu, h]

theorem execMlatLoadComplete_memWf (id : Nat) (s : State) (h : Memory.wf s.mem = true) :
    OutcomeMemWf (execMlatLoadComplete id s) := by
  simp only [execMlatLoadComplete, outcomeMemWf_next]
  repeat' split
  · exact h
  · exact h
  · exact h
  · exact h
  · exact h
  · rename_i ht
    simp [State.placeHalf_mem ht, h]

theorem execMmaComplete_memWf (id : Nat) (s : State) (h : Memory.wf s.mem = true) :
    OutcomeMemWf (execMmaComplete id s) := by
  simp only [execMmaComplete, outcomeMemWf_next]
  repeat' split
  all_goals simp [h]

theorem execMatrixFault_memWf (id : Nat) (s : State) (h : Memory.wf s.mem = true) :
    OutcomeMemWf (execMatrixFault id s) := by
  simp only [execMatrixFault, outcomeMemWf_next]
  split
  · exact h
  split
  · exact h
  split
  · split <;> simp [h]
  · split
    · rename_i hu
      have hm := State.matrixFails_mem hu
      dsimp only at hm
      simp [hm, h]
    · simp [h]

theorem execMboundResult_memWf (wid id : Nat) (s : State) (h : Memory.wf s.mem = true) :
    OutcomeMemWf (execMboundResult wid id s) := by
  simp only [execMboundResult, outcomeMemWf_next]
  repeat' split
  all_goals simp [h]

/-! ## Kernels and grids -/

theorem execLaunch_memWf (o : YLn) (s : State) (h : Memory.wf s.mem = true) : OutcomeMemWf (execLaunch o s) := by
  simp only [execLaunch, outcomeMemWf_next]
  repeat' split
  all_goals simp [h]

theorem execSucchint_memWf (o : YG) (s : State) (h : Memory.wf s.mem = true) : OutcomeMemWf (execSucchint o s) := by
  simp only [execSucchint, outcomeMemWf_next]
  repeat' split
  all_goals simp [h]

theorem execPredwait_memWf (o : YG) (s : State) (h : Memory.wf s.mem = true) : OutcomeMemWf (execPredwait o s) := by
  simp only [execPredwait, outcomeMemWf_next]
  repeat' split
  all_goals simp [h]

/-! ## Class Y -/

theorem execPhdrop_memWf (o : YX) (s : State) (h : Memory.wf s.mem = true) : OutcomeMemWf (execPhdrop o s) := by
  simp only [execPhdrop, outcomeMemWf_next]
  repeat' split
  all_goals simp [h]

theorem execPhsig_memWf (o : YX) (s : State) (h : Memory.wf s.mem = true) : OutcomeMemWf (execPhsig o s) := by
  simp only [execPhsig, outcomeMemWf_next]
  repeat' split
  all_goals simp [h]

theorem execPhwait_memWf (o : YX) (s : State) (h : Memory.wf s.mem = true) : OutcomeMemWf (execPhwait o s) := by
  simp only [execPhwait, outcomeMemWf_next]
  repeat' split
  all_goals simp [h]

theorem execPhsw_memWf (o : YX) (s : State) (h : Memory.wf s.mem = true) : OutcomeMemWf (execPhsw o s) := by
  simp only [execPhsw, outcomeMemWf_next]
  repeat' split
  all_goals simp [h]

theorem execPhget_memWf (o : YPg) (s : State) (h : Memory.wf s.mem = true) : OutcomeMemWf (execPhget o s) := by
  simp only [execPhget, outcomeMemWf_next]
  repeat' split
  all_goals simp [h]

theorem execTime_memWf (o : YD) (s : State) (h : Memory.wf s.mem = true) : OutcomeMemWf (execTime o s) := by
  unfold execTime
  rw [outcomeMemWf_next]
  split <;> simp [h]

theorem execTwait_memWf (o : YA) (s : State) (h : Memory.wf s.mem = true) : OutcomeMemWf (execTwait o s) := by
  unfold execTwait
  rw [outcomeMemWf_next]
  split <;> simp [h]

theorem execEvwait_memWf (o : YD) (s : State) (h : Memory.wf s.mem = true) : OutcomeMemWf (execEvwait o s) := by
  simp only [execEvwait, outcomeMemWf_next]
  repeat' split
  all_goals simp [h]

theorem execEvpop_memWf (o : YD) (s : State) (h : Memory.wf s.mem = true) : OutcomeMemWf (execEvpop o s) := by
  simp only [execEvpop, outcomeMemWf_next]
  split
  · exact h
  split
  · simp [h]
  split
  · simp [h]
  split
  · simp [h]
  split
  · simp [h]
  split
  · simp [h]
  split
  · simp [h]
  · rename_i ht
    have hw := State.ctxWrite_memWf (by simp [h]) ht
    simp [hw]

theorem execPlvl_memWf (o : YA) (s : State) (h : Memory.wf s.mem = true) : OutcomeMemWf (execPlvl o s) := by
  unfold execPlvl
  rw [outcomeMemWf_next]
  split <;> simp [h]

theorem execCsrr_memWf (o : YCr) (s : State) (h : Memory.wf s.mem = true) : OutcomeMemWf (execCsrr o s) := by
  unfold execCsrr
  rw [outcomeMemWf_next]
  split <;> simp [h]

theorem execCsrw_memWf (o : YCw) (s : State) (h : Memory.wf s.mem = true) : OutcomeMemWf (execCsrw o s) := by
  simp only [execCsrw, outcomeMemWf_next]
  repeat' split
  all_goals simp [h]

theorem execTrap_memWf (o : YN) (s : State) (h : Memory.wf s.mem = true) : OutcomeMemWf (execTrap o s) := by
  unfold execTrap
  rw [outcomeMemWf_next]
  split <;> simp [h]

theorem execBkpt_memWf (o : YN) (s : State) (h : Memory.wf s.mem = true) : OutcomeMemWf (execBkpt o s) := by
  unfold execBkpt
  rw [outcomeMemWf_next]
  split <;> simp [h]

theorem execRte_memWf (o : YG) (s : State) (h : Memory.wf s.mem = true) : OutcomeMemWf (execRte o s) := by
  simp only [execRte, outcomeMemWf_next]
  repeat' split
  all_goals simp [h]

/-! ## Events of issue -/

theorem execSelectRun_memWf (core slot : Nat) (s : State) (h : Memory.wf s.mem = true) :
    OutcomeMemWf (execSelectRun core slot s) := by
  have polled (l : List Nat) : Memory.wf (l.foldl (fun t w => t.pollEvent w) s).mem = true :=
    State.foldl_memWf (fun _ _ ht => by simp [ht]) _ _ h
  simp only [execSelectRun, outcomeMemWf_next]
  repeat' split
  · exact h
  all_goals simp [polled]

theorem execConductorRun_memWf (die cid : Nat) (s : State) (h : Memory.wf s.mem = true) :
    OutcomeMemWf (execConductorRun die cid s) := by
  have polled (l : List Nat) : Memory.wf (l.foldl (fun t w => t.pollEvent w) s).mem = true :=
    State.foldl_memWf (fun _ _ ht => by simp [ht]) _ _ h
  simp only [execConductorRun, outcomeMemWf_next]
  repeat' split
  · exact h
  all_goals simp [polled]

theorem execClauseFetch_memWf (wid : Nat) (s : State) (h : Memory.wf s.mem = true) :
    OutcomeMemWf (execClauseFetch wid s) := by
  simp only [execClauseFetch, outcomeMemWf_next]
  split
  · exact h
  split
  · rename_i ht
    have hm := State.fetchClause_mem ht
    dsimp only at hm
    split <;> simp [hm, h]
  · split <;> simp [h]

theorem execBbcPark_memWf (core slot : Nat) (s : State) (h : Memory.wf s.mem = true) :
    OutcomeMemWf (execBbcPark core slot s) := by
  simp only [execBbcPark, outcomeMemWf_next]
  repeat' split
  all_goals simp [h]

theorem execRegisterCacheFill_memWf (core wid reg : Nat) (s : State) (h : Memory.wf s.mem = true) :
    OutcomeMemWf (execRegisterCacheFill core wid reg s) := by
  simp only [execRegisterCacheFill, outcomeMemWf_next]
  repeat' split
  all_goals simp [h]

theorem execSlewAdmission_memWf (cid grid : Nat) (s : State) (h : Memory.wf s.mem = true) :
    OutcomeMemWf (execSlewAdmission cid grid s) := by
  simp only [execSlewAdmission, outcomeMemWf_next]
  exact State.foldl_memWf (fun _ _ ht => by simp [ht]) _ _ h

/-! ## Distributors -/

theorem execEventAppend_memWf (cid : Nat) (s : State) (h : Memory.wf s.mem = true) :
    OutcomeMemWf (execEventAppend cid s) := by
  simp only [execEventAppend, outcomeMemWf_next]
  repeat' split
  · exact h
  · exact h
  · simp [h]
  · simp [h]
  · rename_i ht
    exact State.foldl_memWf (fun _ _ hu => by simp [hu]) _ _ (by simpa using State.appendRecord_memWf h ht)

theorem execGridStartTime_memWf (cid grid : Nat) (s : State) (h : Memory.wf s.mem = true) :
    OutcomeMemWf (execGridStartTime cid grid s) := by
  simp only [execGridStartTime, outcomeMemWf_next]
  repeat' split
  all_goals simp [h]

theorem execBlockPlacement_memWf (cid grid gang core : Nat) (s : State) (h : Memory.wf s.mem = true) :
    OutcomeMemWf (execBlockPlacement cid grid gang core s) := by
  have placed (l : List Nat) (g : Grid) : Memory.wf ((s.placeGang cid grid gang l g).getD s).mem = true := by
    cases hp : s.placeGang cid grid gang l g with
    | none => exact h
    | some t => exact State.placeGang_memWf h hp
  simp only [execBlockPlacement, outcomeMemWf_next]
  repeat' split
  all_goals simp only [h, placed]

theorem execWarpEnd_memWf (wid : Nat) (s : State) (h : Memory.wf s.mem = true) :
    OutcomeMemWf (execWarpEnd wid s) := by
  unfold execWarpEnd
  rw [outcomeMemWf_next]
  split <;> simp [h]

theorem execBlockEnd_memWf (blk : Nat) (s : State) (h : Memory.wf s.mem = true) :
    OutcomeMemWf (execBlockEnd blk s) := by
  simp only [execBlockEnd, outcomeMemWf_next]
  repeat' split
  all_goals simp [h]

theorem execGridCompletion_memWf (cid grid : Nat) (s : State) (h : Memory.wf s.mem = true) :
    OutcomeMemWf (execGridCompletion cid grid s) := by
  simp only [execGridCompletion, outcomeMemWf_next]
  repeat' split
  all_goals simp [h]

theorem execJobEnd_memWf (cid : Nat) (s : State) (h : Memory.wf s.mem = true) : OutcomeMemWf (execJobEnd cid s) := by
  simp only [execJobEnd, outcomeMemWf_next]
  repeat' split
  all_goals simp [h]

/-! ## Class X -/

theorem execBrx_memWf (o : XA) (s : State) (h : Memory.wf s.mem = true) : OutcomeMemWf (execBrx o s) := by
  simp only [execBrx, outcomeMemWf_next]
  repeat' split
  all_goals simp [h]

theorem execCall_memWf (o : XBr) (s : State) (h : Memory.wf s.mem = true) : OutcomeMemWf (execCall o s) := by
  simp only [execCall, outcomeMemWf_next]
  repeat' split
  all_goals simp [h]

theorem execExit_memWf (o : XG) (s : State) (h : Memory.wf s.mem = true) : OutcomeMemWf (execExit o s) := by
  simp only [execExit, outcomeMemWf_next]
  repeat' split
  all_goals simp [h]

theorem execYield_memWf (o : XG) (s : State) (h : Memory.wf s.mem = true) : OutcomeMemWf (execYield o s) := by
  simp [execYield, h]

/-! ## Class L -/

theorem execFence_memWf (o : LFence) (s : State) (h : Memory.wf s.mem = true) : OutcomeMemWf (execFence o s) := by
  unfold execFence
  rw [outcomeMemWf_next]
  split <;> simp [h]

theorem execCinv_memWf (o : LLine) (s : State) (h : Memory.wf s.mem = true) : OutcomeMemWf (execCinv o s) := by
  rw [execCinv, outcomeMemWf_next, State.foldl_mem (fun _ _ => by simp)]
  simp [h]

theorem execPref_memWf (o : LLine) (s : State) (h : Memory.wf s.mem = true) : OutcomeMemWf (execPref o s) := by
  have hf (t : State) (e : Nat × Nat × Bool) : (if t.freeBool (9000000 + e.1) then t
      else
        let t := t.noteRead (dieOfCore t.self.core) e.2.1 1 (pxMark o.px = .stream && !e.2.2)
        if pxBypass o.px || e.2.2 then t
        else t.requestFill t.self.core (lineOf e.2.1) t.self.cid (pxMark o.px)).mem = t.mem := by
    dsimp only
    repeat' split
    all_goals simp
  rw [execPref, outcomeMemWf_next, State.foldl_mem hf]
  simp [h]

/-! ## Events of memory operations and caches -/

theorem execLongLatencyResult_memWf (wid op : Nat) (s : State) (h : Memory.wf s.mem = true) :
    OutcomeMemWf (execLongLatencyResult wid op s) := by
  simp only [execLongLatencyResult, outcomeMemWf_next]
  repeat' split
  all_goals simp [h]

theorem execLoadResponse_memWf (wid op : Nat) (s : State) (h : Memory.wf s.mem = true) :
    OutcomeMemWf (execLoadResponse wid op s) := by
  simp only [execLoadResponse, outcomeMemWf_next]
  repeat' split
  all_goals simp [h]

theorem execStorePerformed_memWf (wid op : Nat) (s : State) (h : Memory.wf s.mem = true) :
    OutcomeMemWf (execStorePerformed wid op s) := by
  simp only [execStorePerformed, outcomeMemWf_next]
  repeat' split
  all_goals simp [h]

theorem execAtomicPerformed_memWf (wid op lane : Nat) (s : State) (h : Memory.wf s.mem = true) :
    OutcomeMemWf (execAtomicPerformed wid op lane s) := by
  simp only [execAtomicPerformed, outcomeMemWf_next]
  repeat' split
  all_goals simp [h]

theorem execDeferredDenial_memWf (wid op : Nat) (s : State) (h : Memory.wf s.mem = true) :
    OutcomeMemWf (execDeferredDenial wid op s) := by
  simp only [execDeferredDenial, outcomeMemWf_next]
  repeat' split
  all_goals simp [h]

theorem execFenceComplete_memWf (wid op : Nat) (s : State) (h : Memory.wf s.mem = true) :
    OutcomeMemWf (execFenceComplete wid op s) := by
  simp only [execFenceComplete, outcomeMemWf_next]
  repeat' split
  all_goals simp [h]

theorem execGraftFence_memWf (wid op : Nat) (s : State) (h : Memory.wf s.mem = true) :
    OutcomeMemWf (execGraftFence wid op s) := by
  simp only [execGraftFence, outcomeMemWf_next]
  repeat' split
  all_goals simp [h]

theorem execPageWalk_memWf (core cid : Nat) (va : DWord) (s : State) (h : Memory.wf s.mem = true) :
    OutcomeMemWf (execPageWalk core cid va s) := by
  unfold execPageWalk
  rw [outcomeMemWf_next]
  split <;> simp [h]

theorem execL1Fill_memWf (core line : Nat) (s : State) (h : Memory.wf s.mem = true) :
    OutcomeMemWf (execL1Fill core line s) := by
  have refused (l : List (Nat × Nat)) : (l.foldl (fun t e => t.refuseWaiting line e.1 e.2) s).mem = s.mem :=
    State.foldl_mem (fun _ _ => by simp) _ _
  simp only [execL1Fill, outcomeMemWf_next]
  repeat' split
  · exact h
  · exact h
  · exact State.foldl_memWf (fun _ _ ht => by simp [ht]) _ _ (by simp [h])
  · simp [refused, h]
  · simp [refused, h]

theorem execHomeL2Write_memWf (core write : Nat) (s : State) (h : Memory.wf s.mem = true) :
    OutcomeMemWf (execHomeL2Write core write s) := by
  simp only [execHomeL2Write, outcomeMemWf_next]
  repeat' split
  all_goals simp [h]

theorem execRemoteRead_memWf (die line : Nat) (s : State) (h : Memory.wf s.mem = true) :
    OutcomeMemWf (execRemoteRead die line s) := by
  simp only [execRemoteRead, outcomeMemWf_next]
  repeat' split
  all_goals simp [h]

theorem execRdcFill_memWf (die line : Nat) (s : State) (h : Memory.wf s.mem = true) :
    OutcomeMemWf (execRdcFill die line s) := by
  unfold execRdcFill
  rw [outcomeMemWf_next]
  split <;> simp [h]

theorem execRdcInvalidation_memWf (die line : Nat) (s : State) (h : Memory.wf s.mem = true) :
    OutcomeMemWf (execRdcInvalidation die line s) := by
  unfold execRdcInvalidation
  rw [outcomeMemWf_next]
  split <;> simp [h]

theorem execL2Eviction_memWf (die line : Nat) (s : State) (h : Memory.wf s.mem = true) :
    OutcomeMemWf (execL2Eviction die line s) := by
  simp only [execL2Eviction, outcomeMemWf_next]
  repeat' split
  all_goals simp [h]

/-! ## The stop walk -/

theorem execStopWalk_memWf (cid : Nat) (s : State) (h : Memory.wf s.mem = true) :
    OutcomeMemWf (execStopWalk cid s) := by
  have stopped (l : List Nat) : (l.foldl (fun t x => t.stopWarp x) s).mem = s.mem := State.foldl_mem (fun _ _ => by simp) _ _
  have withdrawn (l : List (Nat × Cmd)) (t : State) : (l.foldl (fun t e => t.withdraw e.1 e.2) t).mem = t.mem :=
    State.foldl_mem (fun _ _ => by simp) _ _
  simp only [execStopWalk, outcomeMemWf_next]
  repeat' split
  all_goals simp only [withdrawn, stopped, State.stopAll_mem, State.endWalk_mem, State.updCtx_mem, h]

theorem execSave_memWf (blk : Nat) (s : State) (h : Memory.wf s.mem = true) : OutcomeMemWf (execSave blk s) := by
  simp only [execSave, outcomeMemWf_next]
  repeat' split
  all_goals simp [h]

theorem execRestore_memWf (blk core : Nat) (s : State) (h : Memory.wf s.mem = true) :
    OutcomeMemWf (execRestore blk core s) := by
  simp only [execRestore, outcomeMemWf_next]
  repeat' split
  · exact h
  · exact h
  · exact h
  · exact h
  · exact h
  · simp [h]
  · rw [State.restartHang_mem, State.updGrid_mem, State.foldl_mem (fun _ _ => by simp)]
    exact State.foldl_memWf (fun _ _ ht => by simp [ht]) _ _ (by simp [h])

theorem execBlockMigration_memWf (blk core : Nat) (s : State) (h : Memory.wf s.mem = true) :
    OutcomeMemWf (execBlockMigration blk core s) := by
  simp only [execBlockMigration, outcomeMemWf_next]
  repeat' split
  all_goals simp [h]

theorem execQuantumSliceEnd_memWf (cid : Nat) (s : State) (h : Memory.wf s.mem = true) :
    OutcomeMemWf (execQuantumSliceEnd cid s) := by
  unfold execQuantumSliceEnd
  rw [outcomeMemWf_next]
  split <;> simp [h]

theorem execQuantumRotation_memWf (cid grid : Nat) (s : State) (h : Memory.wf s.mem = true) :
    OutcomeMemWf (execQuantumRotation cid grid s) := by
  simp only [execQuantumRotation, outcomeMemWf_next]
  repeat' split
  all_goals simp [h]

theorem execHangWatchdogExpiry_memWf (cid grid : Nat) (s : State) (h : Memory.wf s.mem = true) :
    OutcomeMemWf (execHangWatchdogExpiry cid grid s) := by
  have hung (l : List (Nat × Warp)) : Memory.wf (l.foldl (fun t e => t.hangWarp e.1) s).mem = true :=
    State.foldl_memWf (fun _ _ ht => by simp [ht]) _ _ h
  simp only [execHangWatchdogExpiry, outcomeMemWf_next]
  repeat' split
  all_goals simp [hung, h]

theorem execSaveLimitExpiry_memWf (cid : Nat) (s : State) (h : Memory.wf s.mem = true) :
    OutcomeMemWf (execSaveLimitExpiry cid s) := by
  simp only [execSaveLimitExpiry, outcomeMemWf_next]
  repeat' split
  all_goals simp [h]

/-! ## Registers from outside -/

theorem execJobent_memWf (cid bytes : Nat) (value : DWord) (s : State) (h : Memory.wf s.mem = true) :
    OutcomeMemWf (execJobent cid bytes value s) := by
  simp only [execJobent, outcomeMemWf_next]
  repeat' split
  all_goals simp [h]

theorem execStopctlStop_memWf (cid : Nat) (value : DWord) (s : State) (h : Memory.wf s.mem = true) :
    OutcomeMemWf (execStopctlStop cid value s) := by
  unfold execStopctlStop
  rw [outcomeMemWf_next]
  split <;> simp [h]

theorem execStopctlResume_memWf (cid : Nat) (value : DWord) (s : State) (h : Memory.wf s.mem = true) :
    OutcomeMemWf (execStopctlResume cid value s) := by
  unfold execStopctlResume
  rw [outcomeMemWf_next]
  split <;> simp [h]

theorem execCaptureClear_memWf (die target : Nat) (value : DWord) (s : State) (h : Memory.wf s.mem = true) :
    OutcomeMemWf (execCaptureClear die target value s) := by
  unfold execCaptureClear
  rw [outcomeMemWf_next]
  split <;> simp [h]

theorem execXinvctlGo_memWf (die : Nat) (value : DWord) (s : State) (h : Memory.wf s.mem = true) :
    OutcomeMemWf (execXinvctlGo die value s) := by
  unfold execXinvctlGo
  rw [outcomeMemWf_next]
  split <;> simp [h]

theorem execInvalidationComplete_memWf (die : Nat) (s : State) (h : Memory.wf s.mem = true) :
    OutcomeMemWf (execInvalidationComplete die s) := by
  unfold execInvalidationComplete
  rw [outcomeMemWf_next]
  split <;> simp [h]

theorem execRegisterWrite_memWf (target : RegTarget) (off : Nat) (value : DWord) (s : State)
    (h : Memory.wf s.mem = true) : OutcomeMemWf (execRegisterWrite target off value s) := by
  unfold execRegisterWrite
  rw [outcomeMemWf_next]
  split <;> simp [h]

/-! ## The platform -/

theorem execBar2Access_memWf (off : Nat) (acc : HostAccess) (s : State) (h : Memory.wf s.mem = true) :
    OutcomeMemWf (execBar2Access off acc s) := by
  refine (outcomeMemWf_next _).2 ?_
  split
  · exact h
  split
  · split <;> simp [h]
  split
  · simp [h]
  · split
    · rename_i ht
      simp [State.perform_memWf_of_eq h ht]
    · rename_i ht
      exact State.perform_memWf_of_eq h ht

theorem execDriveDma_memWf (drive pa : Nat) (write : Bool) (s : State) (h : Memory.wf s.mem = true) :
    OutcomeMemWf (execDriveDma drive pa write s) := by
  simp only [execDriveDma, outcomeMemWf_next]
  repeat' split
  all_goals simp [h]

theorem execScaleUpRequest_memWf (port pa : Nat) (acc : HostAccess) (s : State) (h : Memory.wf s.mem = true) :
    OutcomeMemWf (execScaleUpRequest port pa acc s) := by
  refine (outcomeMemWf_next _).2 ?_
  split
  · exact h
  split
  · simp [h]
  split
  · simp [h]
  · split
    · rename_i ht
      simp [State.perform_memWf_of_eq h ht]
    · rename_i ht
      exact State.perform_memWf_of_eq h ht

theorem execLinkDown_memWf (port : Nat) (performed : List Nat) (s : State) (h : Memory.wf s.mem = true) :
    OutcomeMemWf (execLinkDown port performed s) := by
  simp only [execLinkDown, outcomeMemWf_next]
  split
  · exact h
  · rw [State.loseReads_mem]
    exact State.foldl_memWf (fun _ _ ht => State.foldl_memWf (fun _ _ hu => by simp [hu]) _ _ ht) _ _ h

theorem execDriveRemoval_memWf (drive : Nat) (s : State) (h : Memory.wf s.mem = true) :
    OutcomeMemWf (execDriveRemoval drive s) := by
  simp only [execDriveRemoval, outcomeMemWf_next]
  split
  · exact h
  · refine State.foldl_memWf (fun t e ht => ?_) _ _ h
    split <;> simp [ht]

theorem execFlitReplay_memWf (_die : Nat) (s : State) (h : Memory.wf s.mem = true) :
    OutcomeMemWf (execFlitReplay _die s) := by simp [execFlitReplay, h]

theorem execUncorrectableError_memWf (source : ErrorSource) (s : State) (h : Memory.wf s.mem = true) :
    OutcomeMemWf (execUncorrectableError source s) := by
  simp only [execUncorrectableError, outcomeMemWf_next]
  repeat' split
  all_goals simp [h]

theorem execCorrectableError_memWf (die : Nat) (s : State) (h : Memory.wf s.mem = true) :
    OutcomeMemWf (execCorrectableError die s) := by
  unfold execCorrectableError
  rw [outcomeMemWf_next]
  split <;> simp [h]

theorem execUevtClear_memWf (value : DWord) (s : State) (h : Memory.wf s.mem = true) :
    OutcomeMemWf (execUevtClear value s) := by simp [execUevtClear, h]

theorem execPcSampleTick_memWf (core : Nat) (power : BitVec 16) (s : State) (h : Memory.wf s.mem = true) :
    OutcomeMemWf (execPcSampleTick core power s) := by
  simp only [execPcSampleTick, outcomeMemWf_next]
  repeat' split
  all_goals simp [h]

theorem execPerfLevelChange_memWf (cluster : Nat) (s : State) (h : Memory.wf s.mem = true) :
    OutcomeMemWf (execPerfLevelChange cluster s) := by
  unfold execPerfLevelChange
  rw [outcomeMemWf_next]
  split <;> simp [h]

theorem execPowerLimitExceeded_memWf (milliwatts : Nat) (s : State) (h : Memory.wf s.mem = true) :
    OutcomeMemWf (execPowerLimitExceeded milliwatts s) := by
  simp only [execPowerLimitExceeded, outcomeMemWf_next]
  repeat' split
  all_goals simp [h]

theorem execEffectiveLevelRestore_memWf (milliwatts : Nat) (s : State) (h : Memory.wf s.mem = true) :
    OutcomeMemWf (execEffectiveLevelRestore milliwatts s) := by
  simp only [execEffectiveLevelRestore, outcomeMemWf_next]
  repeat' split
  all_goals simp [h]

theorem execThermalLevelForce_memWf (die : Nat) (s : State) (h : Memory.wf s.mem = true) :
    OutcomeMemWf (execThermalLevelForce die s) := by
  simp only [execThermalLevelForce, outcomeMemWf_next]
  split
  · exact h
  · rw [State.foldl_mem (fun _ _ => by simp)]
    simp [h]

theorem execThermalShutdown_memWf (die : Nat) (s : State) (h : Memory.wf s.mem = true) :
    OutcomeMemWf (execThermalShutdown die s) := by
  unfold execThermalShutdown
  rw [outcomeMemWf_next]
  split <;> simp [h]

theorem execTimebaseCorrection_memWf (delta : Int) (s : State) (h : Memory.wf s.mem = true) :
    OutcomeMemWf (execTimebaseCorrection delta s) := by
  unfold execTimebaseCorrection
  rw [outcomeMemWf_next]
  split <;> simp [h]

theorem execResizableBarWrite_memWf (log2GiB : Nat) (s : State) (h : Memory.wf s.mem = true) :
    OutcomeMemWf (execResizableBarWrite log2GiB s) := by
  unfold execResizableBarWrite
  rw [outcomeMemWf_next]
  split <;> simp [h]

theorem execI3cDynamicAddress_memWf (addr : BitVec 7) (s : State) (h : Memory.wf s.mem = true) :
    OutcomeMemWf (execI3cDynamicAddress addr s) := by simp [execI3cDynamicAddress, h]

theorem execBringUp_memWf (hbmOk graftOk : Bool) (links : BitVec 36) (drives : BitVec 4) (s : State)
    (h : Memory.wf s.mem = true) : OutcomeMemWf (execBringUp hbmOk graftOk links drives s) := by
  simp only [execBringUp, outcomeMemWf_next]
  repeat' split
  all_goals simp [h]

theorem execModuleReset_memWf (value : DWord) (s : State) (h : Memory.wf s.mem = true) :
    OutcomeMemWf (execModuleReset value s) := by
  simp only [execModuleReset, outcomeMemWf_next]
  split
  · exact State.memAfterReset_wf s h
  · exact h

/-! ## One step -/

theorem exec_memWf (i : Instr) (s : State) (h : Memory.wf s.mem = true) : OutcomeMemWf (exec i s) := by
  cases i with
  | movw o | notw o | bcntw o | clzw o => exact outcomeMemWf_of_mem h (State.sUn_mem _ _ _)
  | liw o | cvtw o | v2w o => exact outcomeMemWf_of_mem h (State.sSet_mem _ _ _ _)
  | addw o | subw o | mulw o | mulhwI o | mulhwN o | shlw o | shrw o | sarw o | andw o | orw o | xorw o
  | minwI o | maxwI o | minwN o | maxwN o => exact outcomeMemWf_of_mem h (State.sBin_mem _ _ _)
  | addwi o | shlwi o | shrwi o | sarwi o => exact outcomeMemWf_of_mem h (State.sImm_mem _ _ _)
  | cmpwI o | cmpwN o => exact outcomeMemWf_of_mem h (State.kSet_mem _ _ _ _)
  | selw o => exact outcomeMemWf_of_mem h (State.wr_mem _ _ _ _)
  | add64w o | sub64w o => exact outcomeMemWf_of_mem h (State.sBin64_mem _ _ _)
  | faddw o | fsubw o | fmulw o => exact outcomeMemWf_of_mem h (State.sFloat_mem _ _ _ _)
  | mov o | iabs o | ineg o | vnot o | popc o | clz o | brev o | fabs o | fneg o | fclass o =>
    exact outcomeMemWf_of_mem h (State.vUn_mem _ _ _)
  | li o | w2v o | sel o | pmov o | sreg o => exact outcomeMemWf_of_mem h (State.vecSet_mem _ _ _ _ _)
  | iadd o | isub o | imul o | imulhI o | imulhN o | iminI o | imaxI o | iminN o | imaxN o | shl o | shr o
  | sar o | vand o | vor o | vxor o | bfe o | fadd o | fsub o | fmul o | fmin o | fmax o | hadd2 o | hmul2 o
  | badd2 o | bmul2 o => exact outcomeMemWf_of_mem h (State.vBin_mem _ _ _)
  | iaddi o | shli o | shri o | sari o => exact outcomeMemWf_of_mem h (State.vImm_mem _ _ _)
  | imad o | bfi o | ffma o | hfma2 o | bfma2 o => exact outcomeMemWf_of_mem h (State.vTri_mem _ _ _)
  | isetpEq o | isetpNe o | isetpLt o | isetpLe o | isetpGt o | isetpGe o | isetpLtN o | isetpLeN o | isetpGtN o
  | isetpGeN o | fsetpNan o => exact outcomeMemWf_of_mem h (State.vSetp_mem _ _ _)
  | iadd64 o | isub64 o => exact outcomeMemWf_of_mem h (State.vBin64_mem _ _ _)
  | imulwI o | imulwN o => exact outcomeMemWf_of_mem h (State.vWide_mem _ _ _)
  | fsetpEq o | fsetpNe o | fsetpLt o | fsetpLe o | fsetpGt o | fsetpGe o =>
    exact outcomeMemWf_of_mem h (State.fSetp_mem _ _ _)
  | rcp o | rsq o | sqrt o | ex2 o | lg2 o | sin o | cos o | tanh o =>
    exact outcomeMemWf_of_mem h (State.issueSpecial_mem _ _ _)
  | fdiv o => exact outcomeMemWf_of_mem h (State.issueLong_mem _ _ _ _ _ _)
  | cvtxB0 o | cvtxB1 o | cvtxB2 o | cvtxB3 o => exact (outcomeMemWf_next _).2 (State.cvtx_memWf _ _ _ h)
  | qadd o | qsub o | qmul o | qcvt o | qnum o | qden o | qmed o | qrnd o | qclass o =>
    exact outcomeMemWf_of_mem h (State.issueQ_mem _ _ _ _ _ _)
  | qdiv o | qfrom o | qrec o => exact (outcomeMemWf_next _).2 (State.issueQuot_memWf _ _ _ _ _ _ _ h)
  | qsetpEq o | qsetpNe o | qsetpLt o | qsetpLe o | qsetpGt o | qsetpGe o =>
    exact outcomeMemWf_of_mem h (State.issueQsetp_mem _ _ _)
  | ldN8 o | ldI8 o | ldN16 o | ldI16 o | ld32 o | ld64 o | ld128 o | st8 o | st16 o | st32 o | st64 o | st128 o
  | atomAddN32 o | atomAddN64 o | atomMinI32 o | atomMaxI32 o | atomMinN32 o | atomMaxN32 o | atomAnd o
  | atomOr o | atomXor o | atomExch o | atomCas o | atomFaddF32 o | atomExch64 o | redAddN32 o | redAddN64 o
  | redMinI32 o | redMaxI32 o | redMinN32 o | redMaxN32 o | redAnd o | redOr o | redXor o | redFaddF32 o =>
    exact (outcomeMemWf_next _).2 (State.issueGlobal_memWf _ _ _ _ _ _ _ h)
  | ldt32 o | ldt64 o | ldt128 o | stt32 o | stt64 o | stt128 o | atomtAddN32 o | atomtMinI32 o | atomtMaxI32 o
  | atomtExch o | atomtCas o => exact (outcomeMemWf_next _).2 (State.issueTile_memWf _ _ _ _ _ _ _ h)
  | lda o | sta o => exact (outcomeMemWf_next _).2 (State.issueAcc_memWf _ _ _ _ h)
  | ldc o => exact (outcomeMemWf_next _).2 (State.issueLdc_memWf _ _ _ h)
  | nop o => exact (outcomeMemWf_next _).2 h
  | xch o | qbc o | qdiff o | ballot o | matchLanes o | scantAdd o | active o =>
    exact outcomeMemWf_of_mem h (State.xSet_mem _ _ _ _)
  | qsum o | qmin o | qmax o => exact outcomeMemWf_of_mem h (State.quadOp_mem _ _ _)
  | voteAny o | voteAll o => exact outcomeMemWf_of_mem h (State.vote_mem _ _ _)
  | redtAdd o | redtMin o | redtMax o => exact outcomeMemWf_of_mem h (State.tileOp_mem _ _ _)
  | part o => exact outcomeMemWf_of_mem h (State.setSelf_mem _ _)
  | plop o => exact outcomeMemWf_of_mem h (State.predSet_mem _ _ _ _ _)
  | bra o | ret o => exact outcomeMemWf_of_mem h (State.transfer_mem _ _ _)
  | mma o | mbound o | mzero o | mzeroX4 o | mlatK o | mlatV o | mstat o | cpy o | enc o | dect o | sread o
  | swrite o | swriteFua o | drain o | quiesce o | tfset o | tfsetOvcur o | tfget o =>
    exact outcomeMemWf_of_mem h (State.issueCmd_mem _ _ _ _ _ _)
  | phregSo o | phregWo o | phregSw o => exact (outcomeMemWf_next _).2 (State.phreg_memWf _ _ _ h)
  | racqP o | racqC o => exact (outcomeMemWf_next _).2 (State.racq_memWf _ _ _ h)
  | rrelP o | rrelC o => exact (outcomeMemWf_next _).2 (State.rrel_memWf _ _ _ h)
  | conversionLimitCrossing wid => exact outcomeMemWf_of_mem h (State.updWarp_mem _ _ _)
  | twaitDeadline wid => exact outcomeMemWf_of_mem h (State.wakeTime_mem _ _)
  | graftLoss => exact (outcomeMemWf_next _).2 (State.sharedError_memWf _ h)
  | ffmaw o => exact execFfmaw_memWf o s h
  | fdivw o => exact execFdivw_memWf o s h
  | fcmpw o => exact execFcmpw_memWf o s h
  | vmovp o => exact execVmovp_memWf o s h
  | cvt o => exact execCvt_memWf o s h
  | cvts o => exact execCvts_memWf o s h
  | fence o => exact execFence_memWf o s h
  | cinv o => exact execCinv_memWf o s h
  | pref o => exact execPref_memWf o s h
  | brx o => exact execBrx_memWf o s h
  | call o => exact execCall_memWf o s h
  | exit o => exact execExit_memWf o s h
  | yield o => exact execYield_memWf o s h
  | cpym o => exact execCpym_memWf o s h
  | append o => exact execAppend_memWf o s h
  | phdrop o => exact execPhdrop_memWf o s h
  | phsig o => exact execPhsig_memWf o s h
  | phwait o => exact execPhwait_memWf o s h
  | phsw o => exact execPhsw_memWf o s h
  | phget o => exact execPhget_memWf o s h
  | launch o => exact execLaunch_memWf o s h
  | succhint o => exact execSucchint_memWf o s h
  | predwait o => exact execPredwait_memWf o s h
  | time o => exact execTime_memWf o s h
  | twait o => exact execTwait_memWf o s h
  | csrr o => exact execCsrr_memWf o s h
  | csrw o => exact execCsrw_memWf o s h
  | plvl o => exact execPlvl_memWf o s h
  | trap o => exact execTrap_memWf o s h
  | rte o => exact execRte_memWf o s h
  | bkpt o => exact execBkpt_memWf o s h
  | evwait o => exact execEvwait_memWf o s h
  | evpop o => exact execEvpop_memWf o s h
  | selectRun core slot => exact execSelectRun_memWf core slot s h
  | clauseFetch wid => exact execClauseFetch_memWf wid s h
  | registerCacheFill core wid reg => exact execRegisterCacheFill_memWf core wid reg s h
  | bbcPark core slot => exact execBbcPark_memWf core slot s h
  | setaFlagClear wid flag => exact execSetaFlagClear_memWf wid flag s h
  | longLatencyResult wid op => exact execLongLatencyResult_memWf wid op s h
  | loadResponse wid op => exact execLoadResponse_memWf wid op s h
  | storePerformed wid op => exact execStorePerformed_memWf wid op s h
  | atomicPerformed wid op lane => exact execAtomicPerformed_memWf wid op lane s h
  | deferredDenial wid op => exact execDeferredDenial_memWf wid op s h
  | fenceComplete wid op => exact execFenceComplete_memWf wid op s h
  | pageWalk core cid va => exact execPageWalk_memWf core cid va s h
  | l1Fill core line => exact execL1Fill_memWf core line s h
  | homeL2Write core write => exact execHomeL2Write_memWf core write s h
  | remoteRead die line => exact execRemoteRead_memWf die line s h
  | rdcFill die line => exact execRdcFill_memWf die line s h
  | rdcInvalidation die line => exact execRdcInvalidation_memWf die line s h
  | l2Eviction die line => exact execL2Eviction_memWf die line s h
  | graftFence wid op => exact execGraftFence_memWf wid op s h
  | engineCommandStart cmd => exact execEngineCommandStart_memWf cmd s h
  | engineCommandComplete cmd => exact execEngineCommandComplete_memWf cmd s h
  | engineFault cmd => exact execEngineFault_memWf cmd s h
  | eventAppend cid => exact execEventAppend_memWf cid s h
  | multicastDelivery cmd rank => exact execMulticastDelivery_memWf cmd rank s h
  | cpymGangSignal cmd => exact execCpymGangSignal_memWf cmd s h
  | mmaStart cmd => exact execMmaStart_memWf cmd s h
  | projectionReload cmd => exact execProjectionReload_memWf cmd s h
  | mmaComplete cmd => exact execMmaComplete_memWf cmd s h
  | matrixFault cmd => exact execMatrixFault_memWf cmd s h
  | mlatLoadComplete cmd => exact execMlatLoadComplete_memWf cmd s h
  | storageCompletion cmd sf data => exact execStorageCompletion_memWf cmd sf data s h
  | appendGroup cmd => exact execAppendGroup_memWf cmd s h
  | terminationDetectorSignal cid => exact execTerminationDetectorSignal_memWf cid s h
  | slewAdmission cid grid => exact execSlewAdmission_memWf cid grid s h
  | gridStartTime cid grid => exact execGridStartTime_memWf cid grid s h
  | blockPlacement cid grid gang core => exact execBlockPlacement_memWf cid grid gang core s h
  | blockMigration blk core => exact execBlockMigration_memWf blk core s h
  | quantumSliceEnd cid => exact execQuantumSliceEnd_memWf cid s h
  | quantumRotation cid grid => exact execQuantumRotation_memWf cid grid s h
  | warpEnd wid => exact execWarpEnd_memWf wid s h
  | blockEnd blk => exact execBlockEnd_memWf blk s h
  | gridCompletion cid grid => exact execGridCompletion_memWf cid grid s h
  | jobEnd cid => exact execJobEnd_memWf cid s h
  | hangWatchdogExpiry cid grid => exact execHangWatchdogExpiry_memWf cid grid s h
  | saveLimitExpiry cid => exact execSaveLimitExpiry_memWf cid s h
  | stopWalk cid => exact execStopWalk_memWf cid s h
  | save blk => exact execSave_memWf blk s h
  | restore blk core => exact execRestore_memWf blk core s h
  | uncorrectableError source => exact execUncorrectableError_memWf source s h
  | correctableError die => exact execCorrectableError_memWf die s h
  | jobent cid bytes value => exact execJobent_memWf cid bytes value s h
  | stopctlStop cid value => exact execStopctlStop_memWf cid value s h
  | stopctlResume cid value => exact execStopctlResume_memWf cid value s h
  | captureClear die target value => exact execCaptureClear_memWf die target value s h
  | xinvctlGo die value => exact execXinvctlGo_memWf die value s h
  | invalidationComplete die => exact execInvalidationComplete_memWf die s h
  | registerWrite target off value => exact execRegisterWrite_memWf target off value s h
  | bar2Access off acc => exact execBar2Access_memWf off acc s h
  | driveDma drive pa write => exact execDriveDma_memWf drive pa write s h
  | scaleUpRequest port pa acc => exact execScaleUpRequest_memWf port pa acc s h
  | linkDown port performed => exact execLinkDown_memWf port performed s h
  | driveRemoval drive => exact execDriveRemoval_memWf drive s h
  | flitReplay die => exact execFlitReplay_memWf die s h
  | uevtClear value => exact execUevtClear_memWf value s h
  | moduleReset value => exact execModuleReset_memWf value s h
  | pcSampleTick core power => exact execPcSampleTick_memWf core power s h
  | perfLevelChange cluster => exact execPerfLevelChange_memWf cluster s h
  | powerLimitExceeded milliwatts => exact execPowerLimitExceeded_memWf milliwatts s h
  | thermalLevelForce die => exact execThermalLevelForce_memWf die s h
  | thermalShutdown die => exact execThermalShutdown_memWf die s h
  | timebaseCorrection delta => exact execTimebaseCorrection_memWf delta s h
  | bringUp hbmOk graftOk links drives => exact execBringUp_memWf hbmOk graftOk links drives s h
  | conductorRun die cid => exact execConductorRun_memWf die cid s h
  | resizableBarWrite log2GiB => exact execResizableBarWrite_memWf log2GiB s h
  | effectiveLevelRestore milliwatts => exact execEffectiveLevelRestore_memWf milliwatts s h
  | i3cDynamicAddress addr => exact execI3cDynamicAddress_memWf addr s h
  | mboundResult wid op => exact execMboundResult_memWf wid op s h

theorem issueMove_memWf (s : State) (core slot : Nat) (h : Memory.wf s.mem = true) :
    OutcomeMemWf (issueMove s core slot) := by
  unfold issueMove
  split
  · rename_i hw
    exact (outcomeMemWf_next _).2 (State.issueWord_memWf_error h hw)
  · rename_i t i n hw
    have ht := exec_memWf i t (State.issueWord_memWf_ok h hw)
    split
    · rename_i u hu
      exact (outcomeMemWf_next _).2 (State.issued_memWf u n (ht u hu))
    · intro _ hn
      cases hn
    · intro _ hn
      cases hn

theorem move_memWf (s : State) (m : Move) (h : Memory.wf s.mem = true) : OutcomeMemWf (move s m) := by
  cases m with
  | event i =>
    rw [move]
    split
    · exact exec_memWf i s h
    · exact (outcomeMemWf_next _).2 h
  | issue core slot => exact issueMove_memWf s core slot h
  | orderPoint wid => exact outcomeMemWf_of_mem h (State.orderPoint_mem s wid)
  | transfer id k => exact (outcomeMemWf_next _).2 (State.transferPart_memWf s id k h)
  | tick ns => exact outcomeMemWf_of_mem h (State.tick_mem s ns)
  | sense value => exact outcomeMemWf_of_mem h (State.sense_mem s value)

theorem moveIfAllowed_memWf (s s' : State) (m : Move) (h : Memory.wf s'.mem = true) :
    OutcomeMemWf (if m.allowed s then move s' m else .next s') := by
  split
  · exact move_memWf s' m h
  · exact (outcomeMemWf_next _).2 h

theorem step_memWf (s : State) (h : Memory.wf s.mem = true) : OutcomeMemWf (step s) := by
  unfold step
  cases s.agenda with
  | nil => exact moveIfAllowed_memWf _ _ _ h
  | cons m rest => exact moveIfAllowed_memWf _ _ _ h

/-- Settles O42: whichever agent moves, what it writes to memory it writes through `Memory.setList` or `Memory.set`, which
keep the canonical form, or it is a module reset, which keeps the addresses and lists no byte that reads as blank. -/
theorem memoryStaysCanonical : Obligations.MemoryStaysCanonical := fun s t h ht => step_memWf s h t ht

end Sys2Proof.Machine
end

section
/-! SUPPORT for O34. What a home's caches, its capture registers and a warp's operations hold after the operations that
HOME_L2_WRITE is made of. -/

namespace Sys2Proof

variable {α : Type}

theorem findKey?_filter_eq_none {p : Nat × α → Bool} {k : Nat} (h : ∀ v, p (k, v) = false) (m : List (Nat × α)) :
    findKey? k (m.filter p) = none := by
  induction m with
  | nil => rfl
  | cons e t ih =>
    obtain ⟨j, v⟩ := e
    by_cases hp : p (j, v) = true
    · have hj : j ≠ k := by rintro rfl; simp [h] at hp
      simpa [hp, findKey?, hj] using ih
    · simpa [hp] using ih

theorem Sparse.get_filter_eq_default {p : Nat × α → Bool} {k : Nat} (h : ∀ v, p (k, v) = false) (d : α) (m : Sparse α) :
    Sparse.get d (m.filter p) k = d := by
  simp [Sparse.get, findKey?_filter_eq_none h]

end Sys2Proof

namespace Sys2Proof.Machine
open Host

/-! ### Changes that reach the dies alone -/

/-- `t` is `s` but for what its dies hold. -/
def State.OnlyDies (s t : State) : Prop := ∃ ds, t = { s with dies := ds }

theorem State.OnlyDies.refl (s : State) : s.OnlyDies s := ⟨s.dies, rfl⟩

theorem State.OnlyDies.trans {s t u : State} : s.OnlyDies t → t.OnlyDies u → s.OnlyDies u := by
  rintro ⟨_, rfl⟩ ⟨ds, rfl⟩
  exact ⟨ds, rfl⟩

theorem State.OnlyDies.eq {s t : State} : s.OnlyDies t → t = { s with dies := t.dies } := by
  rintro ⟨_, rfl⟩
  rfl

theorem State.OnlyDies.mem {s t : State} : s.OnlyDies t → t.mem = s.mem := by
  rintro ⟨_, rfl⟩
  rfl

theorem State.OnlyDies.core {s t : State} (c : Nat) : s.OnlyDies t → t.core c = s.core c := by
  rintro ⟨_, rfl⟩
  rfl

theorem State.OnlyDies.warps {s t : State} : s.OnlyDies t → t.warps = s.warps := by
  rintro ⟨_, rfl⟩
  rfl

theorem State.OnlyDies.warp {s t : State} (wid : Nat) : s.OnlyDies t → t.warp wid = s.warp wid := by
  rintro ⟨_, rfl⟩
  rfl

theorem State.OnlyDies.foldl {α : Type} {f : State → α → State}
    (hf : ∀ (s : State) (a : α), s.OnlyDies (f s a)) (l : List α) (s : State) :
    s.OnlyDies (l.foldl f s) := by
  induction l generalizing s with
  | nil => exact .refl s
  | cons a l ih => exact (hf s a).trans (ih (f s a))

theorem State.onlyDies_updDie (s : State) (d : Nat) (f : Die → Die) : s.OnlyDies (s.updDie d f) := ⟨_, rfl⟩

theorem State.onlyDies_canopyPut (s : State) (d line : Nat) (dirty : Bool) : s.OnlyDies (s.canopyPut d line dirty) :=
  ⟨_, rfl⟩

theorem State.onlyDies_l2Drop (s : State) (d line : Nat) : s.OnlyDies (s.l2Drop d line) := by
  unfold State.l2Drop
  split
  · exact .refl s
  · rename_i e _
    have hforget : s.OnlyDies (if e.remote then s.updDie (1 - d) fun x => x.forget line else s) := by
      split
      · exact s.onlyDies_updDie _ _
      · exact .refl s
    have herase := hforget.trans (State.onlyDies_updDie _ d fun x => { x with l2 := x.l2.erase line })
    dsimp only
    split
    · exact herase.trans (State.onlyDies_canopyPut _ _ _ _)
    · exact herase

theorem State.onlyDies_l2Fill (s : State) (d line : Nat) (first : Bool) : s.OnlyDies (s.l2Fill d line first) := by
  unfold State.l2Fill
  split
  · exact .refl s
  · refine State.OnlyDies.trans ?_ (State.onlyDies_updDie _ _ _)
    refine State.OnlyDies.trans ?_ (State.onlyDies_canopyPut _ _ _ _)
    split
    · exact s.onlyDies_l2Drop _ _
    · exact .refl s

theorem State.onlyDies_l2Write (s : State) (d line : Nat) (first : Bool) : s.OnlyDies (s.l2Write d line first) :=
  ((s.onlyDies_updDie _ _).trans (State.onlyDies_l2Fill _ _ _ _)).trans (State.onlyDies_updDie _ _ _)

theorem State.onlyDies_capture (s : State) (m : Nat) (kind : Kind) (tg : Nat × Nat × Nat) :
    s.OnlyDies (s.capture m kind tg) := by
  unfold State.capture
  refine State.OnlyDies.trans ?_ (State.onlyDies_updDie _ _ _)
  split
  · exact .refl s
  · exact s.onlyDies_updDie _ _

theorem State.onlyDies_noteDenial (s : State) (m : Nat) (kind : Kind) (key n : Nat) :
    s.OnlyDies (s.noteDenial m kind key n) := by
  unfold State.noteDenial
  split
  · exact s.onlyDies_capture _ _ _
  · exact .refl s

theorem State.onlyDies_sendInvalidation (s : State) (d line : Nat) : s.OnlyDies (s.sendInvalidation d line) :=
  s.onlyDies_updDie _ _

/-! ### A line written at its home L2 -/

theorem Die.rdc_forget_eq_none {x : Die} {line : Nat} (h : x.rdc.get? line = none) (other : Nat) :
    (x.forget other).rdc.get? line = none := by
  by_cases hl : line = other
  · subst hl
    exact Tbl.get?_erase_self _ _
  · exact (Tbl.get?_erase_of_ne hl _).trans h

theorem State.rdc_updDie_forget_eq_none {s : State} {d line : Nat} (h : (s.die d).rdc.get? line = none)
    (j other : Nat) : ((s.updDie j fun x => x.forget other).die d).rdc.get? line = none := by
  by_cases hd : d = j
  · subst hd
    rw [State.die_updDie_self]
    exact Die.rdc_forget_eq_none h other
  · rwa [State.die_updDie_of_ne hd]

/-- Making room in the L2 of die `d` brings no copy into the RDC of another die. -/
theorem State.rdc_l2Drop_eq_none {s : State} {d j line : Nat} (hj : j ≠ d) (h : (s.die j).rdc.get? line = none)
    (other : Nat) : ((s.l2Drop d other).die j).rdc.get? line = none := by
  unfold State.l2Drop
  split
  · exact h
  · rename_i e _
    have hforget : ((if e.remote then s.updDie (1 - d) fun x => x.forget other else s).die j).rdc.get? line = none := by
      split
      · exact State.rdc_updDie_forget_eq_none h _ _
      · exact h
    dsimp only
    split
    · rw [State.canopyPut, State.die_updDie_of_ne hj, State.die_updDie_of_ne hj]
      exact hforget
    · rw [State.die_updDie_of_ne hj]
      exact hforget

theorem State.rdc_l2Fill_eq_none {s : State} {d j line : Nat} (hj : j ≠ d) (h : (s.die j).rdc.get? line = none)
    (other : Nat) (first : Bool) : ((s.l2Fill d other first).die j).rdc.get? line = none := by
  unfold State.l2Fill
  split
  · exact h
  · rw [State.die_updDie_of_ne hj, State.canopyPut, State.die_updDie_of_ne hj]
    split
    · exact State.rdc_l2Drop_eq_none hj h _
    · exact h

theorem State.l2_l2Fill_isSome (s : State) (d line : Nat) (first : Bool) :
    (((s.l2Fill d line first).die d).l2.get? line).isSome = true := by
  unfold State.l2Fill
  split
  · assumption
  · simp

theorem State.l2_l2Write (s : State) (d line : Nat) (first : Bool) :
    ∃ f, ((s.l2Write d line first).die d).l2.get? line = some ⟨true, false, f⟩ := by
  obtain ⟨e, he⟩ := Option.isSome_iff_exists.1
    (State.l2_l2Fill_isSome (s.updDie (1 - d) fun x => x.forget line) d line first)
  exact ⟨e.first, by simp [State.l2Write, Tbl.get?_upd, he]⟩

theorem State.rdc_l2Write (s : State) {d : Nat} (hd : 1 - d ≠ d) (line : Nat) (first : Bool) :
    ((s.l2Write d line first).die (1 - d)).rdc.get? line = none := by
  rw [State.l2Write, State.die_updDie_of_ne hd]
  refine State.rdc_l2Fill_eq_none hd ?_ _ _
  rw [State.die_updDie_self]
  exact Tbl.get?_erase_self _ _

/-! ### Bytes stored at their home -/

/-- The keys outside `n` bytes from `key` on, which a store leaves as they are. -/
def outsideBytes (key n : Nat) (e : Nat × Bool) : Bool := decide (e.1 < key) || decide (key + n ≤ e.1)

theorem State.homeWriteAs_eq (s : State) (first : Bool) (key : Nat) (bs : List Byte) :
    ∃ ds, s.homeWriteAs first key bs = { s.noteStore key bs.length with
      mem := Memory.setList s.mem key bs
      bad := s.bad.filter (outsideBytes key bs.length)
      vague := s.vague.filter (outsideBytes key bs.length)
      dies := ds } := by
  unfold State.homeWriteAs
  dsimp only
  split
  · exact State.OnlyDies.foldl (fun t ln => t.onlyDies_l2Write _ ln first) _ _
  · exact ⟨_, rfl⟩

theorem State.homeWriteAs_core (s : State) (first : Bool) (key : Nat) (bs : List Byte) (c : Nat) :
    (s.homeWriteAs first key bs).core c = s.core c := by
  obtain ⟨ds, h⟩ := s.homeWriteAs_eq first key bs
  rw [h]
  rfl

theorem State.homeWriteAs_warp (s : State) (first : Bool) (key : Nat) (bs : List Byte) (wid : Nat) :
    (s.homeWriteAs first key bs).warp wid = s.warp wid := by
  obtain ⟨ds, h⟩ := s.homeWriteAs_eq first key bs
  rw [h]
  rfl

/-- Memory holds the bytes stored, and elsewhere what it held. -/
theorem State.get_homeWriteAs_mem (s : State) (first : Bool) (key : Nat) (bs : List Byte) (a : Nat) :
    Memory.get (s.homeWriteAs first key bs).mem a =
      if h : key ≤ a ∧ a < key + bs.length then bs[a - key]'(by omega) else Memory.get s.mem a := by
  obtain ⟨ds, h⟩ := s.homeWriteAs_eq first key bs
  rw [h]
  exact Sparse.get_setList Memory.blank bs s.mem key a

theorem outsideBytes_eq_false {key n i : Nat} (hi : i < n) (b : Bool) : outsideBytes key n (key + i, b) = false := by
  simp [outsideBytes, hi]

theorem State.get_homeWriteAs_bad (s : State) (first : Bool) (key : Nat) (bs : List Byte) {i : Nat}
    (hi : i < bs.length) : Sparse.get false (s.homeWriteAs first key bs).bad (key + i) = false := by
  obtain ⟨ds, h⟩ := s.homeWriteAs_eq first key bs
  rw [h]
  exact Sparse.get_filter_eq_default (outsideBytes_eq_false hi) false s.bad

theorem State.get_homeWriteAs_vague (s : State) (first : Bool) (key : Nat) (bs : List Byte) {i : Nat}
    (hi : i < bs.length) : Sparse.get false (s.homeWriteAs first key bs).vague (key + i) = false := by
  obtain ⟨ds, h⟩ := s.homeWriteAs_eq first key bs
  rw [h]
  exact Sparse.get_filter_eq_default (outsideBytes_eq_false hi) false s.vague

/-- Bytes within one line of a home L2: the line is dirty there, and the other die's RDC has no copy. -/
theorem State.homeWriteAs_line (s : State) (first : Bool) {key d ln : Nat} {bs : List Byte}
    (hplace : placeOf key = .hbm d) (hd : d ≤ 1) (hlines : linesOf key bs.length = [ln]) :
    (∃ f, ((s.homeWriteAs first key bs).die d).l2.get? ln = some ⟨true, false, f⟩) ∧
      ((s.homeWriteAs first key bs).die (1 - d)).rdc.get? ln = none := by
  unfold State.homeWriteAs
  simp only [hplace, hlines, List.foldl_cons, List.foldl_nil]
  exact ⟨State.l2_l2Write _ _ _ _, State.rdc_l2Write _ (by omega) _ _⟩

/-! ### Denials -/

/-- A denial counts at its target's capture register, or is captured where the register is free. -/
def Capture.noted (c : Capture) (m : Nat) (kind : Kind) (pa : Nat) : Capture :=
  if c.v then { c with count := if c.count = 0xFFFFFFFF then c.count else c.count + 1 }
  else ⟨true, BitVec.ofNat 8 m, kind.code, BitVec.ofNat 46 pa, 0⟩

theorem State.captures_capture (s : State) (m : Nat) (kind : Kind) (tg : Nat × Nat × Nat) :
    Sparse.get (⟨false, 0, 0, 0, 0⟩ : Capture) ((s.capture m kind tg).die tg.1).captures tg.2.1 =
      (Sparse.get (⟨false, 0, 0, 0, 0⟩ : Capture) (s.die tg.1).captures tg.2.1).noted m kind tg.2.2 := by
  have hne : tg.1 ≠ 1 - tg.1 := by omega
  have hdie : (if kind = .read then s
      else s.updDie (1 - tg.1) fun x => { x with rdc := x.rdc.erase (tg.2.2 / 128) }).die tg.1 = s.die tg.1 := by
    split
    · rfl
    · exact State.die_updDie_of_ne hne _ _
  simp only [State.capture, State.die_updDie_self, Sparse.get_set_self, hdie]
  rfl

theorem State.rdc_capture_write (s : State) (m : Nat) (tg : Nat × Nat × Nat) :
    ((s.capture m .write tg).die (1 - tg.1)).rdc.get? (tg.2.2 / 128) = none := by
  have hne : 1 - tg.1 ≠ tg.1 := by omega
  simp [State.capture, State.die_updDie_of_ne hne]

theorem State.noteDenial_of_denial {s : State} {m key n : Nat} {kind : Kind} {tg : Nat × Nat × Nat}
    (h : s.denial m kind key n = some tg) : s.noteDenial m kind key n = s.capture m kind tg := by
  simp only [State.noteDenial, h]

/-! ### Operations of a warp -/

theorem State.op?_updOp (s : State) (wid id : Nat) (f : Op → Op) :
    ((s.updOp wid id f).warp wid).op? id = ((s.warp wid).op? id).map f := by
  have hupd : ∀ ops : Tbl Op, findKey? id (ops.upd id f) = (findKey? id ops).map f := fun ops => by
    simpa [Tbl.get?] using Tbl.get?_upd ops id id f
  unfold State.updOp
  rw [State.warp_updWarp]
  split
  · exact hupd _
  · rename_i h
    have hnone : s.warp wid = Warp.empty := by
      simp only [true_and, Option.not_isSome_iff_eq_none] at h
      simp [State.warp, h]
    rw [hnone]
    rfl

theorem State.finishAtomic_of_not_isAtomic {s : State} {wid id : Nat}
    (h : ∀ o, (s.warp wid).op? id = some o → o.isAtomic = false) : s.finishAtomic wid id = s := by
  unfold State.finishAtomic
  split
  · rfl
  · rename_i o ho
    simp [h o ho]

theorem State.updOp_pend06 (s : State) (wid id : Nat) (f : Op → Op) :
    ((s.updOp wid id f).warp wid).pend06 = (s.warp wid).pend06 := by
  unfold State.updOp
  rw [State.warp_updWarp]
  split
  · rfl
  · rfl

end Sys2Proof.Machine
end

section
/-! O34: HOME_L2_WRITE of a write that nothing older holds back. -/

namespace Sys2Proof.Machine
open Host

/-- `s` with write `n` of core `c` no longer outbound. -/
def State.withdrawn (s : State) (c n : Nat) : State :=
  s.updCore c fun x => { x with outbound := x.outbound.filter fun y => y.1 != n }

/-- The operation with `g` done to the accesses of one lane. -/
def Op.answered (lane : Nat) (g : Access → Access) (o : Op) : Op :=
  { o with accesses := o.accesses.map fun a => if a.lane != lane then a else g a }

def Access.refused (a : Access) : Access := { a with denied := true }

theorem State.writeOver_performed (s : State) (c n : Nat) (e : Outbound) :
    ∃ g, s.writeOver c n e false = (s.withdrawn c n).updOp e.wid e.op (.answered e.lane g) := ⟨_, rfl⟩

theorem State.writeOver_denied (s : State) (c n : Nat) (e : Outbound) :
    s.writeOver c n e true = (((s.withdrawn c n).updOp e.wid e.op (.answered e.lane .refused)).noteDenial
      e.cid .write e.key e.data.length).dropL1 c e.key e.data.length := rfl

@[simp] theorem State.bad_writeOver_performed (s : State) (c n : Nat) (e : Outbound) :
    (s.writeOver c n e false).bad = s.bad := rfl

theorem State.findKey?_outbound_withdrawn (s : State) (c n : Nat) :
    findKey? n ((s.withdrawn c n).core c).outbound = none := by
  rw [State.withdrawn, State.core_updCore_self]
  exact findKey?_filter_eq_none (by simp) _

theorem State.outbound_dropL1 (s : State) (c key n : Nat) :
    ((s.dropL1 c key n).core c).outbound = (s.core c).outbound := by
  rw [State.dropL1, State.core_updCore_self]
  rfl

/-- The write has left its core, performed or denied. -/
theorem State.findKey?_outbound_writeOver (s : State) (c n : Nat) (e : Outbound) (deny : Bool) :
    findKey? n ((s.writeOver c n e deny).core c).outbound = none := by
  cases deny with
  | false =>
    obtain ⟨g, h⟩ := s.writeOver_performed c n e
    rw [h]
    exact s.findKey?_outbound_withdrawn c n
  | true =>
    rw [State.writeOver_denied, State.outbound_dropL1, (State.onlyDies_noteDenial _ _ _ _ _).core]
    exact s.findKey?_outbound_withdrawn c n

theorem State.op?_writeOver (s : State) (c n : Nat) (e : Outbound) (deny : Bool) :
    ∃ g, ((s.writeOver c n e deny).warp e.wid).op? e.op = ((s.warp e.wid).op? e.op).map (.answered e.lane g) := by
  cases deny with
  | false =>
    obtain ⟨g, h⟩ := s.writeOver_performed c n e
    refine ⟨g, ?_⟩
    rw [h]
    exact State.op?_updOp _ _ _ _
  | true =>
    refine ⟨.refused, ?_⟩
    rw [State.writeOver_denied]
    change (((State.noteDenial _ e.cid .write e.key e.data.length).warp e.wid).op? e.op) = _
    rw [(State.onlyDies_noteDenial _ _ _ _ _).warp]
    exact State.op?_updOp _ _ _ _

/-- The write of an operation that is no atomic ends with `writeOver`: there is no atomic to finish. -/
theorem State.finishAtomic_writeOver {s : State} {e : Outbound}
    (h : ∀ q, (s.warp e.wid).op? e.op = some q → q.isAtomic = false) (c n : Nat) (deny : Bool) :
    (s.writeOver c n e deny).finishAtomic e.wid e.op = s.writeOver c n e deny := by
  refine State.finishAtomic_of_not_isAtomic fun o ho => ?_
  obtain ⟨g, hg⟩ := s.op?_writeOver c n e deny
  rw [hg, Option.map_eq_some_iff] at ho
  obtain ⟨q, hq, rfl⟩ := ho
  exact h q hq

/-- Write `n` of core `c` is `e`, a store's, and nothing holds it back: no older write or atomic to its bytes is to
come, and Graft has accepted it where its home is the other die. -/
structure State.WriteReady (s : State) (c n : Nat) (e : Outbound) : Prop where
  found : findKey? n (s.core c).outbound = some e
  older : ∀ x ∈ (s.core c).outbound.takeWhile (fun x => x.1 != n),
    x.2.key + x.2.data.length ≤ e.key ∨ e.key + e.data.length ≤ x.2.key
  atomics : s.atomicsAhead c .global 0 n e.key e.data.length = false
  others : s.acceptedBefore false c n e.key e.data.length = false
  sent : remoteTo (dieOfCore c) e.key = true → s.graftAccepts c n = true
  store : ∀ q, (s.warp e.wid).op? e.op = some q → q.isAtomic = false ∧ ∀ a ∈ q.accesses, a.granted = false

section
variable {s : State} {c n : Nat} {e : Outbound}

theorem State.WriteReady.not_granted (h : s.WriteReady c n e) : s.grantedTo e = false := by
  unfold State.grantedTo
  cases hq : (s.warp e.wid).op? e.op with
  | none => rfl
  | some q => simpa using fun a ha _ => (h.store q hq).2 a ha

theorem State.WriteReady.not_atomic (h : s.WriteReady c n e) (q : Op) (hq : (s.warp e.wid).op? e.op = some q) :
    q.isAtomic = false := (h.store q hq).1

theorem State.WriteReady.none_older (h : s.WriteReady c n e) :
    (((s.core c).outbound.takeWhile fun x => x.1 != n).any fun x =>
      sameBytes e.key e.data.length x.2.key x.2.data.length) = false := by
  rw [List.any_eq_false]
  intro x hx
  have := h.older x hx
  simp only [sameBytes, Bool.and_eq_true, decide_eq_true_eq]
  omega

theorem State.WriteReady.not_held (h : s.WriteReady c n e) :
    (remoteTo (dieOfCore c) e.key && !s.graftAccepts c n) = false := by
  cases hr : remoteTo (dieOfCore c) e.key with
  | false => rfl
  | true => simp [h.sent hr]

/-- What the event does with such a write: it denies it, sends an invalidation before it, or performs it. -/
theorem State.WriteReady.exec (h : s.WriteReady c n e) :
    (s.refused e.cid .write e.key e.data.length = true → exec (.homeL2Write c n) s = .next (s.writeOver c n e true)) ∧
    (s.refused e.cid .write e.key e.data.length = false →
      (∀ d ln, s.copyOf e.key e.data.length = some (d, ln) →
        exec (.homeL2Write c n) s = .next (s.sendInvalidation d ln)) ∧
      (s.copyOf e.key e.data.length = none →
        exec (.homeL2Write c n) s = .next ((s.homeWriteAs e.first e.key e.data).writeOver c n e false))) := by
  have hdenied := State.finishAtomic_writeOver h.not_atomic c n true
  have hdone : ((s.homeWriteAs e.first e.key e.data).writeOver c n e false).finishAtomic e.wid e.op =
      (s.homeWriteAs e.first e.key e.data).writeOver c n e false :=
    State.finishAtomic_writeOver (by rw [State.homeWriteAs_warp]; exact h.not_atomic) c n false
  change (_ → execHomeL2Write c n s = _) ∧
    (_ → (∀ d ln, _ → execHomeL2Write c n s = _) ∧ (_ → execHomeL2Write c n s = _))
  simp only [execHomeL2Write, h.found, h.none_older, h.others, h.not_held, h.atomics, h.not_granted, Bool.or_self,
    Bool.false_eq_true, if_false, Bool.not_false, Bool.true_and]
  refine ⟨fun hden => ?_, fun hok => ⟨fun d ln hcopy => ?_, fun hcopy => ?_⟩⟩
  · simp only [hden, if_true, hdenied]
  · simp only [hok, Bool.false_eq_true, if_false, hcopy]
  · simp only [hok, Bool.false_eq_true, if_false, hcopy, hdone]

/-! ### Permitted -/

theorem State.WriteReady.performed (h : s.WriteReady c n e) (hok : s.refused e.cid .write e.key e.data.length = false)
    (hcopy : s.copyOf e.key e.data.length = none) :
    ∃ t, Machine.exec (.homeL2Write c n) s = .next t ∧ findKey? n (t.core c).outbound = none ∧
      (∀ a, Memory.get t.mem a = if h : e.key ≤ a ∧ a < e.key + e.data.length then e.data[a - e.key]'(by omega)
        else Memory.get s.mem a) ∧
      (∀ i, i < e.data.length → t.isBad (e.key + i) 1 = false ∧ Sparse.get false t.vague (e.key + i) = false) ∧
      ∀ d ln, placeOf e.key = .hbm d → d ≤ 1 → linesOf e.key e.data.length = [ln] →
        (∃ first, (t.die d).l2.get? ln = some ⟨true, false, first⟩) ∧ (t.die (1 - d)).rdc.get? ln = none := by
  obtain ⟨-, hpermitted⟩ := h.exec
  obtain ⟨-, hperformed⟩ := hpermitted hok
  refine ⟨(s.homeWriteAs e.first e.key e.data).writeOver c n e false, hperformed hcopy,
    State.findKey?_outbound_writeOver _ _ _ _ _, fun a => ?_, fun i hi => ⟨?_, ?_⟩, fun d ln hplace hd hlines => ?_⟩
  · exact s.get_homeWriteAs_mem e.first e.key e.data a
  · simp [State.isBad, s.get_homeWriteAs_bad e.first e.key e.data hi]
  · exact s.get_homeWriteAs_vague e.first e.key e.data hi
  · exact s.homeWriteAs_line e.first hplace hd hlines

theorem State.inval_mem_sendInvalidation (s : State) (d ln : Nat) :
    .inval ln ∈ ((s.sendInvalidation d ln).die (1 - d)).graft := by
  rw [State.sendInvalidation, State.die_updDie_self]
  split
  · rename_i hc
    exact List.contains_iff_mem.1 hc
  · simp

theorem State.WriteReady.copy_invalidated (h : s.WriteReady c n e)
    (hok : s.refused e.cid .write e.key e.data.length = false) {d ln : Nat}
    (hcopy : s.copyOf e.key e.data.length = some (d, ln)) :
    ∃ t, Machine.exec (.homeL2Write c n) s = .next t ∧ t = { s with dies := t.dies } ∧
      .inval ln ∈ (t.die (1 - d)).graft := by
  obtain ⟨-, hpermitted⟩ := h.exec
  obtain ⟨hcopied, -⟩ := hpermitted hok
  exact ⟨s.sendInvalidation d ln, hcopied d ln hcopy, (s.onlyDies_sendInvalidation d ln).eq,
    s.inval_mem_sendInvalidation d ln⟩

/-! ### Denied -/

theorem State.mem_writeOver_denied (s : State) (c n : Nat) (e : Outbound) : (s.writeOver c n e true).mem = s.mem := by
  rw [State.writeOver_denied]
  change (State.noteDenial _ e.cid .write e.key e.data.length).mem = _
  rw [(State.onlyDies_noteDenial _ _ _ _ _).mem]
  rfl

theorem State.dies_writeOver_denied {tg : Nat × Nat × Nat} (hden : s.denial e.cid .write e.key e.data.length = some tg)
    (c n : Nat) : ∃ u : State, u.dies = s.dies ∧ (s.writeOver c n e true).dies = (u.capture e.cid .write tg).dies := by
  let u := (s.withdrawn c n).updOp e.wid e.op (.answered e.lane .refused)
  have hu : u.denial e.cid .write e.key e.data.length = some tg := hden
  refine ⟨u, rfl, ?_⟩
  rw [State.writeOver_denied, State.noteDenial_of_denial hu]
  rfl

theorem State.die_congr {t : State} (h : s.dies = t.dies) (d : Nat) : s.die d = t.die d := by
  rw [State.die, State.die, h]

theorem State.captures_writeOver_denied {tg : Nat × Nat × Nat}
    (hden : s.denial e.cid .write e.key e.data.length = some tg) (c n : Nat) :
    Sparse.get (⟨false, 0, 0, 0, 0⟩ : Capture) ((s.writeOver c n e true).die tg.1).captures tg.2.1 =
      (Sparse.get (⟨false, 0, 0, 0, 0⟩ : Capture) (s.die tg.1).captures tg.2.1).noted e.cid .write tg.2.2 := by
  obtain ⟨u, hu, ht⟩ := State.dies_writeOver_denied hden c n
  rw [State.die_congr ht, State.captures_capture, State.die_congr hu]

theorem State.rdc_writeOver_denied {tg : Nat × Nat × Nat}
    (hden : s.denial e.cid .write e.key e.data.length = some tg) (c n : Nat) :
    ((s.writeOver c n e true).die (1 - tg.1)).rdc.get? (tg.2.2 / 128) = none := by
  obtain ⟨u, hu, ht⟩ := State.dies_writeOver_denied hden c n
  rw [State.die_congr ht, State.rdc_capture_write]

theorem State.op?_writeOver_denied {q : Op} {a : Access} (hq : (s.warp e.wid).op? e.op = some q)
    (hacc : q.accesses = [a]) (hlane : a.lane = e.lane) (c n : Nat) :
    ((s.writeOver c n e true).warp e.wid).op? e.op = some { q with accesses := [a.refused] } := by
  rw [State.writeOver_denied]
  change (((State.noteDenial _ e.cid .write e.key e.data.length).warp e.wid).op? e.op) = _
  rw [(State.onlyDies_noteDenial _ _ _ _ _).warp, State.op?_updOp]
  change ((s.warp e.wid).op? e.op).map _ = _
  simp [hq, Op.answered, hacc, hlane]

theorem State.pend06_writeOver_denied (s : State) (c n : Nat) (e : Outbound) :
    ((s.writeOver c n e true).warp e.wid).pend06 = (s.warp e.wid).pend06 := by
  rw [State.writeOver_denied]
  change ((State.noteDenial _ e.cid .write e.key e.data.length).warp e.wid).pend06 = _
  rw [(State.onlyDies_noteDenial _ _ _ _ _).warp, State.updOp_pend06]
  rfl

theorem State.warps_writeOver_denied_isSome (hwarp : (s.warps.get? e.wid).isSome = true) (c n : Nat) :
    ((s.writeOver c n e true).warps.get? e.wid).isSome = true := by
  rw [State.writeOver_denied]
  change ((State.noteDenial _ e.cid .write e.key e.data.length).warps.get? e.wid).isSome = true
  rw [(State.onlyDies_noteDenial _ _ _ _ _).warps]
  rw [State.updOp, State.updWarp_warps, Tbl.get?_upd, if_pos rfl, Option.isSome_map]
  exact hwarp

/-- The denial response of an operation that reads nothing: trap 0x06 is due at the denied access's address, unless one
is due already. -/
theorem execDeferredDenial_of_denied {wid id : Nat} {o : Op} {a : Access} (ho : (s.warp wid).op? id = some o)
    (ha : o.accesses.find? (·.denied) = some a) (hreads : o.reads = false) (hwarp : (s.warps.get? wid).isSome = true) :
    ∃ u, execDeferredDenial wid id s = .next u ∧ u.mem = s.mem ∧
      (u.warp wid).pend06 = if (s.warp wid).pend06.isSome then (s.warp wid).pend06 else some ⟨0, a.addr⟩ := by
  unfold execDeferredDenial
  simp only [ho, ha, hreads, Bool.false_eq_true, if_false]
  refine ⟨_, rfl, rfl, ?_⟩
  rw [State.updOp_pend06, State.warp_updWarp, if_pos ⟨rfl, hwarp⟩]

theorem State.WriteReady.denied (h : s.WriteReady c n e) {q : Op} {a : Access}
    (hden : s.refused e.cid .write e.key e.data.length = true) (hops : (s.warp e.wid).ops = [(e.op, q)])
    (hwarp : (s.warps.get? e.wid).isSome = true) (hload : q.isLoad = false) (hacc : q.accesses = [a])
    (hlane : a.lane = e.lane) :
    ∃ t u, Machine.exec (.homeL2Write c n) s = .next t ∧ t.mem = s.mem ∧ findKey? n (t.core c).outbound = none ∧
      (∀ tg, s.denial e.cid .write e.key e.data.length = some tg →
        let blank : Capture := ⟨false, 0, 0, 0, 0⟩
        let old := Sparse.get blank (s.die tg.1).captures tg.2.1
        Sparse.get blank (t.die tg.1).captures tg.2.1 =
          if old.v then { old with count := if old.count = 0xFFFFFFFF then old.count else old.count + 1 }
          else ⟨true, BitVec.ofNat 8 e.cid, 1, BitVec.ofNat 46 tg.2.2, 0⟩) ∧
      (∀ tg, s.denial e.cid .write e.key e.data.length = some tg → (t.die (1 - tg.1)).rdc.get? (tg.2.2 / 128) = none) ∧
      Machine.exec (.deferredDenial e.wid e.op) t = .next u ∧ u.mem = s.mem ∧ (u.warp e.wid).pend06 =
        if (s.warp e.wid).pend06.isSome then (s.warp e.wid).pend06 else some ⟨0, a.addr⟩ := by
  have hq : (s.warp e.wid).op? e.op = some q := by simp [Warp.op?, hops, findKey?]
  have hreads : q.reads = false := by simp [Op.reads, hload, h.not_atomic q hq]
  obtain ⟨u, hexec, hmem, hpend⟩ := execDeferredDenial_of_denied (s := s.writeOver c n e true)
    (State.op?_writeOver_denied hq hacc hlane c n) (a := a.refused) (by simp [Access.refused]) hreads
    (State.warps_writeOver_denied_isSome hwarp c n)
  obtain ⟨hdenied, -⟩ := h.exec
  refine ⟨s.writeOver c n e true, u, hdenied hden, s.mem_writeOver_denied c n e,
    s.findKey?_outbound_writeOver c n e true, fun tg htg => State.captures_writeOver_denied htg c n,
    fun tg htg => State.rdc_writeOver_denied htg c n, hexec, hmem.trans (s.mem_writeOver_denied c n e), ?_⟩
  rw [hpend, State.pend06_writeOver_denied]
  rfl

end

/-- Settles O34: a write that nothing holds back is denied, sends an invalidation before it, or is performed. -/
theorem storeAtHome : Obligations.StoreAtHome := by
  unfold Obligations.StoreAtHome
  intro s c n e found older atomics others sent store
  have h : s.WriteReady c n e := ⟨found, older, atomics, others, sent, store⟩
  exact ⟨fun hok => ⟨h.performed hok, fun d ln hcopy => h.copy_invalidated hok hcopy⟩,
    fun q a hden hops hwarp _ hload hacc hlane _ => h.denied hden hops hwarp hload hacc hlane⟩

end Sys2Proof.Machine
end

section
/-! O39 fails. Its clause on a fill that a load waits for takes the load to be the operation of `s.warp wid`; a warp
table that lists a number twice has one warp that `s.warp` answers and another that the fill counts among its waiting
loads. Nothing in the statement shuts such a table out. -/

namespace Sys2Proof.Machine
open Host

/-- The L1 fill on its way to core 0: line 0, which no acquire has overtaken. -/
def twinFill : Fill := ⟨0, 0, .normal, false⟩

/-- An operation that is no load and accesses nothing. -/
def twinIdleOp : Op := { (default : Op) with ins := .nop default }

/-- A global load of the first four bytes of line 0, which its target permits. -/
def twinLoadOp : Op :=
  { (default : Op) with isLoad := true, size := 4, accesses := [{ (default : Access) with granted := true }] }

/-- Two warps of core 0 under the number 0. The first, which `State.warp` answers, has the idle operation under the
number under which the second has its load. -/
def twinWarps : State :=
  { State.reset with
    warps := [(0, { Warp.empty with ops := [(1, twinIdleOp)] }), (0, { Warp.empty with ops := [(1, twinLoadOp)] })]
    cores := [(0, { Core.empty with fills := [twinFill] })] }

theorem twinWarps_waitingLoads : twinWarps.waitingLoads 0 0 = [(0, 1)] := by decide

@[simp] theorem twinIdleOp_accesses : twinIdleOp.accesses = [] := rfl

@[simp] theorem l1Byte_twinWarps : twinWarps.l1Byte 0 0 = none := rfl

/-- The fill lands for the second warp's load. -/
theorem exec_l1Fill_twinWarps : exec (.l1Fill 0 0) twinWarps = .next (twinWarps.landFill 0 twinFill [(0, 1)]) := rfl

/-- The fill keeps the sector that the second warp's load touches. -/
theorem l1Byte_landFill_twinWarps : (twinWarps.landFill 0 twinFill [(0, 1)]).l1Byte 0 0 = some 0 := by
  decide +kernel

/-- Refutes O39, by `twinWarps`: no access of the waiting load that the statement looks at touches byte 0 of the line, so
L1 is to drop it; L1 keeps it, for the load of the other warp of that number. -/
theorem not_cacheEvents : ¬ Obligations.CacheEvents := by
  unfold Obligations.CacheEvents
  intro h
  obtain ⟨-, hfill, -⟩ := h twinWarps 0 0 0 0 0 (by decide)
  obtain ⟨-, hwait⟩ := hfill twinFill (by decide) rfl rfl (by decide) (by decide) (by decide) (fun _ _ => rfl)
  obtain ⟨t, q', hexec, -, -, -, hbytes⟩ :=
    hwait 0 1 twinIdleOp (by decide) twinWarps_waitingLoads rfl rfl rfl rfl rfl (fun _ ha => nomatch ha)
  have hnone : t.l1Byte 0 0 = none := by simpa using hbytes 0 (by decide)
  obtain rfl : twinWarps.landFill 0 twinFill [(0, 1)] = t := by
    simpa only [exec_l1Fill_twinWarps, Outcome.next.injEq] using hexec
  exact absurd (l1Byte_landFill_twinWarps.symm.trans hnone) (by decide)

end Sys2Proof.Machine
end
